-- ==== Sys2Proof/Word.lean ====
section
/-! DEFINITION. The word types of the machine and the one sparse table every part of the state is held in. -/

namespace Sys2Proof

/-- A 32-bit register, R16. -/
abbrev Word := BitVec 32
/-- A 64-bit quantity: a pair of registers, a timeline value, an address before it is checked. -/
abbrev DWord := BitVec 64
/-- One byte of memory. -/
abbrev Byte := BitVec 8
/-- A set of lanes of one wave: bit l is lane l, R155. -/
abbrev Lanes := BitVec 128
/-- A 9-bit register specifier of a syllable, R132. -/
abbrev Spec := BitVec 9
/-- A sparse table: keys strictly rising, no entry equal to the table's default. -/
abbrev Table (α : Type) := List (Nat × α)

end Sys2Proof
end

