-- ==== Sys2Proof/Syntax.lean ====
section
/-! DEFINITION. The abstract syntax: the seven field formats of a syllable (R125 to R131, R259), the operands of the events of
the other agents, and one constructor of Instr per row of spec/opcode_table.json. A syllable's constructor carries the header
(R123) and the fields of its format; an event's constructor names the agent and the object the row is about. -/

namespace Sys2Proof

/-- The header of a syllable, less class and opcode, R123. -/
structure Hdr where
  /-- 1: last syllable of the bundle. -/
  e : Bool
  /-- 1: the predicate is negated. -/
  pn : Bool
  /-- Predicate index: a lane predicate (V, M) or a wave condition (U, X), R124. -/
  pi : BitVec 4
  deriving DecidableEq, Repr

/-- Format A, three sources, R125. -/
structure FmtA where
  d : Spec
  s1 : Spec
  s2 : Spec
  s3 : Spec
  m1 : BitVec 3
  m2 : BitVec 3
  m3 : BitVec 3
  ew : BitVec 2
  deriving DecidableEq, Repr

/-- Format B, register and immediate, R127. -/
structure FmtB where
  d : Spec
  s1 : Spec
  m1 : BitVec 3
  ew : BitVec 2
  imm : BitVec 24
  deriving DecidableEq, Repr

/-- Format C, long immediate, R128. -/
structure FmtC where
  d : Spec
  f : BitVec 6
  imm : BitVec 32
  deriving DecidableEq, Repr

/-- Format M, memory, R129; z is the zero field of bits 1:0. -/
structure FmtM where
  d : Spec
  b : Spec
  off : BitVec 18
  sp : BitVec 2
  sc : BitVec 3
  ord : BitVec 2
  ch : BitVec 2
  z : BitVec 2
  deriving DecidableEq, Repr

/-- Format M as the atomics split it, R259. -/
structure FmtT where
  d : Spec
  b : Spec
  a : Spec
  aoff : BitVec 9
  sp : BitVec 2
  sc : BitVec 3
  ord : BitVec 2
  aw : BitVec 2
  z : BitVec 2
  deriving DecidableEq, Repr

/-- Format J, branch, R130. -/
structure FmtJ where
  off : BitVec 32
  l : Spec
  k : BitVec 4
  f : BitVec 2
  deriving DecidableEq, Repr

/-- Format E, engine command, R131. -/
structure FmtE where
  t1 : BitVec 4
  t2 : BitVec 4
  t3 : BitVec 4
  fs : BitVec 3
  s1 : Spec
  s2 : Spec
  f : BitVec 14
  deriving DecidableEq, Repr

/-- Format Y, system, R131. -/
structure FmtY where
  d : Spec
  sr : BitVec 10
  s1 : Spec
  f : BitVec 19
  deriving DecidableEq, Repr

/-! ## Operands of the events -/

/-- Which store leaves or arrives, R329: the head entry of a wave's store queue leaves it, or entry k of a core's fabric lanes
reaches its executing point. -/
inductive StoreSite where
  | leave (b w : Nat)
  | arrive (core k : Nat)
  deriving DecidableEq, Repr

/-- A raster or ray command leaves the head of the engine queue, or the k-th one that has left it ends, R290. -/
inductive EngineAct where
  | leave
  | finish (k : Nat)
  deriving DecidableEq, Repr

/-- A request to the table-update engine, R237: entry index and level of the walk of a virtual address in a context, the value
expected and the new value, whether 16 entries of a group are meant, and whether the Daybreak monitor asks (R421). -/
structure TableReq where
  ctx : Nat
  va : BitVec 52
  level : Nat
  expect : DWord
  new : DWord
  group : Bool
  monitor : Bool
  deriving DecidableEq, Repr

/-- One access of the host to BAR0, R72: byte offset, bytes, written value. -/
structure Bar0Access where
  offset : Nat
  width : Nat
  value : DWord
  deriving DecidableEq, Repr

/-- The operation of a request that reaches device memory from outside, R71, R346, R347. -/
inductive MemOp where
  | read (n : Nat)
  | write (bytes : List Byte)
  | fetchAdd (n : Nat) (v : DWord)
  | swap (n : Nat) (v : DWord)
  | cas (n : Nat) (cmp new : BitVec 128)
  deriving DecidableEq, Repr

/-- A request of the host at an offset of BAR2, R69, R71. -/
structure MemRequest where
  addr : Nat
  op : MemOp
  deriving DecidableEq, Repr

/-- A request of a peer module to a virtual address of the context paired with its own, R269, R347. -/
structure PeerRequest where
  ctx : Nat
  va : DWord
  op : MemOp
  deriving DecidableEq, Repr

/-- What a pre-emption request names, R402, R422. -/
inductive PreemptTarget where
  | block (b : Nat)
  | launch (l : Nat)
  | context (c : Nat)
  /-- The launches of one replay: graph handle and replay number. -/
  | replay (handle number : Nat)
  deriving DecidableEq, Repr

/-- What a core lost on a failed bridge lane, R388: a packet of entry k of its copy table, the access that entry k of its fabric is,
data of the k-th outstanding load of a wave, with their physical and virtual addresses and their lane, a row of the TLD or TST that its
matrix engine runs, data that its k-th RAYQ in flight reads, or a packet of the command at the head of its engine queue. -/
inductive LinkSite where
  | copy (k : Nat)
  | access (k : Nat)
  | load (b w k pa : Nat) (va : DWord) (lane : Option Nat)
  | tile (row : Nat)
  | ray (k pa : Nat) (va : DWord)
  | head (pa : Nat) (va : DWord)
  deriving DecidableEq, Repr

/-- A core that has become hot, R113: the degrees that its sensor reads and the coolest core that its block fits. -/
structure HotCore where
  dest : Nat
  celsius : Nat
  deriving DecidableEq, Repr

/-- The write of a firmware image to flash, R424: it begins, and it is complete. -/
inductive FlashWrite where
  | begins
  | ends
  deriving DecidableEq, Repr

/-- What one poll of the shelf found, R404: whether it succeeded, the LINEAR11 words of READ_VIN and READ_FREQUENCY, and the module
power Pm the Daybreak monitor measured over the interval (R408). -/
structure ShelfReading where
  ok : Bool
  vin : BitVec 16
  freq : BitVec 16
  pm : Nat
  deriving DecidableEq, Repr

/-- A timeline signal from a peer module, R347, R366. -/
structure PeerSignal where
  ctx : Nat
  n : BitVec 12
  inc : Bool
  value : DWord
  deriving DecidableEq, Repr

/-- Where an uncorrectable error is found, R386 code 0x28: block, wave (for a register), structure (0 vector, 1 scalar, 2 scratchpad,
3 tile, 4 plane), and physical register, scratchpad offset, tile or plane. -/
structure SramError where
  b : Nat
  w : Nat
  structureCode : BitVec 4
  index : BitVec 32
  deriving DecidableEq, Repr

/-- The Daylight runtime places a stream ring, R280. -/
structure RingPlacement where
  core : Nat
  ring : BitVec 2
  ctx : Nat
  base : BitVec 10
  slotsz : BitVec 16
  slots : BitVec 8
  deriving DecidableEq, Repr

/-- The Daylight runtime assigns a named queue of capacity 2^k, R374. -/
structure QueueAssignment where
  queue : Nat
  ctx : Nat
  k : Nat
  deriving DecidableEq, Repr

/-- One constructor per row of spec/opcode_table.json. -/
inductive Instr where
  /-- NOP, class U, OP 0x00, R171. -/
  | nop (h : Hdr) (o : FmtA)
  /-- SADD, class U, OP 0x01, R187. -/
  | sadd (h : Hdr) (o : FmtA)
  /-- SSUB, class U, OP 0x02, R187. -/
  | ssub (h : Hdr) (o : FmtA)
  /-- SMUL, class U, OP 0x03, R187. -/
  | smul (h : Hdr) (o : FmtA)
  /-- SMULH, class U, OP 0x04, R187. -/
  | smulh (h : Hdr) (o : FmtA)
  /-- SMULHU, class U, OP 0x05, R187. -/
  | smulhu (h : Hdr) (o : FmtA)
  /-- SDIV, class U, OP 0x06, R188. -/
  | sdiv (h : Hdr) (o : FmtA)
  /-- SDIVU, class U, OP 0x07, R188. -/
  | sdivu (h : Hdr) (o : FmtA)
  /-- SAND, class U, OP 0x0A, R187. -/
  | sand (h : Hdr) (o : FmtA)
  /-- SOR, class U, OP 0x0B, R187. -/
  | sor (h : Hdr) (o : FmtA)
  /-- SXOR, class U, OP 0x0C, R187. -/
  | sxor (h : Hdr) (o : FmtA)
  /-- SANDN, class U, OP 0x0D, R187. -/
  | sandn (h : Hdr) (o : FmtA)
  /-- SSHL, class U, OP 0x0E, R187. -/
  | sshl (h : Hdr) (o : FmtA)
  /-- SSHR, class U, OP 0x0F, R187. -/
  | sshr (h : Hdr) (o : FmtA)
  /-- SSRA, class U, OP 0x10, R187. -/
  | ssra (h : Hdr) (o : FmtA)
  /-- SMIN, class U, OP 0x11, R187. -/
  | smin (h : Hdr) (o : FmtA)
  /-- SMAX, class U, OP 0x12, R187. -/
  | smax (h : Hdr) (o : FmtA)
  /-- SMINU, class U, OP 0x13, R187. -/
  | sminu (h : Hdr) (o : FmtA)
  /-- SMAXU, class U, OP 0x14, R187. -/
  | smaxu (h : Hdr) (o : FmtA)
  /-- SCMP, class U, OP 0x15, R189. -/
  | scmp (h : Hdr) (o : FmtA)
  /-- SSEL, class U, OP 0x16, R191. -/
  | ssel (h : Hdr) (o : FmtA)
  /-- SPOPC, class U, OP 0x17, R193. -/
  | spopc (h : Hdr) (o : FmtA)
  /-- SCLZ, class U, OP 0x18, R193. -/
  | sclz (h : Hdr) (o : FmtA)
  /-- SBFX, class U, OP 0x19, R194. -/
  | sbfx (h : Hdr) (o : FmtA)
  /-- SBFI, class U, OP 0x1A, R194. -/
  | sbfi (h : Hdr) (o : FmtA)
  /-- SADD64, class U, OP 0x1B, R197. -/
  | sadd64 (h : Hdr) (o : FmtA)
  /-- SADDI, class U, OP 0x20, R195. -/
  | saddi (h : Hdr) (o : FmtB)
  /-- SANDI, class U, OP 0x21, R195. -/
  | sandi (h : Hdr) (o : FmtB)
  /-- SORI, class U, OP 0x22, R195. -/
  | sori (h : Hdr) (o : FmtB)
  /-- SXORI, class U, OP 0x23, R195. -/
  | sxori (h : Hdr) (o : FmtB)
  /-- SSHLI, class U, OP 0x24, R195. -/
  | sshli (h : Hdr) (o : FmtB)
  /-- SSHRI, class U, OP 0x25, R195. -/
  | sshri (h : Hdr) (o : FmtB)
  /-- SSRAI, class U, OP 0x26, R195. -/
  | ssrai (h : Hdr) (o : FmtB)
  /-- SCMPI, class U, OP 0x27, R190. -/
  | scmpi (h : Hdr) (o : FmtB)
  /-- SLI, class U, OP 0x28, R196. -/
  | sli (h : Hdr) (o : FmtC)
  /-- SLI_HI, class U, OP 0x28, R196. -/
  | sliHi (h : Hdr) (o : FmtC)
  /-- SLI_SX, class U, OP 0x28, R196. -/
  | sliSx (h : Hdr) (o : FmtC)
  /-- CLOG, class U, OP 0x29, R181. -/
  | clog (h : Hdr) (o : FmtA)
  /-- BR, class U, OP 0x40, R173. -/
  | br (h : Hdr) (o : FmtJ)
  /-- BRL, class U, OP 0x41, R173. -/
  | brl (h : Hdr) (o : FmtJ)
  /-- BRI, class U, OP 0x42, R173. -/
  | bri (h : Hdr) (o : FmtJ)
  /-- BRLI, class U, OP 0x43, R173. -/
  | brli (h : Hdr) (o : FmtJ)
  /-- BRP, class U, OP 0x44, R173. -/
  | brp (h : Hdr) (o : FmtJ)
  /-- LOOPB, class U, OP 0x45, R176. -/
  | loopb (h : Hdr) (o : FmtJ)
  /-- EXIT, class U, OP 0x46, R177. -/
  | exit (h : Hdr) (o : FmtJ)
  /-- TRAP, class U, OP 0x47, R178. -/
  | trap (h : Hdr) (o : FmtC)
  /-- BRK, class U, OP 0x4D, R178. -/
  | brk (h : Hdr) (o : FmtC)
  /-- SWPT, class U, OP 0x48, R179. -/
  | swpt (h : Hdr) (o : FmtC)
  /-- TRIGGER, class U, OP 0x49, R370. -/
  | trigger (h : Hdr) (o : FmtY)
  /-- GRIDWAIT, class U, OP 0x4A, R371. -/
  | gridwait (h : Hdr) (o : FmtY)
  /-- WAIT, class U, OP 0x4B, R180. -/
  | wait (h : Hdr) (o : FmtC)
  /-- MFS, class U, OP 0x60, R182. -/
  | mfs (h : Hdr) (o : FmtY)
  /-- MTS, class U, OP 0x61, R182. -/
  | mts (h : Hdr) (o : FmtY)
  /-- MTS_TSH, class U, OP 0x61, R296. -/
  | mtsTsh (h : Hdr) (o : FmtY)
  /-- MTS_PLANE, class U, OP 0x61, R298. -/
  | mtsPlane (h : Hdr) (o : FmtY)
  /-- MTS_SPLIT, class U, OP 0x61, R299. -/
  | mtsSplit (h : Hdr) (o : FmtY)
  /-- MTS_ROT, class U, OP 0x61, R175. -/
  | mtsRot (h : Hdr) (o : FmtY)
  /-- RING_RESET, class U, OP 0x61, R280. -/
  | ringReset (h : Hdr) (o : FmtY)
  /-- MTS_DRPTH, class U, OP 0x61, R403. -/
  | mtsDrpth (h : Hdr) (o : FmtY)
  /-- SHELFCTL_WRITE, class U, OP 0x61, R405. -/
  | shelfctlWrite (h : Hdr) (o : FmtY)
  /-- SHELFCTL_LOAD, class U, OP 0x61, R407. -/
  | shelfctlLoad (h : Hdr) (o : FmtY)
  /-- TIME, class U, OP 0x62, R183. -/
  | time (h : Hdr) (o : FmtY)
  /-- CYC, class U, OP 0x63, R183. -/
  | cyc (h : Hdr) (o : FmtY)
  /-- FENCE_REL, class U, OP 0x64, R338. -/
  | fenceRel (h : Hdr) (o : FmtY)
  /-- FENCE_ACQ, class U, OP 0x64, R338. -/
  | fenceAcq (h : Hdr) (o : FmtY)
  /-- FENCE_FULL, class U, OP 0x64, R338. -/
  | fenceFull (h : Hdr) (o : FmtY)
  /-- RFX_RESUME, class U, OP 0x65, R391. -/
  | rfxResume (h : Hdr) (o : FmtY)
  /-- RFX_SKIP, class U, OP 0x65, R391. -/
  | rfxSkip (h : Hdr) (o : FmtY)
  /-- RFX_KILLB, class U, OP 0x65, R391. -/
  | rfxKillb (h : Hdr) (o : FmtY)
  /-- RFX_KILLL, class U, OP 0x65, R391. -/
  | rfxKilll (h : Hdr) (o : FmtY)
  /-- XINV, class U, OP 0x66, R392. -/
  | xinv (h : Hdr) (o : FmtY)
  /-- XINV_ALL, class U, OP 0x66, R392. -/
  | xinvAll (h : Hdr) (o : FmtY)
  /-- VADD, class V, OP 0x00, R187. -/
  | vadd (h : Hdr) (o : FmtA)
  /-- VSUB, class V, OP 0x01, R187. -/
  | vsub (h : Hdr) (o : FmtA)
  /-- VADDS, class V, OP 0x02, R187. -/
  | vadds (h : Hdr) (o : FmtA)
  /-- VADDSU, class V, OP 0x03, R187. -/
  | vaddsu (h : Hdr) (o : FmtA)
  /-- VSUBS, class V, OP 0x04, R187. -/
  | vsubs (h : Hdr) (o : FmtA)
  /-- VSUBSU, class V, OP 0x05, R187. -/
  | vsubsu (h : Hdr) (o : FmtA)
  /-- VMUL, class V, OP 0x06, R187. -/
  | vmul (h : Hdr) (o : FmtA)
  /-- VMULH, class V, OP 0x07, R187. -/
  | vmulh (h : Hdr) (o : FmtA)
  /-- VMULHU, class V, OP 0x08, R187. -/
  | vmulhu (h : Hdr) (o : FmtA)
  /-- VMAD, class V, OP 0x09, R187. -/
  | vmad (h : Hdr) (o : FmtA)
  /-- VAND, class V, OP 0x0A, R187. -/
  | vand (h : Hdr) (o : FmtA)
  /-- VOR, class V, OP 0x0B, R187. -/
  | vor (h : Hdr) (o : FmtA)
  /-- VXOR, class V, OP 0x0C, R187. -/
  | vxor (h : Hdr) (o : FmtA)
  /-- VANDN, class V, OP 0x0D, R187. -/
  | vandn (h : Hdr) (o : FmtA)
  /-- VSHL, class V, OP 0x0E, R187. -/
  | vshl (h : Hdr) (o : FmtA)
  /-- VSHR, class V, OP 0x0F, R187. -/
  | vshr (h : Hdr) (o : FmtA)
  /-- VSRA, class V, OP 0x10, R187. -/
  | vsra (h : Hdr) (o : FmtA)
  /-- VMIN, class V, OP 0x11, R187. -/
  | vmin (h : Hdr) (o : FmtA)
  /-- VMAX, class V, OP 0x12, R187. -/
  | vmax (h : Hdr) (o : FmtA)
  /-- VMINU, class V, OP 0x13, R187. -/
  | vminu (h : Hdr) (o : FmtA)
  /-- VMAXU, class V, OP 0x14, R187. -/
  | vmaxu (h : Hdr) (o : FmtA)
  /-- VABSD, class V, OP 0x15, R187. -/
  | vabsd (h : Hdr) (o : FmtA)
  /-- VCMP, class V, OP 0x16, R189. -/
  | vcmp (h : Hdr) (o : FmtA)
  /-- VSEL, class V, OP 0x17, R191. -/
  | vsel (h : Hdr) (o : FmtA)
  /-- VMOV, class V, OP 0x18, R192. -/
  | vmov (h : Hdr) (o : FmtA)
  /-- VPOPC, class V, OP 0x19, R193. -/
  | vpopc (h : Hdr) (o : FmtA)
  /-- VCLZ, class V, OP 0x1A, R193. -/
  | vclz (h : Hdr) (o : FmtA)
  /-- VBFX, class V, OP 0x1B, R194. -/
  | vbfx (h : Hdr) (o : FmtA)
  /-- VBFI, class V, OP 0x1C, R194. -/
  | vbfi (h : Hdr) (o : FmtA)
  /-- VADDI, class V, OP 0x1D, R195. -/
  | vaddi (h : Hdr) (o : FmtB)
  /-- VANDI, class V, OP 0x1E, R195. -/
  | vandi (h : Hdr) (o : FmtB)
  /-- VSHLI, class V, OP 0x1F, R195. -/
  | vshli (h : Hdr) (o : FmtB)
  /-- VSHRI, class V, OP 0x20, R195. -/
  | vshri (h : Hdr) (o : FmtB)
  /-- VSRAI, class V, OP 0x21, R195. -/
  | vsrai (h : Hdr) (o : FmtB)
  /-- VLI, class V, OP 0x22, R196. -/
  | vli (h : Hdr) (o : FmtC)
  /-- VLI_HI, class V, OP 0x22, R196. -/
  | vliHi (h : Hdr) (o : FmtC)
  /-- VLI_SX, class V, OP 0x22, R196. -/
  | vliSx (h : Hdr) (o : FmtC)
  /-- VDOT4, class V, OP 0x23, R198. -/
  | vdot4 (h : Hdr) (o : FmtA)
  /-- VPACK, class V, OP 0x24, R199. -/
  | vpack (h : Hdr) (o : FmtA)
  /-- VUNPK, class V, OP 0x25, R200. -/
  | vunpk (h : Hdr) (o : FmtA)
  /-- VCMPI, class V, OP 0x26, R190. -/
  | vcmpi (h : Hdr) (o : FmtB)
  /-- VADD64, class V, OP 0x27, R197. -/
  | vadd64 (h : Hdr) (o : FmtA)
  /-- PLOG, class V, OP 0x28, R181. -/
  | plog (h : Hdr) (o : FmtA)
  /-- FADD, class V, OP 0x40, R205. -/
  | fadd (h : Hdr) (o : FmtA)
  /-- FSUB, class V, OP 0x41, R205. -/
  | fsub (h : Hdr) (o : FmtA)
  /-- FMUL, class V, OP 0x42, R205. -/
  | fmul (h : Hdr) (o : FmtA)
  /-- FFMA, class V, OP 0x43, R206. -/
  | ffma (h : Hdr) (o : FmtA)
  /-- FMIN, class V, OP 0x44, R207. -/
  | fmin (h : Hdr) (o : FmtA)
  /-- FMAX, class V, OP 0x45, R207. -/
  | fmax (h : Hdr) (o : FmtA)
  /-- FCMP, class V, OP 0x46, R208. -/
  | fcmp (h : Hdr) (o : FmtA)
  /-- FCVT, class V, OP 0x47, R212. -/
  | fcvt (h : Hdr) (o : FmtA)
  /-- FCVTI, class V, OP 0x48, R213. -/
  | fcvti (h : Hdr) (o : FmtA)
  /-- ICVTF, class V, OP 0x49, R214. -/
  | icvtf (h : Hdr) (o : FmtA)
  /-- FMAXK, class V, OP 0x4A, R215. -/
  | fmaxk (h : Hdr) (o : FmtA)
  /-- FCLASS, class V, OP 0x4B, R209. -/
  | fclass (h : Hdr) (o : FmtA)
  /-- FDOT2, class V, OP 0x4C, R210. -/
  | fdot2 (h : Hdr) (o : FmtA)
  /-- FMXQ, class V, OP 0x4D, R216. -/
  | fmxq (h : Hdr) (o : FmtA)
  /-- FMXD, class V, OP 0x4E, R217. -/
  | fmxd (h : Hdr) (o : FmtA)
  /-- SFSIN, class V, OP 0x60, R218. -/
  | sfsin (h : Hdr) (o : FmtA)
  /-- SFCOS, class V, OP 0x61, R218. -/
  | sfcos (h : Hdr) (o : FmtA)
  /-- SFEXP2, class V, OP 0x62, R218. -/
  | sfexp2 (h : Hdr) (o : FmtA)
  /-- SFLOG2, class V, OP 0x63, R218. -/
  | sflog2 (h : Hdr) (o : FmtA)
  /-- SFRCP, class V, OP 0x64, R218. -/
  | sfrcp (h : Hdr) (o : FmtA)
  /-- SFRSQ, class V, OP 0x65, R218. -/
  | sfrsq (h : Hdr) (o : FmtA)
  /-- SFSQRT, class V, OP 0x66, R218. -/
  | sfsqrt (h : Hdr) (o : FmtA)
  /-- SFTWID, class V, OP 0x67, R219. -/
  | sftwid (h : Hdr) (o : FmtA)
  /-- XSHF, class V, OP 0x70, R221. -/
  | xshf (h : Hdr) (o : FmtA)
  /-- XBFLY, class V, OP 0x71, R221. -/
  | xbfly (h : Hdr) (o : FmtA)
  /-- XUP, class V, OP 0x72, R221. -/
  | xup (h : Hdr) (o : FmtA)
  /-- XDN, class V, OP 0x73, R221. -/
  | xdn (h : Hdr) (o : FmtA)
  /-- XRED, class V, OP 0x74, R222. -/
  | xred (h : Hdr) (o : FmtA)
  /-- XSCAN, class V, OP 0x75, R222. -/
  | xscan (h : Hdr) (o : FmtA)
  /-- XBALLOT, class V, OP 0x76, R223. -/
  | xballot (h : Hdr) (o : FmtA)
  /-- XBCAST, class V, OP 0x77, R221. -/
  | xbcast (h : Hdr) (o : FmtA)
  /-- XVOTE, class V, OP 0x78, R224. -/
  | xvote (h : Hdr) (o : FmtA)
  /-- LDB, class M, OP 0x00, R253. -/
  | ldb (h : Hdr) (o : FmtM)
  /-- LDBZ, class M, OP 0x01, R253. -/
  | ldbz (h : Hdr) (o : FmtM)
  /-- LDH, class M, OP 0x02, R253. -/
  | ldh (h : Hdr) (o : FmtM)
  /-- LDHZ, class M, OP 0x03, R253. -/
  | ldhz (h : Hdr) (o : FmtM)
  /-- LDW, class M, OP 0x04, R253. -/
  | ldw (h : Hdr) (o : FmtM)
  /-- LDD, class M, OP 0x05, R253. -/
  | ldd (h : Hdr) (o : FmtM)
  /-- LDQ, class M, OP 0x06, R253. -/
  | ldq (h : Hdr) (o : FmtM)
  /-- STB, class M, OP 0x07, R254. -/
  | stb (h : Hdr) (o : FmtM)
  /-- STH, class M, OP 0x08, R254. -/
  | sth (h : Hdr) (o : FmtM)
  /-- STW, class M, OP 0x09, R254. -/
  | stw (h : Hdr) (o : FmtM)
  /-- STD, class M, OP 0x0A, R254. -/
  | std (h : Hdr) (o : FmtM)
  /-- STQ, class M, OP 0x0B, R254. -/
  | stq (h : Hdr) (o : FmtM)
  /-- SLDW, class M, OP 0x0C, R255. -/
  | sldw (h : Hdr) (o : FmtM)
  /-- SLDD, class M, OP 0x0D, R255. -/
  | sldd (h : Hdr) (o : FmtM)
  /-- SSTW, class M, OP 0x0E, R255. -/
  | sstw (h : Hdr) (o : FmtM)
  /-- SSTD, class M, OP 0x0F, R255. -/
  | sstd (h : Hdr) (o : FmtM)
  /-- PREF, class M, OP 0x10, R256. -/
  | pref (h : Hdr) (o : FmtM)
  /-- CWB, class M, OP 0x11, R257. -/
  | cwb (h : Hdr) (o : FmtM)
  /-- CINV, class M, OP 0x12, R258. -/
  | cinv (h : Hdr) (o : FmtM)
  /-- AADD, class M, OP 0x20, R260. -/
  | aadd (h : Hdr) (o : FmtT)
  /-- AAND, class M, OP 0x21, R260. -/
  | aand (h : Hdr) (o : FmtT)
  /-- AOR, class M, OP 0x22, R260. -/
  | aor (h : Hdr) (o : FmtT)
  /-- AXOR, class M, OP 0x23, R260. -/
  | axor (h : Hdr) (o : FmtT)
  /-- AMIN, class M, OP 0x24, R260. -/
  | amin (h : Hdr) (o : FmtT)
  /-- AMAX, class M, OP 0x25, R260. -/
  | amax (h : Hdr) (o : FmtT)
  /-- AMINU, class M, OP 0x26, R260. -/
  | aminu (h : Hdr) (o : FmtT)
  /-- AMAXU, class M, OP 0x27, R260. -/
  | amaxu (h : Hdr) (o : FmtT)
  /-- AXCHG, class M, OP 0x28, R260. -/
  | axchg (h : Hdr) (o : FmtT)
  /-- AXCHG_X64, class M, OP 0x28, R260. -/
  | axchgX64 (h : Hdr) (o : FmtT)
  /-- ACAS, class M, OP 0x29, R260. -/
  | acas (h : Hdr) (o : FmtT)
  /-- AFADD, class M, OP 0x2A, R260. -/
  | afadd (h : Hdr) (o : FmtT)
  /-- AADD64, class M, OP 0x2B, R260. -/
  | aadd64 (h : Hdr) (o : FmtT)
  /-- ACAS64, class M, OP 0x2C, R260. -/
  | acas64 (h : Hdr) (o : FmtT)
  /-- ACAS64_X128, class M, OP 0x2C, R260. -/
  | acas64X128 (h : Hdr) (o : FmtT)
  /-- QPOP, class M, OP 0x30, R264. -/
  | qpop (h : Hdr) (o : FmtM)
  /-- QPEEK, class M, OP 0x31, R264. -/
  | qpeek (h : Hdr) (o : FmtM)
  /-- TSCL, class M, OP 0x38, R304. -/
  | tscl (h : Hdr) (o : FmtM)
  /-- TLD, class X, OP 0x00, R306. -/
  | tld (h : Hdr) (o : FmtE)
  /-- TST, class X, OP 0x01, R306. -/
  | tst (h : Hdr) (o : FmtE)
  /-- TMMA, class X, OP 0x02, R308. -/
  | tmma (h : Hdr) (o : FmtE)
  /-- TRND, class X, OP 0x03, R311. -/
  | trnd (h : Hdr) (o : FmtE)
  /-- TZERO_PLANE, class X, OP 0x04, R313. -/
  | tzeroPlane (h : Hdr) (o : FmtE)
  /-- TZERO_TILE, class X, OP 0x04, R313. -/
  | tzeroTile (h : Hdr) (o : FmtE)
  /-- TWIN, class X, OP 0x05, R315. -/
  | twin (h : Hdr) (o : FmtE)
  /-- TBFLY, class X, OP 0x06, R322. -/
  | tbfly (h : Hdr) (o : FmtE)
  /-- TBREV, class X, OP 0x07, R324. -/
  | tbrev (h : Hdr) (o : FmtE)
  /-- TTWG, class X, OP 0x08, R320. -/
  | ttwg (h : Hdr) (o : FmtE)
  /-- TTRN, class X, OP 0x09, R317. -/
  | ttrn (h : Hdr) (o : FmtE)
  /-- TMOVV_TV, class X, OP 0x0A, R318. -/
  | tmovvTv (h : Hdr) (o : FmtE)
  /-- TMOVV_VT, class X, OP 0x0A, R318. -/
  | tmovvVt (h : Hdr) (o : FmtE)
  /-- TMOVV_TV_RX, class X, OP 0x0A, R318. -/
  | tmovvTvRx (h : Hdr) (o : FmtE)
  /-- TMOVV_VT_RX, class X, OP 0x0A, R318. -/
  | tmovvVtRx (h : Hdr) (o : FmtE)
  /-- TMERGE, class X, OP 0x0B, R319. -/
  | tmerge (h : Hdr) (o : FmtE)
  /-- CPY, class X, OP 0x20, R270. -/
  | cpy (h : Hdr) (o : FmtE)
  /-- CPYS, class X, OP 0x21, R273. -/
  | cpys (h : Hdr) (o : FmtE)
  /-- CPYM, class X, OP 0x22, R274. -/
  | cpym (h : Hdr) (o : FmtE)
  /-- GATH, class X, OP 0x23, R277. -/
  | gath (h : Hdr) (o : FmtE)
  /-- REDC, class X, OP 0x24, R278. -/
  | redc (h : Hdr) (o : FmtE)
  /-- CNVT, class X, OP 0x25, R279. -/
  | cnvt (h : Hdr) (o : FmtE)
  /-- BSND, class X, OP 0x26, R281. -/
  | bsnd (h : Hdr) (o : FmtE)
  /-- SWAIT, class X, OP 0x27, R283. -/
  | swait (h : Hdr) (o : FmtE)
  /-- SREL, class X, OP 0x28, R284. -/
  | srel (h : Hdr) (o : FmtE)
  /-- CPYT, class X, OP 0x29, R275. -/
  | cpyt (h : Hdr) (o : FmtE)
  /-- SPAWN, class X, OP 0x30, R373. -/
  | spawn (h : Hdr) (o : FmtE)
  /-- SPAWND, class X, OP 0x31, R373. -/
  | spawnd (h : Hdr) (o : FmtE)
  /-- ENQ, class X, OP 0x32, R375. -/
  | enq (h : Hdr) (o : FmtE)
  /-- DEQ, class X, OP 0x33, R376. -/
  | deq (h : Hdr) (o : FmtE)
  /-- DEQ_NB, class X, OP 0x33, R376. -/
  | deqNb (h : Hdr) (o : FmtE)
  /-- BARV, class X, OP 0x40, R355. -/
  | barv (h : Hdr) (o : FmtE)
  /-- BARW, class X, OP 0x41, R356. -/
  | barw (h : Hdr) (o : FmtE)
  /-- BART, class X, OP 0x42, R357. -/
  | bart (h : Hdr) (o : FmtE)
  /-- BARX, class X, OP 0x43, R358. -/
  | barx (h : Hdr) (o : FmtE)
  /-- CBAR, class X, OP 0x44, R362. -/
  | cbar (h : Hdr) (o : FmtE)
  /-- TLWAIT, class X, OP 0x45, R365. -/
  | tlwait (h : Hdr) (o : FmtE)
  /-- TLSIG, class X, OP 0x46, R366. -/
  | tlsig (h : Hdr) (o : FmtE)
  /-- TLRD, class X, OP 0x47, R367. -/
  | tlrd (h : Hdr) (o : FmtE)
  /-- RAST, class X, OP 0x50, R285. -/
  | rast (h : Hdr) (o : FmtE)
  /-- RAYQ, class X, OP 0x51, R288. -/
  | rayq (h : Hdr) (o : FmtE)
  /-- RTILE, class X, OP 0x52, R287. -/
  | rtile (h : Hdr) (o : FmtE)
  /-- DOUBLE_FAULT, an event, R390. -/
  | doubleFault (die : Nat) (cause : BitVec 6)
  /-- ILLEGAL_OPCODE, an event, R122. -/
  | illegalOpcode (mask : BitVec 5) (detail : BitVec 32)
  /-- FETCH_FAULT, an event, R116. -/
  | fetchFault (addr : BitVec 64) (sub : BitVec 6)
  /-- LOAD_RETURN, an event, R253. -/
  | loadReturn (b w k : Nat)
  /-- STORE_PERFORM, an event, R329. -/
  | storePerform (site : StoreSite)
  /-- ATOMIC_PERFORM, an event, R261. -/
  | atomicPerform (core k : Nat)
  /-- HOST_ATOMICOP_COMPLETION, an event, R262. -/
  | hostAtomicopCompletion (core k : Nat) (status : BitVec 16)
  /-- HOST_COMPLETION_TIMEOUT, an event, R262. -/
  | hostCompletionTimeout (core k : Nat)
  /-- STALE_LINE_EXPIRE, an event, R334. -/
  | staleLineExpire (core line : Nat)
  /-- TABLE_UPDATE, an event, R237. -/
  | tableUpdate (r : TableReq)
  /-- COPY_DEQUEUE, an event, R267. -/
  | copyDequeue (core : Nat)
  /-- COPY_FRAGMENT, an event, R271. -/
  | copyFragment (core k : Nat)
  /-- COPY_COMPLETE, an event, R267. -/
  | copyComplete (core k : Nat)
  /-- CPYT_RELEASE, an event, R275. -/
  | cpytRelease (core k : Nat)
  /-- BASEDIE_EXECUTE, an event, R276. -/
  | basedieExecute (core k : Nat)
  /-- RING_ACCEPT, an event, R282. -/
  | ringAccept (core k : Nat)
  /-- RING_SLOT_WRITTEN, an event, R282. -/
  | ringSlotWritten (core k : Nat)
  /-- SREL_DEQUEUE, an event, R284. -/
  | srelDequeue (core : Nat)
  /-- MATRIX_EXECUTE, an event, R300. -/
  | matrixExecute (core n : Nat)
  /-- MATRIX_COMPLETE, an event, R310. -/
  | matrixComplete (core : Nat)
  /-- TSCL_LATCH_WRITE, an event, R304. -/
  | tsclLatchWrite (b : Nat)
  /-- RASTER_BATCH, an event, R286. -/
  | rasterBatch (core : Nat)
  /-- RTILE_COMPLETE, an event, R287. -/
  | rtileComplete (core : Nat) (act : EngineAct)
  /-- RAYQ_COMPLETE, an event, R289. -/
  | rayqComplete (core : Nat) (act : EngineAct)
  /-- TASK_PUSH, an event, R373. -/
  | taskPush (core : Nat)
  /-- ENQ_ARRIVE, an event, R375. -/
  | enqArrive (core : Nat)
  /-- TASK_GATHER, an event, R108. -/
  | taskGather (core : Nat)
  /-- TASK_STEAL, an event, R110. -/
  | taskSteal (core victim : Nat)
  /-- STEAL_RETRY, an event, R110. -/
  | stealRetry (core : Nat)
  /-- DEQUE_FULL_TIMEOUT, an event, R107. -/
  | dequeFullTimeout (b w : Nat)
  /-- QUEUE_FULL_TIMEOUT, an event, R375. -/
  | queueFullTimeout (b w : Nat)
  /-- WAIT_SATISFIED, an event, R351. -/
  | waitSatisfied (b w : Nat)
  /-- WATCHDOG, an event, R386. -/
  | watchdog (b w : Nat)
  /-- BLOCK_EXIT, an event, R417. -/
  | blockExit (b : Nat)
  /-- BLOCK_RELEASE, an event, R93. -/
  | blockRelease (b : Nat)
  /-- KICK, an event, R75. -/
  | kick (v : BitVec 64)
  /-- GRCMD_REGISTER, an event, R78. -/
  | grcmdRegister (v : BitVec 32)
  /-- GRCMD_UNREGISTER, an event, R78. -/
  | grcmdUnregister (v : BitVec 32)
  /-- GRCMD_INVALID, an event, R78. -/
  | grcmdInvalid (v : BitVec 32)
  /-- EQ_CONFIG_WRITE, an event, R90. -/
  | eqConfigWrite (a : Bar0Access)
  /-- EQLOST_CLEAR, an event, R73. -/
  | eqlostClear (a : Bar0Access)
  /-- BAR0_REGISTER_WRITE, an event, R72. -/
  | bar0RegisterWrite (a : Bar0Access)
  /-- BAR0_BAD_ACCESS, an event, R72. -/
  | bar0BadAccess (a : Bar0Access)
  /-- HOST_BAR2_ACCESS, an event, R346. -/
  | hostBar2Access (a : MemRequest)
  /-- REPLAY_START, an event, R80. -/
  | replayStart (handle : Nat)
  /-- NODE_READY, an event, R81. -/
  | nodeReady (replay node : Nat)
  /-- LAUNCH_ACCEPT, an event, R56. -/
  | launchAccept (queue : Nat)
  /-- PLACE_BLOCK, an event, R94. -/
  | placeBlock (launch : Nat)
  /-- GOVERNOR_POINT, an event, R88. -/
  | governorPoint (replay node : Nat)
  /-- SKIPPED_NODE_COMPLETE, an event, R89. -/
  | skippedNodeComplete (replay node : Nat)
  /-- LAUNCH_COMPLETE, an event, R81. -/
  | launchComplete (launch : Nat)
  /-- REPLAY_COMPLETE, an event, R419. -/
  | replayComplete (replay : Nat)
  /-- REPLAY_FINISH, an event, R82. -/
  | replayFinish (replay : Nat)
  /-- FAULT_RECORD_WRITE, an event, R385. -/
  | faultRecordWrite (die : Nat)
  /-- BLOCK_STOP, an event, R380. -/
  | blockStop (b : Nat)
  /-- EXITED_BLOCK_IMAGE, an event, R445. -/
  | exitedBlockImage (b : Nat)
  /-- SAVE_IMAGE, an event, R393. -/
  | saveImage (b : Nat)
  /-- RESTORE_BLOCK, an event, R401. -/
  | restoreBlock (k : Nat)
  /-- PREEMPT_REQUEST, an event, R402. -/
  | preemptRequest (t : PreemptTarget)
  /-- SWITCH_REQUEST, an event, R412. -/
  | switchRequest (b target : Nat)
  /-- VARIANT_SWITCH, an event, R413. -/
  | variantSwitch (b : Nat)
  /-- SWITCH_WITHDRAW, an event, R179. -/
  | switchWithdraw (b : Nat)
  /-- MIGRATE, an event, R113. -/
  | migrate (core : Nat) (hot : HotCore)
  /-- MIGRATE_RECHECK, an event, R113. -/
  | migrateRecheck (core : Nat)
  /-- THERMAL_LIMIT, an event, R23. -/
  | thermalLimit (celsius mhz : Nat)
  /-- DROOP_ALARM, an event, R166. -/
  | droopAlarm (cluster : Nat)
  /-- DROOP_HALVING_END, an event, R166. -/
  | droopHalvingEnd (cluster : Nat)
  /-- BALANCE_SAMPLE, an event, R102. -/
  | balanceSample (die : Nat) (imb : Int)
  /-- GATING_START, an event, R104. -/
  | gatingStart (die : Nat)
  /-- GATING_COMPLETE, an event, R104. -/
  | gatingComplete (die : Nat)
  /-- WAKE_COMPLETE, an event, R104. -/
  | wakeComplete (die : Nat)
  /-- SHELF_POLL, an event, R404. -/
  | shelfPoll (p : ShelfReading)
  /-- SHED_PARK, an event, R409. -/
  | shedPark (b : Nat)
  /-- SHED_FORCED, an event, R409. -/
  | shedForced (b : Nat)
  /-- CLAMP_CHECK, an event, R410. -/
  | clampCheck (pm : Nat)
  /-- CLOCK_STEP, an event, R410. -/
  | clockStep (pm : Nat)
  /-- CLAMP_RELEASE, an event, R411. -/
  | clampRelease
  /-- CLASS_RESTORE, an event, R411. -/
  | classRestore
  /-- PTP_FIRST_LOCK, an event, R86. -/
  | ptpFirstLock (tai : Nat)
  /-- PTP_LOCK_CHANGE, an event, R86. -/
  | ptpLockChange (locked : Bool) (tai : Nat)
  /-- PPS_IN_EDGE, an event, R85. -/
  | ppsInEdge
  /-- PPS_OUT, an event, R85. -/
  | ppsOut
  /-- MBOX_DOORBELL, an event, R422. -/
  | mboxDoorbell (a : Bar0Access)
  /-- ATTEST, an event, R423. -/
  | attest
  /-- UPDATE, an event, R424. -/
  | update (write : FlashWrite)
  /-- REMAP, an event, R400. -/
  | remap
  /-- WDOG, an event, R422. -/
  | wdog
  /-- PREEMPT, an event, R422. -/
  | preempt
  /-- DAWNSTATE, an event, R422. -/
  | dawnstate
  /-- MBOX_UNKNOWN_COMMAND, an event, R422. -/
  | mboxUnknownCommand
  /-- RESET, an event, R425. -/
  | reset
  /-- TRAINING_COMPLETE, an event, R426. -/
  | trainingComplete (failed : BitVec 3)
  /-- PEER_LINK_UP, an event, R426. -/
  | peerLinkUp (link : Nat)
  /-- BRIDGE_LINK_FAULT, an event, R388. -/
  | bridgeLinkFault (core : Nat) (site : LinkSite)
  /-- PEER_LINK_FAULT, an event, R388. -/
  | peerLinkFault (core k : Nat)
  /-- HOST_LINK_FAULT, an event, R386. -/
  | hostLinkFault
  /-- PEER_TIMELINE_SIGNAL, an event, R347. -/
  | peerTimelineSignal (p : PeerSignal)
  /-- SRAM_UNCORRECTABLE, an event, R386. -/
  | sramUncorrectable (e : SramError)
  /-- EVICT_UNCORRECTABLE, an event, R387. -/
  | evictUncorrectable (line : Nat)
  /-- SCRUB_ERROR, an event, R387. -/
  | scrubError (granule : Nat)
  /-- PEER_LINK_REQUEST, an event, R347. -/
  | peerLinkRequest (a : PeerRequest)
  /-- PPSIN_EXPIRE, an event, R85. -/
  | ppsinExpire
  /-- TIMER_VALID, an event, R86. -/
  | timerValid
  /-- STREAM_RING_PLACE, an event, R280. -/
  | streamRingPlace (p : RingPlacement)
  /-- NAMED_QUEUE_ASSIGN, an event, R374. -/
  | namedQueueAssign (p : QueueAssignment)
  /-- POOL_REFILL, an event, R241. -/
  | poolRefill (die size : Nat) (frames : List Nat)
  deriving DecidableEq, Repr

end Sys2Proof
end

