-- ==== Sys2Proof/Machine/Fields.lean ====
section
/-! DEFINITION. The fields of a syllable: class, opcode, header and format fields of every constructor (the opcode map, R136 to
R139), the static rules on those fields (reserved and zero fields, modifier and width legality, spaces: R122 check 5), and the
register operands each syllable names (R133), from which the operand checks, the destination conflicts and the interlock follow. -/

namespace Sys2Proof

/-- The format fields of a syllable. -/
inductive Fields where
  | a (o : FmtA)
  | b (o : FmtB)
  | c (o : FmtC)
  | m (o : FmtM)
  | t (o : FmtT)
  | j (o : FmtJ)
  | e (o : FmtE)
  | y (o : FmtY)
  deriving DecidableEq, Repr

/-- A syllable read as class, opcode, header and fields. -/
structure View where
  cls : BitVec 3
  op : BitVec 8
  h : Hdr
  fields : Fields
  deriving DecidableEq, Repr

/-- The class, opcode and fields of a syllable's constructor (R136 to R139); none for an event. -/
def Instr.view : Instr → Option View
  | .nop h o => some ⟨0, 0x00, h, .a o⟩
  | .sadd h o => some ⟨0, 0x01, h, .a o⟩
  | .ssub h o => some ⟨0, 0x02, h, .a o⟩
  | .smul h o => some ⟨0, 0x03, h, .a o⟩
  | .smulh h o => some ⟨0, 0x04, h, .a o⟩
  | .smulhu h o => some ⟨0, 0x05, h, .a o⟩
  | .sdiv h o => some ⟨0, 0x06, h, .a o⟩
  | .sdivu h o => some ⟨0, 0x07, h, .a o⟩
  | .sand h o => some ⟨0, 0x0A, h, .a o⟩
  | .sor h o => some ⟨0, 0x0B, h, .a o⟩
  | .sxor h o => some ⟨0, 0x0C, h, .a o⟩
  | .sandn h o => some ⟨0, 0x0D, h, .a o⟩
  | .sshl h o => some ⟨0, 0x0E, h, .a o⟩
  | .sshr h o => some ⟨0, 0x0F, h, .a o⟩
  | .ssra h o => some ⟨0, 0x10, h, .a o⟩
  | .smin h o => some ⟨0, 0x11, h, .a o⟩
  | .smax h o => some ⟨0, 0x12, h, .a o⟩
  | .sminu h o => some ⟨0, 0x13, h, .a o⟩
  | .smaxu h o => some ⟨0, 0x14, h, .a o⟩
  | .scmp h o => some ⟨0, 0x15, h, .a o⟩
  | .ssel h o => some ⟨0, 0x16, h, .a o⟩
  | .spopc h o => some ⟨0, 0x17, h, .a o⟩
  | .sclz h o => some ⟨0, 0x18, h, .a o⟩
  | .sbfx h o => some ⟨0, 0x19, h, .a o⟩
  | .sbfi h o => some ⟨0, 0x1A, h, .a o⟩
  | .sadd64 h o => some ⟨0, 0x1B, h, .a o⟩
  | .saddi h o => some ⟨0, 0x20, h, .b o⟩
  | .sandi h o => some ⟨0, 0x21, h, .b o⟩
  | .sori h o => some ⟨0, 0x22, h, .b o⟩
  | .sxori h o => some ⟨0, 0x23, h, .b o⟩
  | .sshli h o => some ⟨0, 0x24, h, .b o⟩
  | .sshri h o => some ⟨0, 0x25, h, .b o⟩
  | .ssrai h o => some ⟨0, 0x26, h, .b o⟩
  | .scmpi h o => some ⟨0, 0x27, h, .b o⟩
  | .sli h o => some ⟨0, 0x28, h, .c o⟩
  | .sliHi h o => some ⟨0, 0x28, h, .c o⟩
  | .sliSx h o => some ⟨0, 0x28, h, .c o⟩
  | .clog h o => some ⟨0, 0x29, h, .a o⟩
  | .br h o => some ⟨0, 0x40, h, .j o⟩
  | .brl h o => some ⟨0, 0x41, h, .j o⟩
  | .bri h o => some ⟨0, 0x42, h, .j o⟩
  | .brli h o => some ⟨0, 0x43, h, .j o⟩
  | .brp h o => some ⟨0, 0x44, h, .j o⟩
  | .loopb h o => some ⟨0, 0x45, h, .j o⟩
  | .exit h o => some ⟨0, 0x46, h, .j o⟩
  | .trap h o => some ⟨0, 0x47, h, .c o⟩
  | .brk h o => some ⟨0, 0x4D, h, .c o⟩
  | .swpt h o => some ⟨0, 0x48, h, .c o⟩
  | .trigger h o => some ⟨0, 0x49, h, .y o⟩
  | .gridwait h o => some ⟨0, 0x4A, h, .y o⟩
  | .wait h o => some ⟨0, 0x4B, h, .c o⟩
  | .mfs h o => some ⟨0, 0x60, h, .y o⟩
  | .mts h o => some ⟨0, 0x61, h, .y o⟩
  | .mtsTsh h o => some ⟨0, 0x61, h, .y o⟩
  | .mtsPlane h o => some ⟨0, 0x61, h, .y o⟩
  | .mtsSplit h o => some ⟨0, 0x61, h, .y o⟩
  | .mtsRot h o => some ⟨0, 0x61, h, .y o⟩
  | .ringReset h o => some ⟨0, 0x61, h, .y o⟩
  | .mtsDrpth h o => some ⟨0, 0x61, h, .y o⟩
  | .shelfctlWrite h o => some ⟨0, 0x61, h, .y o⟩
  | .shelfctlLoad h o => some ⟨0, 0x61, h, .y o⟩
  | .time h o => some ⟨0, 0x62, h, .y o⟩
  | .cyc h o => some ⟨0, 0x63, h, .y o⟩
  | .fenceRel h o => some ⟨0, 0x64, h, .y o⟩
  | .fenceAcq h o => some ⟨0, 0x64, h, .y o⟩
  | .fenceFull h o => some ⟨0, 0x64, h, .y o⟩
  | .rfxResume h o => some ⟨0, 0x65, h, .y o⟩
  | .rfxSkip h o => some ⟨0, 0x65, h, .y o⟩
  | .rfxKillb h o => some ⟨0, 0x65, h, .y o⟩
  | .rfxKilll h o => some ⟨0, 0x65, h, .y o⟩
  | .xinv h o => some ⟨0, 0x66, h, .y o⟩
  | .xinvAll h o => some ⟨0, 0x66, h, .y o⟩
  | .vadd h o => some ⟨1, 0x00, h, .a o⟩
  | .vsub h o => some ⟨1, 0x01, h, .a o⟩
  | .vadds h o => some ⟨1, 0x02, h, .a o⟩
  | .vaddsu h o => some ⟨1, 0x03, h, .a o⟩
  | .vsubs h o => some ⟨1, 0x04, h, .a o⟩
  | .vsubsu h o => some ⟨1, 0x05, h, .a o⟩
  | .vmul h o => some ⟨1, 0x06, h, .a o⟩
  | .vmulh h o => some ⟨1, 0x07, h, .a o⟩
  | .vmulhu h o => some ⟨1, 0x08, h, .a o⟩
  | .vmad h o => some ⟨1, 0x09, h, .a o⟩
  | .vand h o => some ⟨1, 0x0A, h, .a o⟩
  | .vor h o => some ⟨1, 0x0B, h, .a o⟩
  | .vxor h o => some ⟨1, 0x0C, h, .a o⟩
  | .vandn h o => some ⟨1, 0x0D, h, .a o⟩
  | .vshl h o => some ⟨1, 0x0E, h, .a o⟩
  | .vshr h o => some ⟨1, 0x0F, h, .a o⟩
  | .vsra h o => some ⟨1, 0x10, h, .a o⟩
  | .vmin h o => some ⟨1, 0x11, h, .a o⟩
  | .vmax h o => some ⟨1, 0x12, h, .a o⟩
  | .vminu h o => some ⟨1, 0x13, h, .a o⟩
  | .vmaxu h o => some ⟨1, 0x14, h, .a o⟩
  | .vabsd h o => some ⟨1, 0x15, h, .a o⟩
  | .vcmp h o => some ⟨1, 0x16, h, .a o⟩
  | .vsel h o => some ⟨1, 0x17, h, .a o⟩
  | .vmov h o => some ⟨1, 0x18, h, .a o⟩
  | .vpopc h o => some ⟨1, 0x19, h, .a o⟩
  | .vclz h o => some ⟨1, 0x1A, h, .a o⟩
  | .vbfx h o => some ⟨1, 0x1B, h, .a o⟩
  | .vbfi h o => some ⟨1, 0x1C, h, .a o⟩
  | .vaddi h o => some ⟨1, 0x1D, h, .b o⟩
  | .vandi h o => some ⟨1, 0x1E, h, .b o⟩
  | .vshli h o => some ⟨1, 0x1F, h, .b o⟩
  | .vshri h o => some ⟨1, 0x20, h, .b o⟩
  | .vsrai h o => some ⟨1, 0x21, h, .b o⟩
  | .vli h o => some ⟨1, 0x22, h, .c o⟩
  | .vliHi h o => some ⟨1, 0x22, h, .c o⟩
  | .vliSx h o => some ⟨1, 0x22, h, .c o⟩
  | .vdot4 h o => some ⟨1, 0x23, h, .a o⟩
  | .vpack h o => some ⟨1, 0x24, h, .a o⟩
  | .vunpk h o => some ⟨1, 0x25, h, .a o⟩
  | .vcmpi h o => some ⟨1, 0x26, h, .b o⟩
  | .vadd64 h o => some ⟨1, 0x27, h, .a o⟩
  | .plog h o => some ⟨1, 0x28, h, .a o⟩
  | .fadd h o => some ⟨1, 0x40, h, .a o⟩
  | .fsub h o => some ⟨1, 0x41, h, .a o⟩
  | .fmul h o => some ⟨1, 0x42, h, .a o⟩
  | .ffma h o => some ⟨1, 0x43, h, .a o⟩
  | .fmin h o => some ⟨1, 0x44, h, .a o⟩
  | .fmax h o => some ⟨1, 0x45, h, .a o⟩
  | .fcmp h o => some ⟨1, 0x46, h, .a o⟩
  | .fcvt h o => some ⟨1, 0x47, h, .a o⟩
  | .fcvti h o => some ⟨1, 0x48, h, .a o⟩
  | .icvtf h o => some ⟨1, 0x49, h, .a o⟩
  | .fmaxk h o => some ⟨1, 0x4A, h, .a o⟩
  | .fclass h o => some ⟨1, 0x4B, h, .a o⟩
  | .fdot2 h o => some ⟨1, 0x4C, h, .a o⟩
  | .fmxq h o => some ⟨1, 0x4D, h, .a o⟩
  | .fmxd h o => some ⟨1, 0x4E, h, .a o⟩
  | .sfsin h o => some ⟨1, 0x60, h, .a o⟩
  | .sfcos h o => some ⟨1, 0x61, h, .a o⟩
  | .sfexp2 h o => some ⟨1, 0x62, h, .a o⟩
  | .sflog2 h o => some ⟨1, 0x63, h, .a o⟩
  | .sfrcp h o => some ⟨1, 0x64, h, .a o⟩
  | .sfrsq h o => some ⟨1, 0x65, h, .a o⟩
  | .sfsqrt h o => some ⟨1, 0x66, h, .a o⟩
  | .sftwid h o => some ⟨1, 0x67, h, .a o⟩
  | .xshf h o => some ⟨1, 0x70, h, .a o⟩
  | .xbfly h o => some ⟨1, 0x71, h, .a o⟩
  | .xup h o => some ⟨1, 0x72, h, .a o⟩
  | .xdn h o => some ⟨1, 0x73, h, .a o⟩
  | .xred h o => some ⟨1, 0x74, h, .a o⟩
  | .xscan h o => some ⟨1, 0x75, h, .a o⟩
  | .xballot h o => some ⟨1, 0x76, h, .a o⟩
  | .xbcast h o => some ⟨1, 0x77, h, .a o⟩
  | .xvote h o => some ⟨1, 0x78, h, .a o⟩
  | .ldb h o => some ⟨2, 0x00, h, .m o⟩
  | .ldbz h o => some ⟨2, 0x01, h, .m o⟩
  | .ldh h o => some ⟨2, 0x02, h, .m o⟩
  | .ldhz h o => some ⟨2, 0x03, h, .m o⟩
  | .ldw h o => some ⟨2, 0x04, h, .m o⟩
  | .ldd h o => some ⟨2, 0x05, h, .m o⟩
  | .ldq h o => some ⟨2, 0x06, h, .m o⟩
  | .stb h o => some ⟨2, 0x07, h, .m o⟩
  | .sth h o => some ⟨2, 0x08, h, .m o⟩
  | .stw h o => some ⟨2, 0x09, h, .m o⟩
  | .std h o => some ⟨2, 0x0A, h, .m o⟩
  | .stq h o => some ⟨2, 0x0B, h, .m o⟩
  | .sldw h o => some ⟨2, 0x0C, h, .m o⟩
  | .sldd h o => some ⟨2, 0x0D, h, .m o⟩
  | .sstw h o => some ⟨2, 0x0E, h, .m o⟩
  | .sstd h o => some ⟨2, 0x0F, h, .m o⟩
  | .pref h o => some ⟨2, 0x10, h, .m o⟩
  | .cwb h o => some ⟨2, 0x11, h, .m o⟩
  | .cinv h o => some ⟨2, 0x12, h, .m o⟩
  | .aadd h o => some ⟨2, 0x20, h, .t o⟩
  | .aand h o => some ⟨2, 0x21, h, .t o⟩
  | .aor h o => some ⟨2, 0x22, h, .t o⟩
  | .axor h o => some ⟨2, 0x23, h, .t o⟩
  | .amin h o => some ⟨2, 0x24, h, .t o⟩
  | .amax h o => some ⟨2, 0x25, h, .t o⟩
  | .aminu h o => some ⟨2, 0x26, h, .t o⟩
  | .amaxu h o => some ⟨2, 0x27, h, .t o⟩
  | .axchg h o => some ⟨2, 0x28, h, .t o⟩
  | .axchgX64 h o => some ⟨2, 0x28, h, .t o⟩
  | .acas h o => some ⟨2, 0x29, h, .t o⟩
  | .afadd h o => some ⟨2, 0x2A, h, .t o⟩
  | .aadd64 h o => some ⟨2, 0x2B, h, .t o⟩
  | .acas64 h o => some ⟨2, 0x2C, h, .t o⟩
  | .acas64X128 h o => some ⟨2, 0x2C, h, .t o⟩
  | .qpop h o => some ⟨2, 0x30, h, .m o⟩
  | .qpeek h o => some ⟨2, 0x31, h, .m o⟩
  | .tscl h o => some ⟨2, 0x38, h, .m o⟩
  | .tld h o => some ⟨3, 0x00, h, .e o⟩
  | .tst h o => some ⟨3, 0x01, h, .e o⟩
  | .tmma h o => some ⟨3, 0x02, h, .e o⟩
  | .trnd h o => some ⟨3, 0x03, h, .e o⟩
  | .tzeroPlane h o => some ⟨3, 0x04, h, .e o⟩
  | .tzeroTile h o => some ⟨3, 0x04, h, .e o⟩
  | .twin h o => some ⟨3, 0x05, h, .e o⟩
  | .tbfly h o => some ⟨3, 0x06, h, .e o⟩
  | .tbrev h o => some ⟨3, 0x07, h, .e o⟩
  | .ttwg h o => some ⟨3, 0x08, h, .e o⟩
  | .ttrn h o => some ⟨3, 0x09, h, .e o⟩
  | .tmovvTv h o => some ⟨3, 0x0A, h, .e o⟩
  | .tmovvVt h o => some ⟨3, 0x0A, h, .e o⟩
  | .tmovvTvRx h o => some ⟨3, 0x0A, h, .e o⟩
  | .tmovvVtRx h o => some ⟨3, 0x0A, h, .e o⟩
  | .tmerge h o => some ⟨3, 0x0B, h, .e o⟩
  | .cpy h o => some ⟨3, 0x20, h, .e o⟩
  | .cpys h o => some ⟨3, 0x21, h, .e o⟩
  | .cpym h o => some ⟨3, 0x22, h, .e o⟩
  | .gath h o => some ⟨3, 0x23, h, .e o⟩
  | .redc h o => some ⟨3, 0x24, h, .e o⟩
  | .cnvt h o => some ⟨3, 0x25, h, .e o⟩
  | .bsnd h o => some ⟨3, 0x26, h, .e o⟩
  | .swait h o => some ⟨3, 0x27, h, .e o⟩
  | .srel h o => some ⟨3, 0x28, h, .e o⟩
  | .cpyt h o => some ⟨3, 0x29, h, .e o⟩
  | .spawn h o => some ⟨3, 0x30, h, .e o⟩
  | .spawnd h o => some ⟨3, 0x31, h, .e o⟩
  | .enq h o => some ⟨3, 0x32, h, .e o⟩
  | .deq h o => some ⟨3, 0x33, h, .e o⟩
  | .deqNb h o => some ⟨3, 0x33, h, .e o⟩
  | .barv h o => some ⟨3, 0x40, h, .e o⟩
  | .barw h o => some ⟨3, 0x41, h, .e o⟩
  | .bart h o => some ⟨3, 0x42, h, .e o⟩
  | .barx h o => some ⟨3, 0x43, h, .e o⟩
  | .cbar h o => some ⟨3, 0x44, h, .e o⟩
  | .tlwait h o => some ⟨3, 0x45, h, .e o⟩
  | .tlsig h o => some ⟨3, 0x46, h, .e o⟩
  | .tlrd h o => some ⟨3, 0x47, h, .e o⟩
  | .rast h o => some ⟨3, 0x50, h, .e o⟩
  | .rayq h o => some ⟨3, 0x51, h, .e o⟩
  | .rtile h o => some ⟨3, 0x52, h, .e o⟩
  | .loadReturn _ _ _ => none
  | .storePerform _ => none
  | .atomicPerform _ _ => none
  | .hostAtomicopCompletion _ _ _ => none
  | .hostCompletionTimeout _ _ => none
  | .staleLineExpire _ _ => none
  | .tableUpdate _ => none
  | .copyDequeue _ => none
  | .copyFragment _ _ => none
  | .copyComplete _ _ => none
  | .cpytRelease _ _ => none
  | .basedieExecute _ _ => none
  | .ringAccept _ _ => none
  | .ringSlotWritten _ _ => none
  | .srelDequeue _ => none
  | .matrixExecute _ _ => none
  | .matrixComplete _ => none
  | .tsclLatchWrite _ => none
  | .rasterBatch _ => none
  | .rtileComplete _ _ => none
  | .rayqComplete _ _ => none
  | .taskPush _ => none
  | .enqArrive _ => none
  | .taskGather _ => none
  | .taskSteal _ _ => none
  | .stealRetry _ => none
  | .dequeFullTimeout _ _ => none
  | .queueFullTimeout _ _ => none
  | .waitSatisfied _ _ => none
  | .watchdog _ _ => none
  | .blockExit _ => none
  | .blockRelease _ => none
  | .kick _ => none
  | .grcmdRegister _ => none
  | .grcmdUnregister _ => none
  | .grcmdInvalid _ => none
  | .eqConfigWrite _ => none
  | .eqlostClear _ => none
  | .bar0RegisterWrite _ => none
  | .bar0BadAccess _ => none
  | .hostBar2Access _ => none
  | .replayStart _ => none
  | .nodeReady _ _ => none
  | .launchAccept _ => none
  | .placeBlock _ => none
  | .governorPoint _ _ => none
  | .skippedNodeComplete _ _ => none
  | .launchComplete _ => none
  | .replayComplete _ => none
  | .replayFinish _ => none
  | .faultRecordWrite _ => none
  | .blockStop _ => none
  | .exitedBlockImage _ => none
  | .saveImage _ => none
  | .restoreBlock _ => none
  | .preemptRequest _ => none
  | .switchRequest _ _ => none
  | .variantSwitch _ => none
  | .switchWithdraw _ => none
  | .migrate _ _ => none
  | .migrateRecheck _ => none
  | .thermalLimit _ _ => none
  | .droopAlarm _ => none
  | .droopHalvingEnd _ => none
  | .balanceSample _ _ => none
  | .gatingStart _ => none
  | .gatingComplete _ => none
  | .wakeComplete _ => none
  | .shelfPoll _ => none
  | .shedPark _ => none
  | .shedForced _ => none
  | .clampCheck _ => none
  | .clockStep _ => none
  | .clampRelease => none
  | .classRestore => none
  | .ptpFirstLock _ => none
  | .ptpLockChange _ _ => none
  | .ppsInEdge => none
  | .ppsOut => none
  | .mboxDoorbell _ => none
  | .attest => none
  | .update _ => none
  | .remap => none
  | .wdog => none
  | .preempt => none
  | .dawnstate => none
  | .mboxUnknownCommand => none
  | .reset => none
  | .trainingComplete _ => none
  | .peerLinkUp _ => none
  | .bridgeLinkFault _ _ => none
  | .peerLinkFault _ _ => none
  | .hostLinkFault => none
  | .peerTimelineSignal _ => none
  | .sramUncorrectable _ => none
  | .evictUncorrectable _ => none
  | .scrubError _ => none
  | .doubleFault _ _ => none
  | .illegalOpcode _ _ => none
  | .fetchFault _ _ => none
  | .peerLinkRequest _ => none
  | .ppsinExpire => none
  | .timerValid => none
  | .streamRingPlace _ => none
  | .namedQueueAssign _ => none
  | .poolRefill _ _ _ => none

/-! ## Check 5 of R122: reserved and zero fields, modifier and width legality, spaces -/

/-- Elements of a 32-bit register at an integer width, R24. -/
def elemCount (ew : BitVec 2) : Nat := 2 ^ ew.toNat

/-- Elements of a 32-bit register at a float form, R135. -/
def formCount (ew : BitVec 2) : Nat := if ew = 0 then 1 else 2

/-- Modifier m is legal at n elements, R134. -/
def modOk (n : Nat) (m : BitVec 3) : Bool :=
  match m.toNat with
  | 0 | 2 | 7 => true
  | 1 | 3 | 6 => decide (2 ≤ n)
  | _ => decide (4 ≤ n)

/-- Modifier m is legal on a 64-bit operand, R134. -/
def modOk64 (m : BitVec 3) : Bool := m = 0 || m = 7

/-- S2 and M2 are zero, R186. -/
def FmtA.z2 (o : FmtA) : Bool := o.s2 = 0 && o.m2 = 0
/-- S3 and M3 are zero, R186. -/
def FmtA.z3 (o : FmtA) : Bool := o.s3 = 0 && o.m3 = 0
/-- The condition code of a compare, bits 19:15 (R126). -/
def FmtA.cc (o : FmtA) : Nat := (o.s3.extractLsb' 4 5).toNat
/-- The condition code of an immediate compare (R126). -/
def FmtB.cc (o : FmtB) : Nat := (o.imm.extractLsb' 19 5).toNat
/-- The mode field of R203. -/
def FmtA.mode (o : FmtA) : Nat := (o.s3.extractLsb' 0 3).toNat
/-- The low four bits of a specifier that names a predicate or condition. -/
def Spec.idx (n : Spec) : BitVec 4 := n.extractLsb' 0 4
/-- Bits 8:4 of such a field are zero. -/
def Spec.idxOk (n : Spec) : Bool := n.extractLsb' 4 5 = (0 : BitVec 5)

/-- The mode field is legal, R203. -/
def FmtA.modeOk (o : FmtA) : Bool := decide (o.mode ≤ 4) && o.s3.extractLsb' 3 6 = (0 : BitVec 6) && o.m3 = 0
/-- The compare layout of R126. -/
def FmtA.cmpOk (o : FmtA) : Bool := Spec.idxOk o.d && o.s3.extractLsb' 0 4 = (0 : BitVec 4) && o.m3 = 0

/-- Elements per 32 bits of a conversion code, R211. -/
def convCount (code : Nat) : Nat := if code = 0 then 1 else if code ≤ 2 then 2 else if code ≤ 6 then 4 else 8

/-- Format A of the U class is legal. -/
def legalUA (op : Nat) (o : FmtA) : Bool :=
  let m12 := modOk 1 o.m1 && modOk 1 o.m2
  if op = 0x00 then o = ⟨0, 0, 0, 0, 0, 0, 0, 0⟩
  else if op = 0x15 then o.cmpOk && decide (o.cc ≤ 9) && m12 && o.ew = 0
  else if op = 0x16 then Spec.idxOk o.s3 && o.m3 = 0 && m12 && o.ew = 0
  else if op = 0x17 ∨ op = 0x18 then modOk 1 o.m1 && o.z2 && o.z3 && o.ew = 0
  else if op = 0x1A then m12 && modOk 1 o.m3 && o.ew = 0
  else if op = 0x1B then o.ew ≠ 3 && modOk64 o.m1 && modOk64 o.m2 && o.z3
  else if op = 0x29 then Spec.idxOk o.d && Spec.idxOk o.s1 && Spec.idxOk o.s2 && Spec.idxOk o.s3 && o.m1 = 0 && o.m2 = 0 && o.m3 = 0 && o.ew = 0
  else m12 && o.z3 && o.ew = 0

/-- Format A of the V class is legal. -/
def legalVA (op : Nat) (o : FmtA) : Bool :=
  let n := elemCount o.ew
  let k := formCount o.ew
  if op = 0x09 then modOk n o.m1 && modOk n o.m2 && modOk n o.m3
  else if op ≤ 0x15 then modOk n o.m1 && modOk n o.m2 && o.z3
  else if op = 0x16 then o.cmpOk && decide (o.cc ≤ 9) && modOk n o.m1 && modOk n o.m2
  else if op = 0x17 then Spec.idxOk o.s3 && o.m3 = 0 && o.ew = 0 && modOk 1 o.m1 && modOk 1 o.m2
  else if op ≤ 0x1A then modOk n o.m1 && o.z2 && o.z3
  else if op = 0x1B then o.ew = 0 && modOk 1 o.m1 && modOk 1 o.m2 && o.z3
  else if op = 0x1C then o.ew = 0 && modOk 1 o.m1 && modOk 1 o.m2 && modOk 1 o.m3
  else if op = 0x23 then o.ew ≠ 0 && modOk n o.m1 && modOk n o.m2 && modOk 1 o.m3
  else if op = 0x24 then o.ew ≠ 0 && modOk (n / 2) o.m1 && modOk (n / 2) o.m2 && o.z3
  else if op = 0x25 then o.ew ≠ 0 && modOk n o.m1 && o.z2 && o.s3.extractLsb' 2 7 = (0 : BitVec 7) && o.m3 = 0
  else if op = 0x27 then o.ew ≠ 3 && modOk64 o.m1 && modOk64 o.m2 && o.z3
  else if op = 0x28 then Spec.idxOk o.d && Spec.idxOk o.s1 && Spec.idxOk o.s2 && Spec.idxOk o.s3 && o.m1 = 0 && o.m2 = 0 && o.m3 = 0 && o.ew = 0
  else if op ≤ 0x42 then o.ew ≠ 3 && modOk k o.m1 && modOk k o.m2 && o.modeOk
  else if op = 0x43 then o.ew ≠ 3 && modOk k o.m1 && modOk k o.m2 && modOk k o.m3
  else if op ≤ 0x45 then o.ew ≠ 3 && modOk k o.m1 && modOk k o.m2 && o.z3
  else if op = 0x46 then o.ew ≠ 3 && o.cmpOk && decide (16 ≤ o.cc ∧ o.cc ≤ 29) && modOk k o.m1 && modOk k o.m2
  else if op = 0x47 then
    let ns := convCount (o.s2.extractLsb' 0 3).toNat
    let nd := convCount (o.s2.extractLsb' 3 3).toNat
    o.ew = 0 && o.m2 = 0 && o.s2.extractLsb' 0 3 ≠ o.s2.extractLsb' 3 3 && modOk ns o.m1 && o.modeOk &&
      decide ((o.s2.extractLsb' 6 3).toNat < max ns nd / min ns nd)
  else if op ≤ 0x49 then o.ew ≠ 3 && o.s2.extractLsb' 1 8 = (0 : BitVec 8) && o.m2 = 0 && modOk k o.m1 && o.modeOk
  else if op = 0x4A then (o.ew = 1 || o.ew = 2) && modOk 2 o.m1 && o.m2 = 0 && o.z3
  else if op = 0x4B then o.ew ≠ 3 && modOk k o.m1 && o.z2 && o.z3
  else if op = 0x4C then (o.ew = 1 || o.ew = 2) && modOk 2 o.m1 && modOk 2 o.m2 && modOk 1 o.m3
  else if op = 0x4D then
    o.ew = 0 && o.m2 = 0 && o.s2.extractLsb' 3 6 = (0 : BitVec 6) && decide (3 ≤ (o.s2.extractLsb' 0 3).toNat) && modOk 1 o.m1 && o.modeOk
  else if op = 0x4E then
    o.ew = 0 && o.m2 = 0 && o.s2.extractLsb' 3 6 = (0 : BitVec 6) && decide (3 ≤ (o.s2.extractLsb' 0 3).toNat) && o.m1 = 0 && o.z3
  else if op ≤ 0x66 then o.ew ≠ 3 && modOk k o.m1 && o.z2 && o.z3
  else if op = 0x67 then o.ew = 0 && o.m1 = 0 && o.m2 = 0 && o.z3
  else if op ≤ 0x73 then o.ew = 0 && o.m1 = 0 && modOk 1 o.m2 && o.m3 = 0 && o.s3.extractLsb' 3 6 = (0 : BitVec 6)
  else if op = 0x74 ∨ op = 0x75 then
    let x := (o.s3.extractLsb' 3 4).toNat
    o.z2 && o.m3 = 0 && !o.s3.getLsbD 8 && (op = 0x75 || !o.s3.getLsbD 7) &&
      (if x = 8 then o.ew ≠ 3 && modOk k o.m1 else decide (x ≤ 7) && modOk n o.m1)
  else if op = 0x76 then Spec.idxOk o.s1 && o.m1 = 0 && o.z2 && o.z3 && o.ew = 0
  else if op = 0x77 then o.ew = 0 && o.m1 = 0 && o.z2 && o.m3 = 0 && o.s3.extractLsb' 3 6 = (0 : BitVec 6)
  else Spec.idxOk o.d && Spec.idxOk o.s1 && o.m1 = 0 && o.z2 && o.m3 = 0 && o.ew = 0 &&
    o.s3.extractLsb' 7 2 = (0 : BitVec 2) && decide ((o.s3.extractLsb' 3 4).toNat ≤ 2)

/-- Format B is legal (R190, R195); u: the U class. -/
def legalB (u : Bool) (op : Nat) (o : FmtB) : Bool :=
  let shift := if u then decide (0x24 ≤ op ∧ op ≤ 0x26) else decide (0x1F ≤ op ∧ op ≤ 0x21)
  let cmp := if u then op = 0x27 else op = 0x26
  modOk (if u then 1 else elemCount o.ew) o.m1 && (!u || o.ew = 0) && (!shift || o.imm.extractLsb' 5 19 = (0 : BitVec 19)) &&
    (!cmp || (Spec.idxOk o.d && decide (o.cc ≤ 9)))

/-- Format C is legal (R178 to R180, R196). -/
def legalC (op : Nat) (o : FmtC) : Bool :=
  if op = 0x28 ∨ op = 0x22 then decide (o.f.toNat < 3)
  else o.d = 0 && o.f = 0 && (op ≠ 0x48 || o.imm.extractLsb' 8 24 = (0 : BitVec 24))

/-- Format J is legal (R130, R172). -/
def legalJ (op : Nat) (o : FmtJ) : Bool :=
  !o.f.getLsbD 1 &&
  (if op = 0x40 ∨ op = 0x45 then o.l = 0 && o.k = 0 && o.f = 0
   else if op = 0x41 then o.k = 0 && o.f = 0
   else if op = 0x42 ∨ op = 0x43 then o.off = 0 && o.k = 0 && o.f = 0
   else if op = 0x44 then o.l = 0
   else o.off = 0 && o.l = 0)

/-- Format Y is legal (R182, R183, R369 to R371, R391, R392). -/
def legalY (op : Nat) (o : FmtY) : Bool :=
  if op = 0x49 ∨ op = 0x4A then o = ⟨0, 0, 0, 0⟩
  else if op = 0x60 then o.s1 = 0 && o.f = 0
  else if op = 0x61 then o.d = 0 && o.f = 0
  else if op = 0x62 ∨ op = 0x63 then o.sr = 0 && o.s1 = 0 && o.f = 0
  else if op = 0x64 then
    o.d = 0 && o.sr = 0 && o.s1 = 0 && o.f.extractLsb' 5 14 = (0 : BitVec 14) && decide ((o.f.extractLsb' 2 3).toNat < 6) &&
      o.f.extractLsb' 0 2 ≠ (0 : BitVec 2)
  else if op = 0x65 then o.d = 0 && o.sr = 0 && o.f.extractLsb' 4 15 = (0 : BitVec 15) && decide ((o.f.extractLsb' 0 3).toNat < 4)
  else o.d = 0 && o.sr = 0 && o.f.extractLsb' 1 18 = (0 : BitVec 18) && (!o.f.getLsbD 0 || o.s1 = 0)

/-- Format M less its space is legal (R129, R250, R256 to R258, R264, R304). -/
def legalM (op : Nat) (o : FmtM) : Bool :=
  let sc := decide (o.sc.toNat < 6)
  o.z = 0 &&
  (if op ≤ 0x06 ∨ op = 0x0C ∨ op = 0x0D then sc && decide (o.ord.toNat ≤ 1)
   else if op ≤ 0x0F then sc && (o.ord = 0 || o.ord = 2)
   else if op = 0x10 then o.d = 0 && o.sc = 0 && o.ord = 0
   else if op = 0x11 then o.d = 0 && sc && o.ord = 0 && o.ch = 0
   else if op = 0x12 then o.d = 0 && o.sc = 0 && o.ord = 0 && o.ch = 0
   else if op = 0x38 then o.d.extractLsb' 2 7 = (0 : BitVec 7) && o.sc = 0 && o.ord = 0 && o.ch = 0
   else o.b = 0 && o.off.extractLsb' 2 16 = (0 : BitVec 16) && o.sc = 0 && o.ord = 0 && o.ch = 0)

/-- The space of a format M syllable is in its column (R129, R250, R304). -/
def spaceM (op : Nat) (sp : BitVec 2) : Bool :=
  if op ≤ 0x0F then sp ≠ 3 else if op = 0x38 then sp = 1 else sp = 0

/-- An atomic less its space is legal (R250, R259). -/
def legalT (op : Nat) (o : FmtT) : Bool :=
  o.z = 0 && decide (o.sc.toNat < 6) && (o.aw = 0 || (o.aw = 1 && (op = 0x28 || op = 0x2C)))

/-- Bits of F from lo up are zero. -/
def FmtE.fz (o : FmtE) (lo : Nat) : Bool := o.f.toNat / 2 ^ lo = 0
/-- The scope field of a copy command (R268). -/
def FmtE.copySc (o : FmtE) : Nat := (o.f.extractLsb' 8 3).toNat
/-- TO, TC, SC and the zero bits of a copy command's F (R268). -/
def FmtE.copyF (o : FmtE) : Bool :=
  (o.f.getLsbD 13 || o.f.extractLsb' 11 2 = (0 : BitVec 2)) && decide (o.copySc < 6) && o.f.extractLsb' 0 4 = (0 : BitVec 4)

/-- Format E is legal (R268, R301, R349, R350). -/
def legalE (op : Nat) (o : FmtE) : Bool :=
  let z123 := o.t1 = 0 && o.t2 = 0 && o.t3 = 0
  let s0 := o.s1 = 0 && o.s2 = 0
  let be := o.f.getLsbD 7 || o.t2 = 0
  let ol := o.f.extractLsb' 4 2
  let sc := decide ((o.f.extractLsb' 0 3).toNat < 6)
  if op ≤ 0x01 then o.t2 = 0 && o.t3 = 0 && o.fs = 0 && o.fz 2 && o.f ≠ 3
  else if op = 0x02 then s0 && o.fz 3 && o.f.extractLsb' 0 2 ≠ (3 : BitVec 2)
  else if op = 0x03 then o.t3 = 0 && s0 && o.fz 1
  else if op = 0x04 then o.t2 = 0 && o.t3 = 0 && o.fs = 0 && s0 && o.fz 1
  else if op = 0x05 then o.t3 = 0 && s0 && o.fz 3 && o.f.extractLsb' 0 2 ≠ (3 : BitVec 2)
  else if op = 0x06 then o.t3 = 0 && o.fs = 0 && o.s2 = 0 && o.fz 4
  else if op = 0x07 then o.t3 = 0 && o.fs = 0 && s0 && o.fz 1
  else if op = 0x08 then z123 && o.fs = 0 && o.fz 0
  else if op = 0x09 then o.t3 = 0 && o.fs = 0 && s0 && o.fz 0
  else if op = 0x0A then o.t2 = 0 && o.t3 = 0 && o.fs = 0 && o.fz 2
  else if op = 0x0B then o.fs = 0 && s0 && o.fz 0
  else if op ≤ 0x22 ∨ op = 0x29 then
    decide (o.t1.toNat < 4) && be && o.t3 = 0 && o.fs = 0 && o.copyF && ol ≠ (3 : BitVec 2) && (op = 0x21 || !o.f.getLsbD 6)
  else if op ≤ 0x25 then
    decide (o.t1.toNat < 4) && be && decide (o.t3.toNat < 4) && (o.f.getLsbD 6 || o.t3 = 0) && o.fs = 0 && o.copyF && ol = (0 : BitVec 2)
  else if op = 0x26 then
    decide (o.t1.toNat < 4) && o.t2 = 0 && o.t3 = 0 && o.fs = 0 && o.copyF && ol ≠ (3 : BitVec 2) && !o.f.getLsbD 6 && !o.f.getLsbD 7
  else if op ≤ 0x28 then decide (o.t1.toNat < 4) && o.t2 = 0 && o.t3 = 0 && o.fs = 0 && s0 && o.fz 7
  else if op = 0x30 then z123 && o.fs = 0 && o.s2 = 0 && o.fz 0
  else if op ≤ 0x32 then z123 && o.fs = 0 && o.fz 0
  else if op = 0x33 then o.t1 = 0 && o.t2 = 0 && (o.f.getLsbD 0 || o.t3 = 0) && o.fs = 0 && o.fz 1
  else if op = 0x40 then o.t2 = 0 && o.t3 = 0 && o.fs = 0 && o.s2 = 0 && o.fz 3 && sc
  else if op = 0x41 then o.t2 = 0 && o.t3 = 0 && o.fs = 0 && o.s2 = 0 && o.fz 5 && sc && (!o.f.getLsbD 4 || o.s1 = 0)
  else if op = 0x42 then o.t2 = 0 && o.fs = 0 && o.s2 = 0 && o.fz 3 && sc
  else if op = 0x43 then o.t2 = 0 && o.t3 = 0 && o.fs = 0 && o.fz 0
  else if op = 0x44 then z123 && o.fs = 0 && o.s2 = 0 && !o.f.getLsbD 5 && sc && (!o.f.getLsbD 4 || o.s1 = 0)
  else if op = 0x45 then z123 && o.fs = 0 && o.fz 3 && sc
  else if op = 0x46 then z123 && o.fs = 0 && o.fz 6 && o.f.extractLsb' 3 2 = (0 : BitVec 2) && sc
  else if op = 0x47 then z123 && o.fs = 0 && o.fz 0
  else if op = 0x50 then z123 && o.fs = 0 && o.s2 = 0 && o.fz 0
  else if op = 0x51 then o.t1 = 0 && o.t2 = 0 && decide (o.t3.toNat < 4) && o.fs = 0 && o.fz 0
  else o.t1 = 0 && o.t2 = 0 && decide (o.t3.toNat < 4) && o.fs = 0 && o.s2 = 0 && o.fz 0

/-- The format fields are legal but for the space. -/
def View.legal (v : View) : Bool :=
  !(v.h.pn && v.h.pi = 0) &&
  match v.fields with
  | .a o => if v.cls = 0 then legalUA v.op.toNat o else legalVA v.op.toNat o
  | .b o => legalB (v.cls = 0) v.op.toNat o
  | .c o => legalC v.op.toNat o
  | .m o => legalM v.op.toNat o
  | .t o => legalT v.op.toNat o
  | .j o => legalJ v.op.toNat o
  | .e o => legalE v.op.toNat o
  | .y o => legalY v.op.toNat o

/-- The space of a syllable is legal. -/
def View.spaceOk (v : View) : Bool :=
  match v.fields with
  | .m o => spaceM v.op.toNat o.sp
  | .t o => o.sp ≠ 3
  | _ => true

/-! ## Check 6: privilege (R143, R144) -/

/-- The syllable may be decoded by a privileged wave only. -/
def View.privileged (v : View) : Bool :=
  match v.fields with
  | .y o =>
    if v.op = 0x60 ∨ v.op = 0x61 then decide (0x100 ≤ o.sr.toNat ∧ o.sr.toNat ≤ 0x1FF) else v.op = 0x65 || v.op = 0x66
  | _ => false

/-! ## Check 7: operands (R132, R133, R143) -/

/-- Which registers a specifier may name. -/
inductive RegClass where
  | scalar
  | vector
  | any
  /-- A vector register, or s0: the D of an atomic. -/
  | vectorOrS0
  deriving DecidableEq, Repr

/-- One register operand: the specifier, its registers (1, 2, 4 or 8), its class, and whether it is written. -/
structure Opd where
  spec : Spec
  width : Nat
  cls : RegClass
  write : Bool
  deriving DecidableEq, Repr

/-- A specifier names a vector register, R132. -/
def Spec.isVec (n : Spec) : Bool := decide (n.toNat < 128)

/-- Width and access of the special registers of R141: 32 or 64 bits, and whether MTS may name it. -/
def srKind (sr : Nat) : Option (Nat × Bool) :=
  if sr ≤ 0x00B then some (32, false)
  else if 0x010 ≤ sr ∧ sr ≤ 0x017 then some (32, false)
  else if sr = 0x018 then some (64, false)
  else if 0x020 ≤ sr ∧ sr ≤ 0x034 then some (32, true)
  else if 0x038 ≤ sr ∧ sr ≤ 0x03F then some (32, true)
  else if 0x040 ≤ sr ∧ sr ≤ 0x04F then some (32, decide (sr % 4 = 0))
  else if sr = 0x050 ∨ sr = 0x051 then some (32, true)
  else if sr = 0x058 ∨ sr = 0x060 then some (32, false)
  else if sr = 0x061 then some (64, false)
  else if sr = 0x070 ∨ sr = 0x078 then some (32, false)
  else if sr = 0x100 ∨ sr = 0x101 then some (32, true)
  else if sr = 0x102 ∨ sr = 0x103 then some (64, true)
  else if sr = 0x110 then some (32, true)
  else if 0x120 ≤ sr ∧ sr ≤ 0x12F then some (32, true)
  else if sr = 0x130 ∨ sr = 0x131 ∨ sr = 0x133 then some (32, false)
  else if sr = 0x132 ∨ sr = 0x140 then some (32, true)
  else if sr = 0x141 then some (64, true)
  else none

/-- Read operand. -/
def rd (n : Spec) (w : Nat) (c : RegClass) : Opd := ⟨n, w, c, false⟩
/-- Written operand. -/
def wr (n : Spec) (w : Nat) (c : RegClass) : Opd := ⟨n, w, c, true⟩

/-- Operands of format A in the U class. -/
def opdUA (op : Nat) (o : FmtA) : List Opd :=
  let s := RegClass.scalar
  if op = 0x00 ∨ op = 0x29 then []
  else if op = 0x15 then [rd o.s1 1 s, rd o.s2 1 s]
  else if op = 0x17 ∨ op = 0x18 then [wr o.d 1 s, rd o.s1 1 s]
  else if op = 0x1A then [wr o.d 1 s, rd o.s1 1 s, rd o.s2 1 s, rd o.s3 1 s]
  else if op = 0x1B then [wr o.d 2 s, rd o.s1 2 s, rd o.s2 (if o.ew = 0 then 2 else 1) s]
  else [wr o.d 1 s, rd o.s1 1 s, rd o.s2 1 s]

/-- Operands of format A in the V class. -/
def opdVA (op : Nat) (o : FmtA) : List Opd :=
  let v := RegClass.vector
  let a := RegClass.any
  if op = 0x28 ∨ op = 0x78 then []
  else if op = 0x16 ∨ op = 0x46 then [rd o.s1 1 a, rd o.s2 1 a]
  else if op = 0x09 ∨ op = 0x1C ∨ op = 0x23 ∨ op = 0x43 ∨ op = 0x4C then [wr o.d 1 v, rd o.s1 1 a, rd o.s2 1 a, rd o.s3 1 a]
  else if op = 0x18 ∨ op = 0x19 ∨ op = 0x1A ∨ op = 0x25 ∨ op = 0x47 ∨ op = 0x48 ∨ op = 0x49 ∨ op = 0x4B ∨ op = 0x4D ∨ op = 0x4E ∨
      (0x60 ≤ op ∧ op ≤ 0x66) ∨ op = 0x74 ∨ op = 0x75 ∨ op = 0x77 then [wr o.d 1 v, rd o.s1 1 a]
  else if op = 0x27 then [wr o.d 2 v, rd o.s1 2 a, rd o.s2 (if o.ew = 0 then 2 else 1) a]
  else if op = 0x67 then [wr o.d 2 v, rd o.s1 1 a, rd o.s2 1 a]
  else if op = 0x76 then [wr o.d 4 v]
  else [wr o.d 1 v, rd o.s1 1 a, rd o.s2 1 a]

/-- Operands of format M. -/
def opdM (op : Nat) (o : FmtM) : List Opd :=
  let bw := if o.sp = 0 then 2 else 1
  let b := rd o.b bw .any
  if op ≤ 0x04 then [wr o.d 1 .vector, b]
  else if op = 0x05 then [wr o.d 2 .vector, b]
  else if op = 0x06 then [wr o.d 4 .vector, b]
  else if op ≤ 0x09 then [rd o.d 1 .vector, b]
  else if op = 0x0A then [rd o.d 2 .vector, b]
  else if op = 0x0B then [rd o.d 4 .vector, b]
  else if op = 0x0C then [wr o.d 1 .scalar, rd o.b bw .scalar]
  else if op = 0x0D then [wr o.d 2 .scalar, rd o.b bw .scalar]
  else if op = 0x0E then [rd o.d 1 .scalar, rd o.b bw .scalar]
  else if op = 0x0F then [rd o.d 2 .scalar, rd o.b bw .scalar]
  else if op ≤ 0x12 then [b]
  else if op = 0x38 then [rd o.b 1 .scalar]
  else [wr o.d 4 .vector]

/-- Operands of an atomic; with D = s0 it returns nothing and writes no register (R133, R259). -/
def opdT (op : Nat) (o : FmtT) : List Opd :=
  let d (n : Nat) := wr o.d (if o.d = 128 then 1 else n) .vectorOrS0
  let b := rd o.b (if o.sp = 0 then 2 else 1) .any
  if op = 0x2B then [d 2, b, rd o.a 2 .any]
  else if op = 0x29 then [d 1, b, rd o.a 2 .any]
  else if op = 0x28 ∧ o.aw = 1 then [d 2, b, rd o.a 2 .any]
  else if op = 0x2C ∧ o.aw = 1 then [d 4, b, rd o.a 8 .any]
  else if op = 0x2C then [d 2, b, rd o.a 4 .any]
  else [d 1, b, rd o.a 1 .any]

/-- Operands of format E. -/
def opdE (op : Nat) (o : FmtE) : List Opd :=
  let a := RegClass.any
  if op ≤ 0x01 then [rd o.s1 (if o.f.extractLsb' 0 2 = (0 : BitVec 2) then 2 else 1) .scalar, rd o.s2 1 .scalar]
  else if op = 0x06 then [rd o.s1 1 .scalar]
  else if op = 0x08 then [rd o.s1 1 .scalar, rd o.s2 1 .scalar]
  else if op = 0x0A then [rd o.s1 1 .scalar, if o.f.getLsbD 0 then rd o.s2 1 .vector else wr o.s2 1 .vector]
  else if op ≤ 0x0B then []
  else if op ≤ 0x26 ∨ op = 0x29 then [rd o.s1 4 a, rd o.s2 4 a]
  else if op ≤ 0x28 then []
  else if op = 0x30 ∨ op = 0x40 ∨ op = 0x42 then [rd o.s1 1 a]
  else if op = 0x31 then [rd o.s1 1 a, rd o.s2 2 a]
  else if op = 0x32 ∨ op = 0x33 ∨ op = 0x43 then [rd o.s1 1 a, rd o.s2 1 a]
  else if op = 0x41 ∨ op = 0x44 then (if o.f.getLsbD 4 then [] else [rd o.s1 1 a])
  else if op = 0x45 ∨ op = 0x46 then [rd o.s1 1 a, rd o.s2 2 a]
  else if op = 0x47 then [rd o.s1 1 a, wr o.s2 2 .scalar]
  else if op = 0x50 then [rd o.s1 2 a]
  else if op = 0x51 then [rd o.s1 2 a, rd o.s2 1 a]
  else [rd o.s1 1 a]

/-- The plane fields of a matrix command (R131, R301). -/
def planes (op : Nat) (o : FmtE) : List (BitVec 4) :=
  if op = 0x02 ∨ op = 0x05 then [o.t1] else if op = 0x03 then [o.t2]
  else if op = 0x04 ∧ !o.f.getLsbD 0 then [o.t1] else []

/-- The register operands of a syllable. -/
def View.operands (v : View) : List Opd :=
  match v.fields with
  | .a o => if v.cls = 0 then opdUA v.op.toNat o else opdVA v.op.toNat o
  | .b o =>
    if v.cls = 0 then (if v.op = 0x27 then [rd o.s1 1 .scalar] else [wr o.d 1 .scalar, rd o.s1 1 .scalar])
    else if v.op = 0x26 then [rd o.s1 1 .any] else [wr o.d 1 .vector, rd o.s1 1 .any]
  | .c o =>
    if v.op = 0x28 then [wr o.d (if o.f = 0 then 1 else 2) .scalar]
    else if v.op = 0x22 then [wr o.d (if o.f = 0 then 1 else 2) .vector] else []
  | .m o => opdM v.op.toNat o
  | .t o => opdT v.op.toNat o
  | .j o =>
    if v.op = 0x41 then [wr o.l 2 .scalar] else if v.op = 0x42 then [rd o.l 2 .scalar]
    else if v.op = 0x43 then [rd o.l 2 .scalar, wr o.l 2 .scalar] else []
  | .e o => opdE v.op.toNat o
  | .y o =>
    if v.op = 0x60 then
      [wr o.d (if (srKind o.sr.toNat).map Prod.fst = some 64 then 2 else 1) (if o.sr = 0 then .vector else .scalar)]
    else if v.op = 0x61 then [rd o.s1 (if (srKind o.sr.toNat).map Prod.fst = some 64 then 2 else 1) .scalar]
    else if v.op = 0x62 ∨ v.op = 0x63 then [wr o.d 2 .scalar]
    else if v.op = 0x65 then [rd o.s1 2 .scalar]
    else if v.op = 0x66 ∧ !o.f.getLsbD 0 then [rd o.s1 1 .scalar] else []

/-- The lane predicate a syllable writes (R126, R181, R224). -/
def View.predWritten (v : View) : Option (BitVec 4) :=
  if v.cls ≠ 1 then none else
  match v.fields with
  | .a o => if v.op = 0x16 ∨ v.op = 0x46 ∨ v.op = 0x28 ∨ v.op = 0x78 then some (Spec.idx o.d) else none
  | .b o => if v.op = 0x26 then some (Spec.idx o.d) else none
  | _ => none

/-- The wave condition a syllable writes (R126, R181, R357, R376). -/
def View.condWritten (v : View) : Option (BitVec 4) :=
  match v.fields with
  | .a o => if v.cls = 0 ∧ (v.op = 0x15 ∨ v.op = 0x29) then some (Spec.idx o.d) else none
  | .b o => if v.cls = 0 ∧ v.op = 0x27 then some (Spec.idx o.d) else none
  | .e o => if v.op = 0x42 ∨ (v.op = 0x33 ∧ o.f.getLsbD 0) then some o.t3 else none
  | _ => none

/-- What operand checks need of the block: the budget and the rotating region of its variant. -/
structure Budget where
  vregs : Nat
  sregs : Nat
  rotv : Nat
  deriving DecidableEq, Repr

/-- One operand is in its class, aligned and inside the budget (R50, R133). -/
def Opd.ok (g : Budget) (o : Opd) : Bool :=
  let n := o.spec.toNat
  let cls := match o.cls with
    | .scalar => !Spec.isVec o.spec
    | .vector => Spec.isVec o.spec
    | .any => true
    | .vectorOrS0 => Spec.isVec o.spec || n = 128
  let inside := if Spec.isVec o.spec then decide (n + o.width ≤ g.vregs) else decide (n - 128 + o.width ≤ g.sregs)
  cls && decide (n % o.width = 0 ∨ (o.cls = .vectorOrS0 ∧ n = 128)) && (inside || (o.cls = .vectorOrS0 && n = 128))

/-- The first operand of a syllable that breaks R50, R131, R133, R143 or R172, as the value FAULTDET shows. -/
def View.badOperand (g : Budget) (v : View) : Option Nat :=
  let sr := match v.fields with
    | .y o =>
      if v.op = 0x60 then (if (srKind o.sr.toNat).isNone then some o.sr.toNat else none)
      else if v.op = 0x61 then (match srKind o.sr.toNat with
        | some (_, true) => none
        | _ => some o.sr.toNat)
      else none
    | _ => none
  let link := match v.fields with
    | .j o => if 0x41 ≤ v.op.toNat ∧ v.op.toNat ≤ 0x43 ∧ o.l.toNat < 130 then some o.l.toNat else none
    | _ => none
  let plane := match v.fields with
    | .e o => ((planes v.op.toNat o).find? fun (p : BitVec 4) => decide (4 ≤ p.toNat)).map BitVec.toNat
    | _ => none
  match sr with
  | some n => some n
  | none => match link with
    | some n => some n
    | none => match plane with
      | some n => some n
      | none => (v.operands.find? fun (o : Opd) => !o.ok g).map fun (o : Opd) => o.spec.toNat

/-- The physical register of v k, R132. -/
def physV (rotv rb k : Nat) : Nat := if k < rotv then (k + rb) % rotv else k

/-- The physical predicate of p k, R132. -/
def physP (rotv rb k : Nat) : Nat := if rotv ≠ 0 ∧ 8 ≤ k then 8 + (k - 8 + rb) % 8 else k

/-- A register, predicate or condition that a syllable writes, after rotation: vectors from 0, scalars from 128, predicates
from 512, conditions from 528. -/
def View.dests (g : Budget) (rb : Nat) (v : View) : List Nat :=
  let regs := (v.operands.filter Opd.write).flatMap fun o => (List.range o.width).map fun i =>
    if Spec.isVec o.spec then physV g.rotv rb (o.spec.toNat + i) else o.spec.toNat + i
  let ps := match v.predWritten with
    | some p => [512 + physP g.rotv rb p.toNat]
    | none => []
  let cs := match v.condWritten with
    | some c => [528 + c.toNat]
    | none => []
  (regs ++ ps ++ cs).filter fun n => n ≠ 128 && n ≠ 512 && n ≠ 528

/-- Registers a syllable reads or writes, after rotation, numbered as for dests (R162). -/
def View.regs (g : Budget) (rb : Nat) (v : View) : List Nat :=
  v.operands.flatMap fun o => (List.range o.width).map fun i =>
    if Spec.isVec o.spec then physV g.rotv rb (o.spec.toNat + i) else o.spec.toNat + i

/-- Class, opcode, header and fields break no rule that a syllable alone can break. -/
def View.wf (v : View) : Bool := v.legal && v.spaceOk && (v.badOperand ⟨128, 384, 0⟩).isNone

end Sys2Proof
end

