-- ==== Sys2Proof/WellFormed.lean ====
section
/-! DEFINITION. Which instructions are well formed: a syllable's fields break no rule it can break alone, and its constructor is
the one its form selects; an event's operands name objects that can exist. -/

namespace Sys2Proof

/-- The constructor an MTS stands for, by its special register; an MTS to SHELFCTL stands as SHELFCTL_WRITE, and the step reads
LOAD in the value it writes (R405, R407). -/
def mtsForm (h : Hdr) (o : FmtY) : Instr :=
  let n := o.sr.toNat
  if 0x020 ≤ n ∧ n ≤ 0x02F then .mtsTsh h o
  else if 0x030 ≤ n ∧ n ≤ 0x033 then .mtsPlane h o
  else if n = 0x034 then .mtsSplit h o
  else if n = 0x040 ∨ n = 0x044 ∨ n = 0x048 ∨ n = 0x04C then .ringReset h o
  else if n = 0x051 then .mtsRot h o
  else if n = 0x110 then .mtsDrpth h o
  else if n = 0x132 then .shelfctlWrite h o
  else .mts h o

/-- The constructor is the one its form selects, where several constructors share an opcode; SHELFCTL_LOAD is told from
SHELFCTL_WRITE by a value and not by a bit of the syllable. -/
def Instr.formOk (i : Instr) : Bool :=
  match i with
  | .sli _ o => o.f ≠ 1 && o.f ≠ 2
  | .sliHi _ o => o.f = 1
  | .sliSx _ o => o.f = 2
  | .vli _ o => o.f ≠ 1 && o.f ≠ 2
  | .vliHi _ o => o.f = 1
  | .vliSx _ o => o.f = 2
  | .mts h o => mtsForm h o = .mts h o
  | .mtsTsh h o => mtsForm h o = .mtsTsh h o
  | .mtsPlane h o => mtsForm h o = .mtsPlane h o
  | .mtsSplit h o => mtsForm h o = .mtsSplit h o
  | .mtsRot h o => mtsForm h o = .mtsRot h o
  | .ringReset h o => mtsForm h o = .ringReset h o
  | .mtsDrpth h o => mtsForm h o = .mtsDrpth h o
  | .shelfctlWrite h o => mtsForm h o = .shelfctlWrite h o
  | .shelfctlLoad _ _ => false
  | .fenceRel _ o => o.f.extractLsb' 0 2 ≠ (2 : BitVec 2) && o.f.extractLsb' 0 2 ≠ (3 : BitVec 2)
  | .fenceAcq _ o => o.f.extractLsb' 0 2 = (2 : BitVec 2)
  | .fenceFull _ o => o.f.extractLsb' 0 2 = (3 : BitVec 2)
  | .rfxResume _ o => o.f.extractLsb' 0 3 ≠ (1 : BitVec 3) && o.f.extractLsb' 0 3 ≠ (2 : BitVec 3) && o.f.extractLsb' 0 3 ≠ (3 : BitVec 3)
  | .rfxSkip _ o => o.f.extractLsb' 0 3 = (1 : BitVec 3)
  | .rfxKillb _ o => o.f.extractLsb' 0 3 = (2 : BitVec 3)
  | .rfxKilll _ o => o.f.extractLsb' 0 3 = (3 : BitVec 3)
  | .xinv _ o => !o.f.getLsbD 0
  | .xinvAll _ o => o.f.getLsbD 0
  | .axchg _ o => o.aw ≠ 1
  | .axchgX64 _ o => o.aw = 1
  | .acas64 _ o => o.aw ≠ 1
  | .acas64X128 _ o => o.aw = 1
  | .tzeroPlane _ o => !o.f.getLsbD 0
  | .tzeroTile _ o => o.f.getLsbD 0
  | .tmovvTv _ o => !o.f.getLsbD 0 && !o.f.getLsbD 1
  | .tmovvVt _ o => o.f.getLsbD 0 && !o.f.getLsbD 1
  | .tmovvTvRx _ o => !o.f.getLsbD 0 && o.f.getLsbD 1
  | .tmovvVtRx _ o => o.f.getLsbD 0 && o.f.getLsbD 1
  | .deq _ o => !o.f.getLsbD 0
  | .deqNb _ o => o.f.getLsbD 0
  | _ => true

/-- A syllable that a decoder accepts in the largest budget. -/
def Instr.syllableOk (i : Instr) : Bool :=
  match i.view with
  | some v => v.wf && i.formOk
  | none => false

/-- An event whose operands are in range. -/
def Instr.eventOk (i : Instr) : Bool :=
  match i with
  | .tableUpdate r => decide (r.ctx < 256 ∧ r.level ≤ 4)
  | .streamRingPlace p => decide (1 ≤ p.slotsz.toNat ∧ p.slotsz.toNat ≤ 1024 ∧ 2 ≤ p.slots.toNat ∧ p.slots.toNat ≤ 64 ∧ p.ctx < 256)
  | .namedQueueAssign p => decide (p.queue < 192 ∧ 4 ≤ p.k ∧ p.k ≤ 12 ∧ p.ctx < 256)
  | .sramUncorrectable e => decide (e.structureCode.toNat ≤ 4)
  | .gatingStart d => decide (d < 3)
  | .gatingComplete d => decide (d < 3)
  | .wakeComplete d => decide (d < 3)
  | .poolRefill d n _ => decide (d < 3 ∧ n < 6)
  | _ => true

/-- Well-formed instructions. -/
def Instr.wf (i : Instr) : Bool :=
  match i.view with
  | some _ => i.syllableOk
  | none => i.eventOk

end Sys2Proof
end

