-- ==== Sys2Proof/Decode.lean ====
section
/-! DEFINITION. Decoding: the bits of a syllable to its instruction, with rejection by name, and of a bundle's syllables with the
checks of R122 in their order; then the encoder, written from the same formats. -/

namespace Sys2Proof

/-! ## Fields from the body of a syllable (bits 46:0) -/

/-- Format A, R125. -/
def FmtA.ofBody (x : BitVec 47) : FmtA :=
  ⟨x.extractLsb' 38 9, x.extractLsb' 29 9, x.extractLsb' 20 9, x.extractLsb' 11 9, x.extractLsb' 8 3, x.extractLsb' 5 3,
   x.extractLsb' 2 3, x.extractLsb' 0 2⟩
/-- Format B, R127. -/
def FmtB.ofBody (x : BitVec 47) : FmtB :=
  ⟨x.extractLsb' 38 9, x.extractLsb' 29 9, x.extractLsb' 26 3, x.extractLsb' 24 2, x.extractLsb' 0 24⟩
/-- Format C, R128. -/
def FmtC.ofBody (x : BitVec 47) : FmtC := ⟨x.extractLsb' 38 9, x.extractLsb' 32 6, x.extractLsb' 0 32⟩
/-- Format M, R129. -/
def FmtM.ofBody (x : BitVec 47) : FmtM :=
  ⟨x.extractLsb' 38 9, x.extractLsb' 29 9, x.extractLsb' 11 18, x.extractLsb' 9 2, x.extractLsb' 6 3, x.extractLsb' 4 2,
   x.extractLsb' 2 2, x.extractLsb' 0 2⟩
/-- Format M of an atomic, R259. -/
def FmtT.ofBody (x : BitVec 47) : FmtT :=
  ⟨x.extractLsb' 38 9, x.extractLsb' 29 9, x.extractLsb' 20 9, x.extractLsb' 11 9, x.extractLsb' 9 2, x.extractLsb' 6 3,
   x.extractLsb' 4 2, x.extractLsb' 2 2, x.extractLsb' 0 2⟩
/-- Format J, R130. -/
def FmtJ.ofBody (x : BitVec 47) : FmtJ := ⟨x.extractLsb' 15 32, x.extractLsb' 6 9, x.extractLsb' 2 4, x.extractLsb' 0 2⟩
/-- Format E, R131. -/
def FmtE.ofBody (x : BitVec 47) : FmtE :=
  ⟨x.extractLsb' 43 4, x.extractLsb' 39 4, x.extractLsb' 35 4, x.extractLsb' 32 3, x.extractLsb' 23 9, x.extractLsb' 14 9,
   x.extractLsb' 0 14⟩
/-- Format Y, R131. -/
def FmtY.ofBody (x : BitVec 47) : FmtY := ⟨x.extractLsb' 38 9, x.extractLsb' 28 10, x.extractLsb' 19 9, x.extractLsb' 0 19⟩

/-! ## The opcode map -/

/-- The constructor a form of class U opcode 0x28 stands for. -/
def formU28 (h : Hdr) (o : FmtC) : Instr :=
      if o.f = 1 then .sliHi h o else if o.f = 2 then .sliSx h o else .sli h o

/-- The constructor a form of class V opcode 0x22 stands for. -/
def formV22 (h : Hdr) (o : FmtC) : Instr :=
      if o.f = 1 then .vliHi h o else if o.f = 2 then .vliSx h o else .vli h o

/-- The constructor a form of class U opcode 0x61 stands for. -/
def formU61 (h : Hdr) (o : FmtY) : Instr :=
      mtsForm h o

/-- The constructor a form of class U opcode 0x64 stands for. -/
def formU64 (h : Hdr) (o : FmtY) : Instr :=
      if o.f.extractLsb' 0 2 = 2 then .fenceAcq h o else if o.f.extractLsb' 0 2 = 3 then .fenceFull h o else .fenceRel h o

/-- The constructor a form of class U opcode 0x65 stands for. -/
def formU65 (h : Hdr) (o : FmtY) : Instr :=
      if o.f.extractLsb' 0 3 = 1 then .rfxSkip h o else if o.f.extractLsb' 0 3 = 2 then .rfxKillb h o
      else if o.f.extractLsb' 0 3 = 3 then .rfxKilll h o else .rfxResume h o

/-- The constructor a form of class U opcode 0x66 stands for. -/
def formU66 (h : Hdr) (o : FmtY) : Instr :=
      if o.f.getLsbD 0 then .xinvAll h o else .xinv h o

/-- The constructor a form of class M opcode 0x28 stands for. -/
def formM28 (h : Hdr) (o : FmtT) : Instr :=
      if o.aw = 1 then .axchgX64 h o else .axchg h o

/-- The constructor a form of class M opcode 0x2C stands for. -/
def formM2C (h : Hdr) (o : FmtT) : Instr :=
      if o.aw = 1 then .acas64X128 h o else .acas64 h o

/-- The constructor a form of class X opcode 0x04 stands for. -/
def formX04 (h : Hdr) (o : FmtE) : Instr :=
      if o.f.getLsbD 0 then .tzeroTile h o else .tzeroPlane h o

/-- The constructor a form of class X opcode 0x0A stands for. -/
def formX0A (h : Hdr) (o : FmtE) : Instr :=
      if o.f.getLsbD 1 then (if o.f.getLsbD 0 then .tmovvVtRx h o else .tmovvTvRx h o)
      else if o.f.getLsbD 0 then .tmovvVt h o else .tmovvTv h o

/-- The constructor a form of class X opcode 0x33 stands for. -/
def formX33 (h : Hdr) (o : FmtE) : Instr :=
      if o.f.getLsbD 0 then .deqNb h o else .deq h o

/-- The U class, R136. -/
def parseU (h : Hdr) (op : BitVec 8) (x : BitVec 47) : Option Instr :=
  match op.toNat with
  | 0x00 => some (.nop h (FmtA.ofBody x))
  | 0x01 => some (.sadd h (FmtA.ofBody x))
  | 0x02 => some (.ssub h (FmtA.ofBody x))
  | 0x03 => some (.smul h (FmtA.ofBody x))
  | 0x04 => some (.smulh h (FmtA.ofBody x))
  | 0x05 => some (.smulhu h (FmtA.ofBody x))
  | 0x06 => some (.sdiv h (FmtA.ofBody x))
  | 0x07 => some (.sdivu h (FmtA.ofBody x))
  | 0x0A => some (.sand h (FmtA.ofBody x))
  | 0x0B => some (.sor h (FmtA.ofBody x))
  | 0x0C => some (.sxor h (FmtA.ofBody x))
  | 0x0D => some (.sandn h (FmtA.ofBody x))
  | 0x0E => some (.sshl h (FmtA.ofBody x))
  | 0x0F => some (.sshr h (FmtA.ofBody x))
  | 0x10 => some (.ssra h (FmtA.ofBody x))
  | 0x11 => some (.smin h (FmtA.ofBody x))
  | 0x12 => some (.smax h (FmtA.ofBody x))
  | 0x13 => some (.sminu h (FmtA.ofBody x))
  | 0x14 => some (.smaxu h (FmtA.ofBody x))
  | 0x15 => some (.scmp h (FmtA.ofBody x))
  | 0x16 => some (.ssel h (FmtA.ofBody x))
  | 0x17 => some (.spopc h (FmtA.ofBody x))
  | 0x18 => some (.sclz h (FmtA.ofBody x))
  | 0x19 => some (.sbfx h (FmtA.ofBody x))
  | 0x1A => some (.sbfi h (FmtA.ofBody x))
  | 0x1B => some (.sadd64 h (FmtA.ofBody x))
  | 0x20 => some (.saddi h (FmtB.ofBody x))
  | 0x21 => some (.sandi h (FmtB.ofBody x))
  | 0x22 => some (.sori h (FmtB.ofBody x))
  | 0x23 => some (.sxori h (FmtB.ofBody x))
  | 0x24 => some (.sshli h (FmtB.ofBody x))
  | 0x25 => some (.sshri h (FmtB.ofBody x))
  | 0x26 => some (.ssrai h (FmtB.ofBody x))
  | 0x27 => some (.scmpi h (FmtB.ofBody x))
  | 0x28 => some (formU28 h (FmtC.ofBody x))
  | 0x29 => some (.clog h (FmtA.ofBody x))
  | 0x40 => some (.br h (FmtJ.ofBody x))
  | 0x41 => some (.brl h (FmtJ.ofBody x))
  | 0x42 => some (.bri h (FmtJ.ofBody x))
  | 0x43 => some (.brli h (FmtJ.ofBody x))
  | 0x44 => some (.brp h (FmtJ.ofBody x))
  | 0x45 => some (.loopb h (FmtJ.ofBody x))
  | 0x46 => some (.exit h (FmtJ.ofBody x))
  | 0x47 => some (.trap h (FmtC.ofBody x))
  | 0x48 => some (.swpt h (FmtC.ofBody x))
  | 0x49 => some (.trigger h (FmtY.ofBody x))
  | 0x4A => some (.gridwait h (FmtY.ofBody x))
  | 0x4B => some (.wait h (FmtC.ofBody x))
  | 0x4D => some (.brk h (FmtC.ofBody x))
  | 0x60 => some (.mfs h (FmtY.ofBody x))
  | 0x61 => some (formU61 h (FmtY.ofBody x))
  | 0x62 => some (.time h (FmtY.ofBody x))
  | 0x63 => some (.cyc h (FmtY.ofBody x))
  | 0x64 => some (formU64 h (FmtY.ofBody x))
  | 0x65 => some (formU65 h (FmtY.ofBody x))
  | 0x66 => some (formU66 h (FmtY.ofBody x))
  | _ => none

/-- The V class, R137. -/
def parseV (h : Hdr) (op : BitVec 8) (x : BitVec 47) : Option Instr :=
  match op.toNat with
  | 0x00 => some (.vadd h (FmtA.ofBody x))
  | 0x01 => some (.vsub h (FmtA.ofBody x))
  | 0x02 => some (.vadds h (FmtA.ofBody x))
  | 0x03 => some (.vaddsu h (FmtA.ofBody x))
  | 0x04 => some (.vsubs h (FmtA.ofBody x))
  | 0x05 => some (.vsubsu h (FmtA.ofBody x))
  | 0x06 => some (.vmul h (FmtA.ofBody x))
  | 0x07 => some (.vmulh h (FmtA.ofBody x))
  | 0x08 => some (.vmulhu h (FmtA.ofBody x))
  | 0x09 => some (.vmad h (FmtA.ofBody x))
  | 0x0A => some (.vand h (FmtA.ofBody x))
  | 0x0B => some (.vor h (FmtA.ofBody x))
  | 0x0C => some (.vxor h (FmtA.ofBody x))
  | 0x0D => some (.vandn h (FmtA.ofBody x))
  | 0x0E => some (.vshl h (FmtA.ofBody x))
  | 0x0F => some (.vshr h (FmtA.ofBody x))
  | 0x10 => some (.vsra h (FmtA.ofBody x))
  | 0x11 => some (.vmin h (FmtA.ofBody x))
  | 0x12 => some (.vmax h (FmtA.ofBody x))
  | 0x13 => some (.vminu h (FmtA.ofBody x))
  | 0x14 => some (.vmaxu h (FmtA.ofBody x))
  | 0x15 => some (.vabsd h (FmtA.ofBody x))
  | 0x16 => some (.vcmp h (FmtA.ofBody x))
  | 0x17 => some (.vsel h (FmtA.ofBody x))
  | 0x18 => some (.vmov h (FmtA.ofBody x))
  | 0x19 => some (.vpopc h (FmtA.ofBody x))
  | 0x1A => some (.vclz h (FmtA.ofBody x))
  | 0x1B => some (.vbfx h (FmtA.ofBody x))
  | 0x1C => some (.vbfi h (FmtA.ofBody x))
  | 0x1D => some (.vaddi h (FmtB.ofBody x))
  | 0x1E => some (.vandi h (FmtB.ofBody x))
  | 0x1F => some (.vshli h (FmtB.ofBody x))
  | 0x20 => some (.vshri h (FmtB.ofBody x))
  | 0x21 => some (.vsrai h (FmtB.ofBody x))
  | 0x22 => some (formV22 h (FmtC.ofBody x))
  | 0x23 => some (.vdot4 h (FmtA.ofBody x))
  | 0x24 => some (.vpack h (FmtA.ofBody x))
  | 0x25 => some (.vunpk h (FmtA.ofBody x))
  | 0x26 => some (.vcmpi h (FmtB.ofBody x))
  | 0x27 => some (.vadd64 h (FmtA.ofBody x))
  | 0x28 => some (.plog h (FmtA.ofBody x))
  | 0x40 => some (.fadd h (FmtA.ofBody x))
  | 0x41 => some (.fsub h (FmtA.ofBody x))
  | 0x42 => some (.fmul h (FmtA.ofBody x))
  | 0x43 => some (.ffma h (FmtA.ofBody x))
  | 0x44 => some (.fmin h (FmtA.ofBody x))
  | 0x45 => some (.fmax h (FmtA.ofBody x))
  | 0x46 => some (.fcmp h (FmtA.ofBody x))
  | 0x47 => some (.fcvt h (FmtA.ofBody x))
  | 0x48 => some (.fcvti h (FmtA.ofBody x))
  | 0x49 => some (.icvtf h (FmtA.ofBody x))
  | 0x4A => some (.fmaxk h (FmtA.ofBody x))
  | 0x4B => some (.fclass h (FmtA.ofBody x))
  | 0x4C => some (.fdot2 h (FmtA.ofBody x))
  | 0x4D => some (.fmxq h (FmtA.ofBody x))
  | 0x4E => some (.fmxd h (FmtA.ofBody x))
  | 0x60 => some (.sfsin h (FmtA.ofBody x))
  | 0x61 => some (.sfcos h (FmtA.ofBody x))
  | 0x62 => some (.sfexp2 h (FmtA.ofBody x))
  | 0x63 => some (.sflog2 h (FmtA.ofBody x))
  | 0x64 => some (.sfrcp h (FmtA.ofBody x))
  | 0x65 => some (.sfrsq h (FmtA.ofBody x))
  | 0x66 => some (.sfsqrt h (FmtA.ofBody x))
  | 0x67 => some (.sftwid h (FmtA.ofBody x))
  | 0x70 => some (.xshf h (FmtA.ofBody x))
  | 0x71 => some (.xbfly h (FmtA.ofBody x))
  | 0x72 => some (.xup h (FmtA.ofBody x))
  | 0x73 => some (.xdn h (FmtA.ofBody x))
  | 0x74 => some (.xred h (FmtA.ofBody x))
  | 0x75 => some (.xscan h (FmtA.ofBody x))
  | 0x76 => some (.xballot h (FmtA.ofBody x))
  | 0x77 => some (.xbcast h (FmtA.ofBody x))
  | 0x78 => some (.xvote h (FmtA.ofBody x))
  | _ => none

/-- The M class, R138. -/
def parseM (h : Hdr) (op : BitVec 8) (x : BitVec 47) : Option Instr :=
  match op.toNat with
  | 0x00 => some (.ldb h (FmtM.ofBody x))
  | 0x01 => some (.ldbz h (FmtM.ofBody x))
  | 0x02 => some (.ldh h (FmtM.ofBody x))
  | 0x03 => some (.ldhz h (FmtM.ofBody x))
  | 0x04 => some (.ldw h (FmtM.ofBody x))
  | 0x05 => some (.ldd h (FmtM.ofBody x))
  | 0x06 => some (.ldq h (FmtM.ofBody x))
  | 0x07 => some (.stb h (FmtM.ofBody x))
  | 0x08 => some (.sth h (FmtM.ofBody x))
  | 0x09 => some (.stw h (FmtM.ofBody x))
  | 0x0A => some (.std h (FmtM.ofBody x))
  | 0x0B => some (.stq h (FmtM.ofBody x))
  | 0x0C => some (.sldw h (FmtM.ofBody x))
  | 0x0D => some (.sldd h (FmtM.ofBody x))
  | 0x0E => some (.sstw h (FmtM.ofBody x))
  | 0x0F => some (.sstd h (FmtM.ofBody x))
  | 0x10 => some (.pref h (FmtM.ofBody x))
  | 0x11 => some (.cwb h (FmtM.ofBody x))
  | 0x12 => some (.cinv h (FmtM.ofBody x))
  | 0x20 => some (.aadd h (FmtT.ofBody x))
  | 0x21 => some (.aand h (FmtT.ofBody x))
  | 0x22 => some (.aor h (FmtT.ofBody x))
  | 0x23 => some (.axor h (FmtT.ofBody x))
  | 0x24 => some (.amin h (FmtT.ofBody x))
  | 0x25 => some (.amax h (FmtT.ofBody x))
  | 0x26 => some (.aminu h (FmtT.ofBody x))
  | 0x27 => some (.amaxu h (FmtT.ofBody x))
  | 0x28 => some (formM28 h (FmtT.ofBody x))
  | 0x29 => some (.acas h (FmtT.ofBody x))
  | 0x2A => some (.afadd h (FmtT.ofBody x))
  | 0x2B => some (.aadd64 h (FmtT.ofBody x))
  | 0x2C => some (formM2C h (FmtT.ofBody x))
  | 0x30 => some (.qpop h (FmtM.ofBody x))
  | 0x31 => some (.qpeek h (FmtM.ofBody x))
  | 0x38 => some (.tscl h (FmtM.ofBody x))
  | _ => none

/-- The X class, R139. -/
def parseX (h : Hdr) (op : BitVec 8) (x : BitVec 47) : Option Instr :=
  match op.toNat with
  | 0x00 => some (.tld h (FmtE.ofBody x))
  | 0x01 => some (.tst h (FmtE.ofBody x))
  | 0x02 => some (.tmma h (FmtE.ofBody x))
  | 0x03 => some (.trnd h (FmtE.ofBody x))
  | 0x04 => some (formX04 h (FmtE.ofBody x))
  | 0x05 => some (.twin h (FmtE.ofBody x))
  | 0x06 => some (.tbfly h (FmtE.ofBody x))
  | 0x07 => some (.tbrev h (FmtE.ofBody x))
  | 0x08 => some (.ttwg h (FmtE.ofBody x))
  | 0x09 => some (.ttrn h (FmtE.ofBody x))
  | 0x0A => some (formX0A h (FmtE.ofBody x))
  | 0x0B => some (.tmerge h (FmtE.ofBody x))
  | 0x20 => some (.cpy h (FmtE.ofBody x))
  | 0x21 => some (.cpys h (FmtE.ofBody x))
  | 0x22 => some (.cpym h (FmtE.ofBody x))
  | 0x23 => some (.gath h (FmtE.ofBody x))
  | 0x24 => some (.redc h (FmtE.ofBody x))
  | 0x25 => some (.cnvt h (FmtE.ofBody x))
  | 0x26 => some (.bsnd h (FmtE.ofBody x))
  | 0x27 => some (.swait h (FmtE.ofBody x))
  | 0x28 => some (.srel h (FmtE.ofBody x))
  | 0x29 => some (.cpyt h (FmtE.ofBody x))
  | 0x30 => some (.spawn h (FmtE.ofBody x))
  | 0x31 => some (.spawnd h (FmtE.ofBody x))
  | 0x32 => some (.enq h (FmtE.ofBody x))
  | 0x33 => some (formX33 h (FmtE.ofBody x))
  | 0x40 => some (.barv h (FmtE.ofBody x))
  | 0x41 => some (.barw h (FmtE.ofBody x))
  | 0x42 => some (.bart h (FmtE.ofBody x))
  | 0x43 => some (.barx h (FmtE.ofBody x))
  | 0x44 => some (.cbar h (FmtE.ofBody x))
  | 0x45 => some (.tlwait h (FmtE.ofBody x))
  | 0x46 => some (.tlsig h (FmtE.ofBody x))
  | 0x47 => some (.tlrd h (FmtE.ofBody x))
  | 0x50 => some (.rast h (FmtE.ofBody x))
  | 0x51 => some (.rayq h (FmtE.ofBody x))
  | 0x52 => some (.rtile h (FmtE.ofBody x))
  | _ => none
/-- The instruction of a class, an opcode and a body; none where the opcode map lists nothing. -/
def parse (cls : BitVec 3) (h : Hdr) (op : BitVec 8) (x : BitVec 47) : Option Instr :=
  if cls = 0 then parseU h op x else if cls = 1 then parseV h op x else if cls = 2 then parseM h op x
  else if cls = 3 then parseX h op x else none

/-! ## Syllables -/

/-- The header of a syllable, R123. -/
def sylHdr (w : DWord) : Hdr := ⟨w.getLsbD 63, w.getLsbD 51, w.extractLsb' 47 4⟩
/-- The class of a syllable. -/
def sylCls (w : DWord) : BitVec 3 := w.extractLsb' 60 3
/-- The opcode of a syllable. -/
def sylOp (w : DWord) : BitVec 8 := w.extractLsb' 52 8
/-- The syllable at a word, its format fields unchecked. -/
def parseWord (w : DWord) : Option Instr := parse (sylCls w) (sylHdr w) (sylOp w) (w.extractLsb' 0 47)

/-- Why a syllable or a bundle does not decode: the causes of R122. -/
inductive DecodeName where
  | fetchFault
  | illegalOpcode
  | illegalBundle
  | reservedField
  | badSpace
  | privileged
  | badOperand
  deriving DecidableEq, Repr

/-- The cause code (R386). -/
def DecodeName.code : DecodeName → Nat
  | .fetchFault => 0x08
  | .illegalOpcode => 0x01
  | .illegalBundle => 0x02
  | .reservedField => 0x03
  | .badSpace => 0x0A
  | .privileged => 0x04
  | .badOperand => 0x05

/-- A decode fault: its name, FAULTMASK bits 4:0 and the DVAL of R386. -/
structure DecodeErr where
  name : DecodeName
  mask : BitVec 5
  dval : Nat
  deriving DecidableEq, Repr

/-- One syllable alone, checks 2, 4, 5 and 7 of R122 for the largest budget. -/
def decodeWord (w : DWord) : Except DecodeName Instr :=
  match parseWord w with
  | none => .error .illegalOpcode
  | some i =>
    match i.view with
    | none => .error .illegalOpcode
    | some v =>
      if !v.spaceOk then .error .badSpace
      else if !v.legal then .error .reservedField
      else if (v.badOperand ⟨128, 384, 0⟩).isSome then .error .badOperand
      else .ok i

/-- A 64-bit word from eight bytes, the lowest address first (R3). -/
def wordOfBytes (bs : List Byte) : DWord :=
  bs.foldr (fun b acc => acc <<< 8 ||| b.setWidth 64) 0

/-- The eight bytes of a word, the lowest address first (R3). -/
def bytesOfWord (w : DWord) : List Byte := (List.range 8).map fun i => w.extractLsb' (8 * i) 8

/-- One syllable from its eight bytes. -/
def decodeBytes (bs : List Byte) : Except DecodeName Instr := decodeWord (wordOfBytes bs)

/-! ## Bundles -/

/-- The slot number of a syllable of class cls that follows v V syllables: U 0, V0 1, V1 2, M 3, X 4 (R119, R383). -/
def slotOf (cls : BitVec 3) (v : Nat) : Nat :=
  match cls.toNat with
  | 0 => 0
  | 1 => if v = 0 then 1 else 2
  | 2 => 3
  | _ => 4

/-- The slots of the syllables of a bundle, in order. -/
def slots : Nat → List DWord → List Nat
  | _, [] => []
  | v, w :: ws => slotOf (sylCls w) v :: slots (if sylCls w = 1 then v + 1 else v) ws

/-- The bundle's shape, R119 and R120. -/
def shapeOk (ws : List DWord) : Bool :=
  let cl := ws.map fun w => (sylCls w).toNat
  let cnt (p : DWord → Bool) := (ws.filter p).length
  let v (lo hi : Nat) := cnt fun w => sylCls w = 1 && decide (lo ≤ (sylOp w).toNat ∧ (sylOp w).toNat ≤ hi)
  (ws.getLast?.map fun w => w.getLsbD 63) = some true &&
  decide (cl.Pairwise (· ≤ ·)) &&
  decide (cnt (fun w => sylCls w = 0) ≤ 1 ∧ cnt (fun w => sylCls w = 1) ≤ 2 ∧ cnt (fun w => sylCls w = 2) ≤ 1 ∧
    cnt (fun w => sylCls w = 3) ≤ 1 ∧ v 0x60 0x67 ≤ 1 ∧ v 0x70 0x78 ≤ 1)

/-- The mask of a list of slots. -/
def slotMask (l : List Nat) : BitVec 5 := l.foldl (fun m k => m ||| (1 : BitVec 5) <<< k) 0

/-- Destination conflicts (R133): the specifier of the first later slot that overlaps an earlier one, per slot. -/
def conflicts (g : Budget) (rb : Nat) : List Nat → List (Nat × View) → List (Nat × Nat)
  | _, [] => []
  | seen, (k, v) :: vs =>
    let d := v.dests g rb
    let rest := conflicts g rb (seen ++ d) vs
    if d.any fun n => seen.contains n then
      (k, ((v.operands.filter Opd.write).head?.map fun o => o.spec.toNat).getD
        (((v.predWritten).map BitVec.toNat).getD (((v.condWritten).map BitVec.toNat).getD 0))) :: rest
    else rest

/-- What DVAL shows of a privilege fault (R386). -/
def privDval (v : View) : Nat :=
  match v.fields with
  | .y o => if v.op = 0x60 ∨ v.op = 0x61 then o.sr.toNat else v.op.toNat
  | _ => v.op.toNat

/-- What DVAL shows of a space fault (R386). -/
def spaceDval (v : View) : Nat :=
  match v.fields with
  | .m o => o.sp.toNat
  | .t o => o.sp.toNat
  | _ => 0

/-- The checks of R122 from the second on (log entry 51), over the syllables fetched (one to four, ending at the first end bit or at the
fourth); priv: the wave is privileged. -/
def decodeBundle (priv : Bool) (g : Budget) (rb : Nat) (ws : List DWord) : Except DecodeErr (List Instr) :=
  let sl := slots 0 ws
  let cw (w : DWord) := (sylCls w).toNat * 256 + (sylOp w).toNat
  match ws.find? fun w => decide (4 ≤ (sylCls w).toNat) with
  | some w => .error ⟨.illegalOpcode, 0, cw w⟩
  | none =>
  if !shapeOk ws then .error ⟨.illegalBundle, 0, ws.length⟩ else
  let bad := (sl.zip ws).filter fun e => (parseWord e.2).isNone
  match bad with
  | e :: _ => .error ⟨.illegalOpcode, slotMask (bad.map Prod.fst), cw e.2⟩
  | [] =>
  let is := ws.filterMap parseWord
  let vs := sl.zip (is.filterMap Instr.view)
  let bad5 := vs.filter fun e => !(e.2.legal && e.2.spaceOk)
  match bad5 with
  | e :: _ =>
    .error ⟨if e.2.spaceOk then .reservedField else .badSpace, slotMask (bad5.map Prod.fst), if e.2.spaceOk then 0 else spaceDval e.2⟩
  | [] =>
  let bad6 := vs.filter fun e => e.2.privileged && !priv
  match bad6 with
  | e :: _ => .error ⟨.privileged, slotMask (bad6.map Prod.fst), privDval e.2⟩
  | [] =>
  let opd := vs.filterMap fun e => (e.2.badOperand g).map fun n => (e.1, n)
  let con := conflicts g rb [] vs
  let bad7 := vs.filterMap fun e =>
    match opd.find? (fun x => x.1 = e.1), con.find? (fun x => x.1 = e.1) with
    | some x, _ => some x
    | none, some x => some x
    | none, none => none
  match bad7 with
  | e :: _ => .error ⟨.badOperand, slotMask (bad7.map Prod.fst), e.2⟩
  | [] => .ok is

/-! ## The encoder -/

/-- Format A to bits 46:0. -/
def FmtA.toBody (o : FmtA) : BitVec 47 := o.d ++ o.s1 ++ o.s2 ++ o.s3 ++ o.m1 ++ o.m2 ++ o.m3 ++ o.ew
/-- Format B to bits 46:0. -/
def FmtB.toBody (o : FmtB) : BitVec 47 := o.d ++ o.s1 ++ o.m1 ++ o.ew ++ o.imm
/-- Format C to bits 46:0. -/
def FmtC.toBody (o : FmtC) : BitVec 47 := o.d ++ o.f ++ o.imm
/-- Format M to bits 46:0. -/
def FmtM.toBody (o : FmtM) : BitVec 47 := o.d ++ o.b ++ o.off ++ o.sp ++ o.sc ++ o.ord ++ o.ch ++ o.z
/-- An atomic to bits 46:0. -/
def FmtT.toBody (o : FmtT) : BitVec 47 := o.d ++ o.b ++ o.a ++ o.aoff ++ o.sp ++ o.sc ++ o.ord ++ o.aw ++ o.z
/-- Format J to bits 46:0. -/
def FmtJ.toBody (o : FmtJ) : BitVec 47 := o.off ++ o.l ++ o.k ++ o.f
/-- Format E to bits 46:0. -/
def FmtE.toBody (o : FmtE) : BitVec 47 := o.t1 ++ o.t2 ++ o.t3 ++ o.fs ++ o.s1 ++ o.s2 ++ o.f
/-- Format Y to bits 46:0. -/
def FmtY.toBody (o : FmtY) : BitVec 47 := o.d ++ o.sr ++ o.s1 ++ o.f

/-- The body of a syllable's fields. -/
def Fields.body : Fields → BitVec 47
  | .a o => o.toBody
  | .b o => o.toBody
  | .c o => o.toBody
  | .m o => o.toBody
  | .t o => o.toBody
  | .j o => o.toBody
  | .e o => o.toBody
  | .y o => o.toBody

/-- The word of a view, R123. -/
def View.word (v : View) : DWord :=
  BitVec.ofBool v.h.e ++ v.cls ++ v.op ++ BitVec.ofBool v.h.pn ++ v.h.pi ++ v.fields.body

/-- The instruction of a view. -/
def View.parse (v : View) : Option Instr := Sys2Proof.parse v.cls v.h v.op v.fields.body

/-- The word of a syllable; none for an event. -/
def encode (i : Instr) : Option DWord := i.view.map View.word

/-- The words of a well-formed instruction, as bytes. -/
def encodeBytes (i : Instr) : Option (List Byte) := (encode i).map bytesOfWord

/-- The instruction the decoder reads from a syllable whose bits are w. -/
def decodeTableWord (nbits w : Nat) : Option Instr :=
  if nbits ≤ 64 then
    match decodeBytes (bytesOfWord (BitVec.ofNat 64 w)) with
    | .ok i => some i
    | .error _ => none
  else none

end Sys2Proof
end

