-- ==== Sys2Proof/Machine/Bits.lean ====
section
/-! DEFINITION. The helpers of R9 on integers, packed elements (R3, R24) and operand modifiers (R134). Operands are turned into
exact integers, computed on, and narrowed at the end (R8). -/

namespace Sys2Proof.Machine

/-- sext(x, n): the low n bits of x as a two's-complement number (R9). -/
def sext (n x : Nat) : Int :=
  let y := x % 2 ^ n
  if 2 ^ n ≤ 2 * y then (y : Int) - 2 ^ n else y

/-- trunc(x, n): x modulo 2^n (R9). -/
def trunc (n : Nat) (x : Int) : Nat := (x % (2 ^ n : Nat)).toNat

/-- sat(x, lo, hi), R9. -/
def sat (x lo hi : Int) : Int := if x < lo then lo else if hi < x then hi else x

/-- A pattern as a register. -/
def toWord (x : Nat) : Word := BitVec.ofNat 32 x

/-- elem(x, i, w), R184. -/
def elem (w : Nat) (x : Word) (i : Nat) : Nat := x.toNat / 2 ^ (i * w) % 2 ^ w

/-- The elements of a register, element 0 first. -/
def elems (w : Nat) (x : Word) : List Nat := (List.range (32 / w)).map (elem w x)

/-- A number from w-bit elements, element 0 lowest (R3). -/
def packNat (w : Nat) : List Nat → Nat
  | [] => 0
  | x :: xs => x % 2 ^ w + 2 ^ w * packNat w xs

/-- A register from w-bit elements (R3). -/
def pack (w : Nat) (l : List Nat) : Word := toWord (packNat w l)

/-- The element width that EW selects (R24). -/
def ewWidth (ew : BitVec 2) : Nat := 32 / 2 ^ ew.toNat

/-- The element width of a float form (R135). -/
def formWidth (ew : BitVec 2) : Nat := if ew = 0 then 32 else 16

/-- Negation of one element: a sign flip for floating point (R27), trunc(-x, w) for an integer (R134). -/
def negElem (fp : Bool) (w x : Nat) : Nat :=
  if fp then (if 2 ^ (w - 1) ≤ x then x - 2 ^ (w - 1) else x + 2 ^ (w - 1)) else trunc w (-(x : Int))

/-- A modifier on a list of elements; neg is the element negation. -/
def modList (neg : Nat → Nat) (m : BitVec 3) (l : List Nat) : List Nat :=
  let at' (i : Nat) := l.getD i 0
  match m.toNat with
  | 0 => l
  | 1 => (List.range l.length).map fun i => at' (if i % 2 = 0 then i + 1 else i - 1)
  | 2 => l.map fun _ => at' 0
  | 3 => l.map fun _ => at' 1
  | 4 => l.map fun _ => at' 2
  | 5 => l.map fun _ => at' 3
  | 6 => l.reverse
  | _ => l.map neg

/-- A modifier on a register of w-bit elements, R134. -/
def modify (fp : Bool) (w : Nat) (m : BitVec 3) (x : Word) : Word := pack w (modList (negElem fp w) m (elems w x))

/-- A modifier on a 64-bit operand: identity or negation, R134. -/
def modify64 (m : BitVec 3) (x : DWord) : DWord := if m = 7 then -x else x

/-- An element-wise operation of one operand. -/
def map1 (w : Nat) (f : Nat → Nat) (a : Word) : Word := pack w ((elems w a).map f)

/-- An element-wise operation of two operands, R184. -/
def map2 (w : Nat) (f : Nat → Nat → Nat) (a b : Word) : Word := pack w (List.zipWith f (elems w a) (elems w b))

/-- An element-wise operation of three operands. -/
def map3 (w : Nat) (f : Nat → Nat → Nat → Nat) (a b c : Word) : Word :=
  pack w (List.zipWith (fun g z => g z) (List.zipWith f (elems w a) (elems w b)) (elems w c))

/-- The number of 1 bits of a pattern of n bits. -/
def popcount (n x : Nat) : Nat := ((List.range n).filter fun i => x.testBit i).length

/-- The number of 0 bits above the highest 1 bit of an n-bit pattern, n for 0 (R193). -/
def clz (n x : Nat) : Nat := if x = 0 then n else n - 1 - Nat.log2 x

/-- The lanes of a mask, ascending. -/
def lanesOf (m : Lanes) : List Nat := (List.range 128).filter fun l => m.getLsbD l

/-- The mask of one lane. -/
def laneBit (l : Nat) : Lanes := (1 : Lanes) <<< l

/-- The lanes of a mask where f holds. -/
def lanesWhere (m : Lanes) (f : Nat → Bool) : Lanes := ((lanesOf m).filter f).foldl (fun acc l => acc ||| laneBit l) 0

/-- The mask of the lanes below n. -/
def lanesBelow (n : Nat) : Lanes := BitVec.ofNat 128 (2 ^ n - 1)

/-- Little-endian bytes of a number (R3). -/
def leBytes (n x : Nat) : List Byte := (List.range n).map fun i => BitVec.ofNat 8 (x / 2 ^ (8 * i))

/-- The number of little-endian bytes (R3). -/
def ofLe (bs : List Byte) : Nat := bs.foldr (fun b acc => b.toNat + 256 * acc) 0

/-- Bytes lo to lo + n - 1 of a record as a number (R45). -/
def field (bs : List Byte) (lo n : Nat) : Nat := ofLe ((bs.drop lo).take n)

/-- A number put into an ascending list, unless it stands there. -/
def insertAsc (n : Nat) : List Nat → List Nat
  | [] => [n]
  | m :: r => if n < m then n :: m :: r else if n = m then m :: r else m :: insertAsc n r

/-- The numbers of a list, ascending, each once. -/
def ascending (l : List Nat) : List Nat := l.foldl (fun acc n => insertAsc n acc) []

/-- Two registers as a 64-bit value, the even one lowest (R24). -/
def pair (lo hi : Word) : DWord := hi ++ lo
/-- The even register of a 64-bit value. -/
def loWord (x : DWord) : Word := x.extractLsb' 0 32
/-- The odd register of a 64-bit value. -/
def hiWord (x : DWord) : Word := x.extractLsb' 32 32

end Sys2Proof.Machine
end

