-- ==== Sys2Proof/Machine/Float.lean ====
section
/-! DEFINITION. The floating-point formats (R26, R27), exact values, and their one rounding to a format (R28 to R30). -/

namespace Sys2Proof.Machine

/-- A floating-point format: exponent and mantissa bits, bias, largest finite magnitude pattern, whether it has infinities
written at the all-ones exponent, whether an overflow saturates, and its canonical NaN (none where it has no NaN). -/
structure Fmt where
  eb : Nat
  mb : Nat
  bias : Nat
  maxPat : Nat
  hasInf : Bool
  saturates : Bool
  nan : Option Nat
  deriving DecidableEq, Repr

/-- FP32. -/
def fp32 : Fmt := ⟨8, 23, 127, 0x7F7FFFFF, true, false, some 0x7FC00000⟩
/-- FP16. -/
def fp16 : Fmt := ⟨5, 10, 15, 0x7BFF, true, false, some 0x7E00⟩
/-- BF16. -/
def bf16 : Fmt := ⟨8, 7, 127, 0x7F7F, true, false, some 0x7FC0⟩
/-- FP8 E5M2: overflow saturates to 57,344, infinities stay (R29). -/
def e5m2 : Fmt := ⟨5, 2, 15, 0x7B, true, true, some 0x7E⟩
/-- FP8 E4M3. -/
def e4m3 : Fmt := ⟨4, 3, 7, 0x7E, false, true, some 0x7F⟩
/-- FP6 E3M2. -/
def e3m2 : Fmt := ⟨3, 2, 3, 0x1F, false, true, none⟩
/-- FP6 E2M3. -/
def e2m3 : Fmt := ⟨2, 3, 1, 0x1F, false, true, none⟩
/-- FP4 E2M1. -/
def e2m1 : Fmt := ⟨2, 1, 1, 0x7, false, true, none⟩

/-- Bits of a format. -/
def Fmt.bits (f : Fmt) : Nat := 1 + f.eb + f.mb

/-- The float form of EW (R135). -/
def formFmt (ew : BitVec 2) : Fmt := if ew = 0 then fp32 else if ew = 1 then fp16 else bf16

/-- The format of a conversion code (R211). -/
def convFmt (code : Nat) : Fmt :=
  match code with
  | 0 => fp32
  | 1 => fp16
  | 2 => bf16
  | 3 => e4m3
  | 4 => e5m2
  | 5 => e3m2
  | 6 => e2m3
  | _ => e2m1

/-- Bits of the container of a conversion code (R211). -/
def convWidth (code : Nat) : Nat := if code = 0 then 32 else if code ≤ 2 then 16 else if code ≤ 6 then 8 else 4

/-- An exact value: NaN, an infinity, or a signed quotient (the denominator is positive; zero keeps a sign). -/
inductive FVal where
  | nan
  | inf (neg : Bool)
  | fin (neg : Bool) (num den : Nat)
  deriving DecidableEq, Repr

/-- num × 2^e as a quotient. -/
def scaled (num : Nat) (e : Int) : Nat × Nat := if 0 ≤ e then (num * 2 ^ e.toNat, 1) else (num, 2 ^ (-e).toNat)

/-- The value of a pattern, R26. -/
def Fmt.value (f : Fmt) (x : Nat) : FVal :=
  let neg := x / 2 ^ (f.eb + f.mb) % 2 = 1
  let e := x / 2 ^ f.mb % 2 ^ f.eb
  let m := x % 2 ^ f.mb
  if f.hasInf ∧ e = 2 ^ f.eb - 1 then (if m = 0 then .inf neg else .nan)
  else if f.nan.isSome ∧ e * 2 ^ f.mb + m > f.maxPat then .nan
  else
    let v := if e = 0 then scaled m (1 - (f.bias : Int) - f.mb) else scaled (2 ^ f.mb + m) ((e : Int) - f.bias - f.mb)
    .fin neg v.1 v.2

/-- A rounding mode, R28. -/
inductive Mode where
  | rne
  | rtz
  | rdn
  | rup
  /-- Stochastic, with the 16 random bits drawn (R30). -/
  | rs (u : Nat)
  deriving DecidableEq, Repr

/-- floor(log2 (num/den)) of a positive quotient. -/
def floorLog2 (num den : Nat) : Int :=
  let k : Int := (Nat.log2 num : Int) - Nat.log2 den
  let s := scaled den k
  if s.1 ≤ num * s.2 then k else k - 1

/-- Round the quotient a/b of non-negative numbers to an integer, for a value of the given sign (R28, R30). -/
def roundQuot (mode : Mode) (neg : Bool) (a b : Nat) : Nat :=
  let t := a / b
  let r := a % b
  let up := match mode with
    | .rne => decide (b < 2 * r ∨ (2 * r = b ∧ t % 2 = 1))
    | .rtz => false
    | .rdn => neg && decide (r ≠ 0)
    | .rup => !neg && decide (r ≠ 0)
    | .rs u => decide (2 ^ 16 ≤ r * 2 ^ 16 / b + u)
  if up then t + 1 else t

/-- The sign bit of a format. -/
def Fmt.signed (f : Fmt) (neg : Bool) (mag : Nat) : Nat := if neg then mag + 2 ^ (f.eb + f.mb) else mag

/-- The pattern of the infinity, or of what stands for it (R29). -/
def Fmt.infPat (f : Fmt) : Nat := if f.hasInf then (2 ^ f.eb - 1) * 2 ^ f.mb else f.maxPat

/-- The magnitude pattern of the rounded quotient before the range rule: exponents count in steps of 2^m patterns (R29). -/
def Fmt.magPat (f : Fmt) (mode : Mode) (neg : Bool) (num den : Nat) : Nat :=
  if num = 0 then 0
  else
    let emin : Int := 1 - (f.bias : Int)
    let e := max (floorLog2 num den) emin
    let q := scaled 1 (e - f.mb)
    let t := roundQuot mode neg (num * q.2) (den * q.1)
    (e - emin).toNat * 2 ^ f.mb + t

/-- What overflow gives for the mode (R29). -/
def Fmt.overflow (f : Fmt) (mode : Mode) (neg : Bool) : Nat :=
  if f.saturates then f.maxPat
  else match mode with
    | .rne => f.infPat
    | .rs _ => f.infPat
    | .rtz => f.maxPat
    | .rdn => if neg then f.infPat else f.maxPat
    | .rup => if neg then f.maxPat else f.infPat

/-- The quotient exceeds the largest finite value. -/
def Fmt.beyond (f : Fmt) (num den : Nat) : Bool :=
  match f.value f.maxPat with
  | .fin _ n d => decide (n * den < num * d)
  | _ => false

/-- rnd(x, F, mode), R29; in stochastic mode a value beyond the largest finite one takes the nearest-even result (R30). -/
def Fmt.round (f : Fmt) (mode : Mode) : FVal → Nat
  | .nan => f.nan.getD 0
  | .inf neg => f.signed neg f.infPat
  | .fin neg num den =>
    let mode' := match mode with
      | .rs u => if f.beyond num den then .rne else .rs u
      | m => m
    let p := f.magPat mode' neg num den
    f.signed neg (if f.maxPat < p then f.overflow mode' neg else p)

/-- Round to an integer by the mode; the quantum is 1 (R213). -/
def roundInt (mode : Mode) (neg : Bool) (num den : Nat) : Int :=
  let t := roundQuot mode neg num den
  if neg then -(t : Int) else t

/-- The mode of a mode code, with u for stochastic rounding; during dawn service code 4 acts as 0 (R32, R203). -/
def modeOf (dawn : Bool) (code u : Nat) : Mode :=
  match code with
  | 0 => .rne
  | 1 => .rtz
  | 2 => .rdn
  | 3 => .rup
  | _ => if dawn then .rne else .rs u

/-- One step of the rounding generator, R30. -/
def rngStep (s : Word) : Word :=
  let h := s >>> 1
  if s.getLsbD 0 then h ^^^ 0x80200003 else h

/-- The 16 random bits of a generator state, R30. -/
def rngBits (s : Word) : Nat := s.toNat / 2 ^ 16

/-- A generator state is never zero (R31). -/
def rngInit (s : Word) : Word := if s = 0 then 1 else s

/-! ## Exact arithmetic (IEEE 754-2019, R202) -/

/-- The sign of a value. -/
def FVal.neg? : FVal → Bool
  | .nan => false
  | .inf n => n
  | .fin n _ _ => n

/-- The negated value. -/
def FVal.negate : FVal → FVal
  | .nan => .nan
  | .inf n => .inf (!n)
  | .fin n a b => .fin (!n) a b

/-- A signed quotient from a signed numerator; a zero takes the sign zneg. -/
def ofSigned (n : Int) (den : Nat) (zneg : Bool) : FVal := if n = 0 then .fin zneg 0 1 else .fin (decide (n < 0)) n.natAbs den

/-- The signed numerator. -/
def signedNum (neg : Bool) (n : Nat) : Int := if neg then -(n : Int) else n

/-- a + b; an exact zero sum is -0 only toward minus infinity, or as the sum of two -0 (R29, R205). -/
def FVal.add (mode : Mode) : FVal → FVal → FVal
  | .nan, _ => .nan
  | _, .nan => .nan
  | .inf a, .inf b => if a = b then .inf a else .nan
  | .inf a, _ => .inf a
  | _, .inf b => .inf b
  | .fin na a da, .fin nb b db =>
    if a = 0 ∧ b = 0 ∧ na = nb then .fin na 0 1
    else ofSigned (signedNum na a * db + signedNum nb b * da) (da * db) (mode = .rdn)

/-- a × b. -/
def FVal.mul : FVal → FVal → FVal
  | .nan, _ => .nan
  | _, .nan => .nan
  | .inf a, .inf b => .inf (a != b)
  | .inf a, .fin nb b _ => if b = 0 then .nan else .inf (a != nb)
  | .fin na a _, .inf b => if a = 0 then .nan else .inf (na != b)
  | .fin na a da, .fin nb b db => .fin (na != nb) (a * b) (da * db)

/-- 1 / a. -/
def FVal.recip : FVal → FVal
  | .nan => .nan
  | .inf n => .fin n 0 1
  | .fin n a d => if a = 0 then .inf n else .fin n d a

/-- a × 2^e. -/
def FVal.scale (e : Int) : FVal → FVal
  | .fin n a d => let s := scaled 1 e; .fin n (a * s.1) (d * s.2)
  | v => v

/-- The relation of two values: none where either is NaN, else the sign of a - b; both zeros are equal (R208). -/
def FVal.cmp : FVal → FVal → Option Int
  | .nan, _ => none
  | _, .nan => none
  | .inf a, .inf b => some (if a = b then 0 else if a then -1 else 1)
  | .inf a, _ => some (if a then -1 else 1)
  | _, .inf b => some (if b then 1 else -1)
  | .fin na a da, .fin nb b db => some (Int.sign (signedNum na a * db - signedNum nb b * da))

/-- Is it NaN? -/
def FVal.isNan : FVal → Bool
  | .nan => true
  | _ => false

/-- minimumNumber or maximumNumber on patterns, the chosen bits copied; -0 below +0 (R207). -/
def Fmt.minMax (f : Fmt) (max : Bool) (x y : Nat) : Nat :=
  match (f.value x).isNan, (f.value y).isNan with
  | true, true => f.nan.getD 0
  | true, false => y
  | false, true => x
  | false, false =>
    let less := match (f.value x).cmp (f.value y) with
      | some c => if c = 0 then (f.value x).neg? && !(f.value y).neg? else decide (c < 0)
      | none => false
    if less = max then y else x

/-- A floating-point relation by its code 16 to 29 (R126). -/
def fcmpHolds (cc : Nat) (x y : FVal) : Bool :=
  let rel (k : Nat) (c : Int) := match k with
    | 0 => decide (c = 0)
    | 1 => decide (c ≠ 0)
    | 2 => decide (c < 0)
    | 3 => decide (c ≤ 0)
    | 4 => decide (c > 0)
    | _ => decide (c ≥ 0)
  match x.cmp y with
  | some c => if cc = 22 then true else if cc = 23 then false else if cc < 22 then rel (cc - 16) c else rel (cc - 24) c
  | none => decide (23 ≤ cc)

/-- FCLASS of one element: exactly one bit set (R209). -/
def Fmt.classify (f : Fmt) (x : Nat) : Nat :=
  match f.value x with
  | .nan => 2 ^ 8
  | .inf n => if n then 2 ^ 0 else 2 ^ 7
  | .fin n a _ =>
    if a = 0 then (if n then 2 ^ 3 else 2 ^ 4)
    else if x / 2 ^ f.mb % 2 ^ f.eb = 0 then (if n then 2 ^ 2 else 2 ^ 5)
    else if n then 2 ^ 1 else 2 ^ 6

/-- sortable16 of R44; the format decides what a NaN is. -/
def sortable16 (f : Fmt) (x : Nat) : Nat :=
  if (f.value x).isNan then 0xFFFF else if x < 2 ^ 15 then x + 2 ^ 15 else 0xFFFF - x

/-- FADD on FP32 patterns, rounded to nearest even: the sum of AFADD and REDC (R260, R278). -/
def addF32 (a b : Nat) : Nat := fp32.round .rne ((fp32.value a).add .rne (fp32.value b))

end Sys2Proof.Machine
end

