-- ==== Sys2Proof/Config.lean ====
section
/-! DEFINITION. What an implementation fixes, and the free values: constants without a body that stand for a value the manual
leaves open (R6). Each is applied to the model's step counter, or to the operands it depends on, so that no proof can see it. -/

namespace Sys2Proof

/-- Picoseconds that pass with step n (R85; log entry 3). -/
opaque Config.elapsed : Nat → Nat

/-- The unspecified byte that address a reads as at step n (R6; log entry 6). -/
opaque Config.freeByte : Nat → Nat → Byte

/-- The unspecified 32-bit register value number k of step n (R6, R54, R262, R387; log entry 6). -/
opaque Config.freeWord : Nat → Nat → Word

/-- An unspecified bit number k of step n (R54; log entry 6). -/
opaque Config.freeBit : Nat → Nat → Bool

/-- The correctly rounded value of a special function where the interval arithmetic of the model does not decide it: function
number, operand bits, destination form (R218; log entry 9). -/
opaque Config.special : Nat → Word → Nat → Nat

/-- The successor of a core's 16-bit steal generator, whose polynomial the manual does not give (R110; log entry 21). -/
opaque Config.stealStep : BitVec 16 → BitVec 16

/-- Byte k of an attestation report, for the SM3 digests of the ROM and of the fuse block and for the serial number, which no step
changes (R423; log entry 23). -/
opaque Config.attestByte : Nat → Byte

/-- Byte k of the SM3 digest of the firmware image in flash; none is the image the device was made with (R423, R424; log entry 23). -/
opaque Config.flashDigest : Option (List Byte) → Nat → Byte

/-- Byte k of an SM2 signature over bytes, made at step n (R423; log entry 23). -/
opaque Config.signature : List Byte → Nat → Nat → Byte

/-- Whether the SM2 signature of a firmware image checks (R424; log entry 23). -/
opaque Config.imageVerifies : List Byte → Bool

/-- What the shelf's n-th poll finds: it succeeded, READ_VIN, READ_FREQUENCY; and the module power in W (R404, R408; log entry 70). -/
opaque Config.shelfOk : Nat → Bool
@[inherit_doc Config.shelfOk] opaque Config.shelfVin : Nat → BitVec 16
@[inherit_doc Config.shelfOk] opaque Config.shelfFreq : Nat → BitVec 16
@[inherit_doc Config.shelfOk] opaque Config.shelfPower : Nat → Nat

/-- (I_top - I_bot) / I_rated of a die in units of 0.5 %, rounded toward zero, at its n-th sample (R102; log entry 20). -/
opaque Config.imbalance : Nat → Nat → Int

/-- The set of its home slice that line h lies in; the manual gives the ways and not the index (R242, R243; log entry 25). -/
opaque Config.homeSet : Nat → Nat

/-- The neighbour, of four, through which module m of the peer map is reached; the Daylight runtime keeps the map (R15, R269;
log entry 56). -/
opaque Config.peerRoute : Nat → Nat

/-- What peer module m answers at step n to a write at an address of the paired context: 0 accepted, else a failed check of its own
translation, by number (R269, R271; log entry 59). -/
opaque Config.peerCheck : Nat → Nat → Nat → Nat

/-- Bytes of each die's table region; the manual says that the regions are equal and not how large (R232; log entry 25). -/
opaque Config.tableRegion : Nat

end Sys2Proof
end

