-- ==== Sys2Proof/Machine/Table.lean ====
section
/-! DEFINITION. Sparse tables: the one data structure of the state. Keys rise strictly; with a default value d, no entry holds d,
so that equal contents are equal lists. -/

namespace Sys2Proof

/-- The value at key k, if the table lists one. -/
def Table.find? {α : Type} : Table α → Nat → Option α
  | [], _ => none
  | (j, v) :: t, k => if k = j then some v else Table.find? t k

/-- The table with key k listed with value v. -/
def Table.put {α : Type} : Table α → Nat → α → Table α
  | [], k, v => [(k, v)]
  | (j, w) :: t, k, v => if k = j then (k, v) :: t else if k < j then (k, v) :: (j, w) :: t else (j, w) :: Table.put t k v

/-- The table with key k not listed. -/
def Table.erase {α : Type} (t : Table α) (k : Nat) : Table α := List.filter (fun e => decide (e.1 ≠ k)) t

/-- The value at key k, d where none is listed. -/
def Table.get {α : Type} (d : α) (t : Table α) (k : Nat) : α := (t.find? k).getD d

/-- The table that holds v at key k and lists no default. -/
def Table.set {α : Type} [DecidableEq α] (d : α) (t : Table α) (k : Nat) (v : α) : Table α :=
  if v = d then Table.erase t k else Table.put t k v

/-- Every key is above lo and the keys rise strictly. -/
def Table.above {α : Type} (lo : Nat) : Table α → Bool
  | [] => true
  | (j, _) :: t => decide (lo < j) && Table.above j t

/-- The keys rise strictly. -/
def Table.sorted {α : Type} : Table α → Bool
  | [] => true
  | (j, _) :: t => Table.above j t

/-- No entry equals d. -/
def Table.lean {α : Type} [DecidableEq α] (d : α) (t : Table α) : Bool := t.all fun e => decide (e.2 ≠ d)

/-- The listed entries with keys from lo up to, but not including, hi are removed. -/
def Table.clear {α : Type} (lo hi : Nat) (t : Table α) : Table α := t.filter fun e => !(decide (lo ≤ e.1) && decide (e.1 < hi))

/-- Apply f to every listed value. -/
def Table.map {α : Type} (f : Nat → α → α) (t : Table α) : Table α := List.map (fun e => (e.1, f e.1 e.2)) t

/-- The listed values. -/
def Table.values {α : Type} (t : Table α) : List α := List.map Prod.snd t

/-- The keys. -/
def Table.keys {α : Type} (t : Table α) : List Nat := List.map Prod.fst t

end Sys2Proof
end

