-- ==== Sys2Proof/Machine/State.lean ====
section
/-! DEFINITION. The state of the module: every piece of state the manual gives it, as plain data, and its value right after reset.
Cores are numbered as COREID lays them out (die in bits 9:8, cluster in bit 7, core in bits 6:0, R142); clusters by core number
divided by 128; the host DMA engine is core 1024 (R77). -/

namespace Sys2Proof.Machine

/-- A program counter: 52 bits (R115), and the address 2^52 that follows the last bundle of the address space. See log entry 47. -/
abbrev PC := BitVec 53

/-! ## Waves -/

/-- One register word that a load, an atomic or an engine still has to write (R162). -/
inductive RegW where
  | s (r : Nat) (v : Word)
  | v (r lane : Nat) (w : Word)
  deriving DecidableEq, Repr

/-- The counter of R163 an operation counts in. -/
inductive Ctr where
  | ld
  | st
  | cp
  | tl
  deriving DecidableEq, Repr

/-- An operation counted in CNT: its syllable's number, its counter and the parts still to be performed (R163). -/
structure OpRec where
  sid : Nat
  ctr : Ctr
  left : Nat
  deriving DecidableEq, Repr

/-- What is wrong with an access after its commit (R265, R386, R387): the cause code, the physical and the virtual address, the lane, and
DINFO and DVAL where the cause has them. -/
structure BadData where
  cause : Nat
  pa : Nat
  va : DWord
  lane : Option Nat
  info : Nat
  val : Nat
  deriving DecidableEq, Repr

/-- What an outstanding load reads for one of its lanes: physical address, bytes, virtual address, lane. -/
structure LoadSrc where
  pa : Nat
  n : Nat
  va : DWord
  lane : Option Nat
  deriving DecidableEq, Repr

/-- An outstanding load: the register words it writes when it returns (R253), and where they come from. -/
structure OutLoad where
  sid : Nat
  writes : List RegW
  src : List LoadSrc
  bad : List BadData
  deriving DecidableEq, Repr

/-- The operation of an atomic, R260; the width is that of the location. -/
inductive AOp where
  | add
  | and
  | or
  | xor
  | min
  | max
  | minu
  | maxu
  | xchg
  | cas
  | fadd
  deriving DecidableEq, Repr

/-- What stands in a wave's store queue (R329), or on the fabric once it has left it. -/
inductive StoreKind where
  /-- Bytes for physical address pa; space 0 g, 1 l, 2 x; HOME of the page. -/
  | bytes (space home pa : Nat) (bs : List Byte)
  /-- One lane of an atomic of n bytes: operands, and the vector register that receives the old value. -/
  | atomic (space home pa n : Nat) (op : AOp) (a b : BitVec 128) (lane : Nat) (dst : Option Nat)
  /-- A TLSIG (R366). -/
  | signal (handle : Word) (inc : Bool) (v : DWord)
  /-- The release of an arrival at a named barrier (R354). -/
  | arrive (bar : Nat)
  /-- The release of a wave's arrival at a cohort barrier (R362). -/
  | cohort (coh : Nat)
  /-- The release of a TRIGGER (R370). -/
  | trigger
  deriving DecidableEq, Repr

/-- One store-queue entry. -/
structure StoreEntry where
  sid : Nat
  /-- The context of the wave as the syllable's bundle began (R121, R141). -/
  ctx : Nat
  /-- The virtual address of an access to global memory (R386). -/
  va : DWord
  scope : Nat
  /-- The entry is a release: it leaves only when every earlier access has been performed (R336). -/
  rel : Bool
  kind : StoreKind
  /-- Its place among the entries of its syllable, which stand in lane order. -/
  place : Nat
  /-- The store of the primary of a merged pair that leaves before it: block, wave and syllable (R161). -/
  after : Option (Nat × Nat × Nat)
  /-- Granules that its syllable writes whole and that this entry is the last of it to touch (R387). -/
  clears : List Nat
  deriving DecidableEq, Repr

/-- A CWB that is not performed yet (R257): its syllable, its lines, its scope, and the stores of the core committed before it, by
block, wave and syllable. See log entry 28. -/
structure Cwb where
  sid : Nat
  lines : List Nat
  scope : Nat
  before : List (Nat × Nat × Nat)
  deriving DecidableEq, Repr

/-- A standing fence or acquire that holds later accesses (R338, R369): kind 1 rel, 2 acq, 3 full. -/
structure FenceOrd where
  kind : Nat
  scope : Nat
  deriving DecidableEq, Repr

/-- What a waiting wave waits for (R351): scope, and object and target. -/
inductive Wait where
  | barw (bar scope : Nat) (target : Word)
  | cbar (coh scope : Nat) (target : Word)
  | tlwait (scope : Nat) (handle : Word) (target : DWord)
  | gridwait
  deriving DecidableEq, Repr

/-! ## Engine commands -/

/-- What issued an engine command: a wave of a block, or a node of a replay (R77). -/
inductive Owner where
  | block (b w : Nat)
  | node (replay node : Nat)
  deriving DecidableEq, Repr

/-- An engine-queue entry (R140, R398). -/
structure EngCmd where
  instr : Instr
  owner : Owner
  /-- The context of the wave that issued it (R141). -/
  ctx : Nat
  launch : Nat
  sid : Nat
  leader : Nat
  /-- The issue set, for RAYQ. -/
  lanes : Lanes
  q1 : List Word
  q2 : List Word
  num : Nat
  o0 : Word
  o1 : Word
  inst : DWord
  fmt : Word
  tsh : List Word
  win : List Word
  /-- The plane words as its bundle read them (R121). -/
  planes : List Word
  /-- CYC of its commit (R310). -/
  cyc : Nat
  /-- Generator states of a stochastic TRND before its draws. -/
  seeds : List Word
  /-- A task packet, and the core or queue it goes to. -/
  packet : List Byte
  target : Nat
  /-- Traffic class (R291). -/
  tc : Nat
  /-- The physical pieces of each row of a TLD or TST, translated at issue (R306). -/
  rows : List (List (Nat × Nat))
  /-- Rows of a TLD whose bytes the block has stored to since its issue (R307). -/
  stale : List Nat
  deriving DecidableEq, Repr

/-- What one syllable of a bundle does at commit (R165). -/
inductive Eff where
  | setS (r : Nat) (v : Word)
  | setV (r lane : Nat) (v : Word)
  | setP (p : Nat) (m : Lanes)
  | setC (c : Nat) (b : Bool)
  | setPc (lanes : Lanes) (a : PC)
  | kill (lanes : Lanes)
  | setRng (lane : Nat) (v : Word)
  | setLoop (v : Word)
  | setRot (b : BitVec 6)
  | setSr (sr : Nat) (v : DWord)
  | load (writes : List RegW) (src : List LoadSrc) (bad : List BadData) (acq : Option Nat)
  | store (entries : List (StoreKind × DWord)) (scope : Nat) (rel : Bool) (ret : Bool) (acq : Bool)
  | cinv (lines : List Nat)
  | drop (line : Nat)
  | pref (lines : List Nat) (stream : Bool)
  | cwb (lines : List Nat) (scope : Nat)
  | qpop (q : Nat) (lanes : Lanes)
  | tscl (latch : Nat) (bytes : List Byte)
  | engine (c : EngCmd) (ctr : Option Ctr)
  | ttwg (n : Nat) (radix : Word)
  | trndDraw (rows : Nat) (cols : Nat) (steps : Nat)
  | barv (bar : Nat) (bytes : Word) (scope : Nat)
  | barArrive (bar scope : Nat)
  | barx (bar : Nat) (part : BitVec 16) (ebase : Word)
  | cbarArrive (coh scope : Nat)
  | wait (w : Wait) (next : Bool)
  | signal (scope : Nat) (handle : Word) (inc : Bool) (v : DWord)
  | acquire (scope : Nat)
  | fence (kind scope : Nat)
  | trigger
  | trap (cause : Nat) (addr det : DWord)
  /-- An MTS has set SAT of a plane whose TRAP is set (R40). -/
  | saturated (plane : Nat)
  | queueResv (queue : Nat)
  | dequeResv (core : Nat)
  | dequeue (queue : Nat) (offset : Nat)
  /-- A queue or deque named by the command is on a die that is out of service (R390, R427). -/
  | dieLost (die : Nat) (addr : DWord)
  /-- Data that a command has read at issue, and found in error (R265). -/
  | badRead (d : BadData)
  /-- A DEQ.nb has found a queue without an entry (R377). -/
  | missed (queue : Nat)
  | ringReset (ring : Nat)
  | rfx (action : Nat) (abandon : Bool) (image : Nat)
  | xinv (ctx : Option Nat)
  /-- Threads that pass the switch point of the switch that has taken place (R179). -/
  | passed (lanes : Lanes)
  deriving DecidableEq, Repr

/-- A failed check: 0 an issue check, 1 an execution check (R381), the slot, and the stop registers' values (R383, R384). -/
structure Raise where
  stage : Nat
  slot : Nat
  cause : Nat
  addr : DWord
  dinfo : BitVec 16
  lane : Option Nat
  dval : Word
  deriving DecidableEq, Repr

/-- The bundle that is being issued (R121, R165; log entry 7). -/
structure Issue where
  block : Nat
  wave : Nat
  lanes : Lanes
  here : PC
  len : Nat
  /-- The context of the wave (R141). -/
  ctx : Nat
  /-- Position of the next V syllable: 0 or 1. -/
  vslot : Nat
  effs : List Eff
  raised : List Raise
  held : Bool
  /-- Held because a deque or a named queue is full (R107, R375). -/
  full : Bool
  /-- The named queue that a held ENQ (true) or DEQ asks (R377). -/
  ask : Option (Nat × Bool)
  /-- Global addresses whose walks bind their pages when the bundle is no longer held (R164, R240). -/
  touch : List Nat
  /-- A sub-bundle: staged and not ended yet (R169). -/
  sub : Bool
  /-- CYC of the sub-bundle that held the M syllable, if an earlier one (R167). -/
  mcyc : Option Nat
  deriving DecidableEq, Repr

/-- A latch write that is due (R304). -/
structure LatchWrite where
  latch : Nat
  bytes : List Byte
  due : Nat
  wave : Nat
  sid : Nat
  deriving DecidableEq, Repr

/-- The matrix state of an owning block (R293). -/
structure Matrix where
  /-- Byte n of tile t at key 65536 t + n. -/
  tile : Table Byte
  /-- Row exponent i of tile t at key 128 t + i. -/
  rowExp : Table Byte
  tsh : Table Word
  /-- Cell (i, j) of plane p at key 16384 p + 128 i + j. -/
  cell : Table Int
  plane : Table Word
  split : Word
  win : Table Word
  /-- Entry n of latch e at key 128 e + n. -/
  latch : Table Byte
  /-- Transform descriptor, executed standing: N and the radix word. -/
  desc : Option (Nat × Word)
  /-- Transform descriptor, committed standing (R300). -/
  committed : Option (Nat × Word)
  pend : List LatchWrite
  /-- An asynchronous matrix fault stands: no later matrix command starts (R302). -/
  stopped : Bool
  deriving DecidableEq, Repr

/-- A bundle of which some sub-bundles have issued (R169): what its U and V syllables have staged, its M and X syllables, which act at the
commit (R170, R348), the matrix registers as the first sub-bundle captured them, the slots of the sub-bundles still to issue, and the
cycle of the last one that has. -/
structure Split where
  iu : Issue
  late : List Instr
  mtx : Option Matrix
  left : List (List Nat)
  at' : Nat
  deriving DecidableEq, Repr

/-- What a held bundle asks of a named queue, and since when (R377). -/
structure Ask where
  queue : Nat
  /-- An ENQ, not a DEQ. -/
  enq : Bool
  since : Nat
  deriving DecidableEq, Repr

/-- One wave (R155, R158, R163, R249, R351, R382 to R384, R397). See log entries 10 and 47. -/
structure Wave where
  living : Lanes
  pc : Table PC
  /-- CTXID as written by an MTS, none before the first: the wave then runs in its block's context (R141). -/
  ctxid : Option Word
  rng : Table Word
  /-- v r of lane l at key 128 r + l, physical registers. -/
  v : Table Word
  s : Table Word
  /-- Physical predicate k as a mask of lanes. -/
  p : Table Lanes
  c : BitVec 16
  loopc : Word
  rotb : BitVec 6
  cause : Word
  fmask : Word
  faddr : DWord
  fdet : DWord
  /-- The bundle at which the wave stopped, for the skip of R391. -/
  stopAt : PC
  wait : Option Wait
  triggered : Bool
  step : Bool
  esc : Nat
  /-- Held at issue or waiting since this time (R107, R375, R386). -/
  since : Option Nat
  /-- Held by a full deque or named queue since this time (R107, R375). -/
  full : Option Nat
  /-- What a held ENQ or DEQ asks of a named queue (R377). -/
  ask : Option Ask
  nextSid : Nat
  ops : List OpRec
  outs : List OutLoad
  storeq : List StoreEntry
  /-- What has gone wrong with lanes of a syllable that has not ended yet, by syllable (R381, R385). -/
  late : List (Nat × BadData)
  cwbs : List Cwb
  /-- A bundle between its sub-bundles (R169). -/
  split : Option Split
  fence : Option FenceOrd
  /-- Reply queue q of lane l at key 128 q + l, oldest entry first (R249). -/
  replies : Table (List (BitVec 128))
  /-- Reservations, at the same keys. -/
  resv : Table Nat
  deriving DecidableEq, Repr

/-! ## Copies -/

/-- A dense side of a copy (R65, R66), or a compressed one (R272). -/
structure Layout where
  base : DWord
  space : Nat
  esize : Nat
  compressed : Bool
  width : Nat
  height : Nat
  pitch : DWord
  op0 : DWord
  op1 : DWord
  boxw : Nat
  boxh : Nat
  deriving DecidableEq, Repr

/-- The records and operands of a copy that has passed its value checks. -/
structure Plan where
  src : Layout
  dst : Layout
  x : Nat
  y : Nat
  dx : Nat
  dy : Nat
  /-- Peer module of a REMOTE copy. -/
  remote : Option Nat
  /-- Destination members of a CPYM: block numbers. -/
  members : List Nat
  /-- Destination bytes of the whole command, for the barrier credit. -/
  total : Nat
  deriving DecidableEq, Repr

/-- The standing of a copy-table entry. -/
inductive CopyPhase where
  | running
  /-- A CPYT that waits for its instant, or for release-buffer space (R275). -/
  | gated
  /-- A BSND that waits for its ring (R282). -/
  | ringWait
  /-- A BSND accepted as slot number J. -/
  | accepted (slot : Nat)
  | suspended
  deriving DecidableEq, Repr

/-- A copy-table entry (R248, R267). -/
structure CopyEntry where
  cmd : EngCmd
  /-- None for a command whose value checks failed. -/
  plan : Option Plan
  phase : CopyPhase
  /-- The next fragment, the resume point. -/
  frag : Nat
  cause : Nat
  /-- The scoreboard spans: space, context, lowest and highest byte plus one. -/
  spans : List (Nat × Nat × Nat × Nat)
  /-- Spans of the source, for R342. -/
  sources : List (Nat × Nat × Nat × Nat)
  /-- Bytes read so far by a command that writes later: a timed, compressing or ring copy. -/
  buf : List Byte
  /-- Which elements of a compressed source are present, once its record has been read (R272). -/
  mask : Option (List Bool)
  /-- Physical ranges read, those that became unspecified as it started, and those written (R270). -/
  read : List (Nat × Nat)
  dest : List (Nat × Nat)
  wrote : List (Nat × Nat)
  /-- The command has started: its destination is unspecified to others (R270, R342). -/
  opened : Bool
  /-- Destination bytes that are source bytes too: they are not written (R270). -/
  shared : List (Nat × Nat)
  /-- Bytes written in a peer module. -/
  out : Nat
  /-- Release-buffer bytes held, and lateness in ns (R275). -/
  reserved : Nat
  late : Nat
  /-- The slot number a send holds. -/
  slot : Option Nat
  deriving DecidableEq, Repr

/-! ## Blocks -/

/-- A variant descriptor (R47) with its index and its kernel's address. -/
structure Variant where
  kernel : Nat
  index : Nat
  entry : Nat
  vregs : Nat
  waves : Nat
  sregs : Nat
  scratch : Nat
  weight : Nat
  flags : BitVec 3
  rotv : Nat
  deriving DecidableEq, Repr

/-- A named barrier (R352). -/
structure Barrier where
  phase : Word
  part : BitVec 16
  arrv : BitVec 16
  ebase : Word
  expb : Word
  cred : Word
  /-- Waves whose committed arrival still awaits its release (R354). -/
  pend : BitVec 16
  /-- The waves that have retired during this phase (R353, R360). -/
  retiredNow : BitVec 16
  deriving DecidableEq, Repr

/-- A copy context (R266). -/
structure CopyCtx where
  issued : Nat
  completed : Nat
  /-- Numbers above completed that have completed out of order. -/
  early : List Nat
  suspended : Bool
  deriving DecidableEq, Repr

/-- A standing switch request (R179, R412). -/
structure SwitchReq where
  target : Variant
  /-- The scratchpad range reserved for the target begins here (R412). -/
  base : Nat
  /-- The switch point fixed by the first thread held: its number and when (R179). -/
  fixed : Option (Nat × Nat)
  /-- Lanes held at the fixed SWPT, per wave. -/
  held : Table Lanes
  deriving DecidableEq, Repr

/-- One fault record before it is written (R385). -/
structure FaultRec where
  cause : Nat
  /-- ASYNC, ENGINE, PHYS, EVENT. -/
  flags : BitVec 4
  mask : BitVec 5
  ctx : Nat
  addr : DWord
  det : DWord
  time : Nat
  core : Word
  wave : Nat
  image : Nat
  num : Nat
  tag : Word
  replay : Word
  deriving DecidableEq, Repr

/-- Why a block stops (R379, R393): the image cause, the records that wait for the image, where a migration goes, and the place of a
park among the parks (R411). -/
structure Stop where
  icause : Nat
  records : List FaultRec
  migrateTo : Option Nat
  order : Nat
  deriving DecidableEq, Repr

/-- One resident block or task wave. -/
structure Block where
  var : Variant
  launch : Nat
  ctx : Nat
  priv : Bool
  task : Bool
  /-- Linear index b and coordinates (R31); 0 for a task wave. -/
  blin : Nat
  core : Nat
  /-- First byte of the scratchpad range. -/
  base : Nat
  waves : Table Wave
  barriers : Table Barrier
  kctx : Table CopyCtx
  mtx : Option Matrix
  switch : Option SwitchReq
  stop : Option Stop
  exited : Bool
  movedAt : Option Nat
  placedAt : Nat
  /-- Lower-numbered variants that have fitted in the core's free resources since (R412). -/
  grow : Table Nat
  /-- The tiles whose fragments a task wave runs (R287). -/
  frags : List (Nat × Nat × Nat)
  /-- Copies withdrawn for a stop, to be saved as not started (R393). -/
  withdrawn : List CopyEntry
  /-- By wave, the threads that a switch has moved and that have still to issue the SWPT of the new variant (R179). -/
  passing : Table Lanes
  deriving DecidableEq, Repr

/-! ## Cores -/

/-- A task packet in a deque with the launch its tag names (R106), and for a fragment the core, column and row of its tile (R286). -/
structure Packet where
  bytes : List Byte
  launch : Nat
  frag : Option (Nat × Nat × Nat)
  deriving DecidableEq, Repr

/-- A line of the core data cache (R244, R334). -/
structure DLine where
  pa : Nat
  bytes : List Byte
  since : Nat
  /-- The context that last wrote it. -/
  ctx : Nat
  /-- Poison of its two granules (R387). -/
  poison : BitVec 2
  deriving DecidableEq, Repr

/-- A line of the instruction cache, R117. -/
structure ILine where
  ctx : Nat
  pa : Nat
  bytes : List Byte
  /-- Poison of its two granules (R387). -/
  poison : BitVec 2
  deriving DecidableEq, Repr

/-- A TLB entry (R236): pages from va, size bytes, the leaf entry. -/
structure TlbEntry where
  ctx : Nat
  va : Nat
  size : Nat
  leaf : DWord
  deriving DecidableEq, Repr

/-- A request on the fabric (R332). -/
structure FabricEntry where
  block : Nat
  wave : Nat
  ctx : Nat
  lane : Nat
  e : StoreEntry
  deriving DecidableEq, Repr

/-- A stream ring (R280, R282). -/
structure Ring where
  ctx : Nat
  base : Nat
  valid : Bool
  slotsz : Nat
  slots : Nat
  head : Word
  tail : Word
  /-- Complete slots as the 64-bit timeline (R363). -/
  total : DWord
  /-- Accepted count J. -/
  accepted : Word
  /-- Slot numbers written above tail. -/
  done : List Word
  deriving DecidableEq, Repr

/-- An open guide tile of a raster slice (R286): stored depths and winners by pixel. -/
structure GuideTile where
  col : Nat
  row : Nat
  /-- Stored depth by pixel 8 y + x, as FP32 bits; absent is +infinity. -/
  depth : Table Word
  mask : BitVec 64
  frags : Nat
  /-- Fragment tasks not yet exited. -/
  live : Nat
  deriving DecidableEq, Repr

/-- The raster slice of a render core. -/
structure Raster where
  batches : Nat
  tiles : List GuideTile
  /-- Fragments of the batch in hand that wait for the deque (R286). -/
  pend : List Packet
  deriving DecidableEq, Repr

/-- The matrix command in execution (R310): the command, the K-blocks entered and those of the whole command. -/
structure MatJob where
  cmd : EngCmd
  /-- CYC of its first cycle. -/
  start : Nat
  entered : Nat
  total : Nat
  /-- What the command found while it ran: cause, flags, address, details (R302). -/
  found : Option (Nat × BitVec 4 × DWord × DWord)
  deriving DecidableEq, Repr

/-- One Yoten core. See log entry 54. -/
structure CoreSt where
  icache : List ILine
  dcache : List DLine
  tlb : List TlbEntry
  engineq : List EngCmd
  copies : List CopyEntry
  mat : Option MatJob
  /-- Head first. -/
  deque : List Packet
  /-- Reserved deque entries (R373). -/
  dequeResv : Nat
  rings : Table Ring
  raster : Raster
  /-- RAYQ and RTILE commands that have left the engine queue. -/
  rays : List EngCmd
  fabric : List FabricEntry
  steal : BitVec 16
  stealAt : Nat
  /-- Pinned pages: first byte, bytes, context (R245). -/
  pins : List (Nat × Nat × Nat)
  /-- The wave that issued last as a primary: 16 × block + wave (R160; log entry 54). -/
  lastPrimary : Nat
  /-- CYC in which a primary last issued. -/
  issuedAt : Option Nat
  /-- Kernels the queue engine has read at a first gather: context, TENTRY, variants (R64). -/
  kernels : List (Nat × Nat × List Variant)
  movedAt : Option Nat
  recheckAt : Option Nat
  deriving DecidableEq, Repr

/-- One cluster (R166, R167, R403). -/
structure Cluster where
  cyc : DWord
  /-- How much of the present cycle has passed, in millionths of a nominal period (R4, R166; log entry 3). -/
  phase : Nat
  mhz : Nat
  /-- When the frequency last changed (R443; log entry 3). -/
  clockedAt : Nat
  alarms : BitVec 16
  thr : BitVec 7
  /-- Cycle of the droop response, 0 none, 1 to 70. -/
  droop : Nat
  /-- CYC at the alarm that began the response. -/
  droopAt : Nat
  deriving DecidableEq, Repr

/-- Power gating of a die's stacked pair (R104). -/
inductive Gating where
  | powered
  | gating
  | gated
  | waking
  deriving DecidableEq, Repr

/-- A named queue (R374). -/
structure NamedQueue where
  ctx : Nat
  cap : Nat
  packets : List (List Byte)
  /-- Entries reserved by ENQ commands on their way. -/
  resv : Nat
  /-- By cluster, the cycle in which a DEQ.nb of it last found no entry (R377). -/
  missed : Table Nat
  deriving DecidableEq, Repr

/-- One die. See log entry 58. -/
structure Die where
  imb : BitVec 8
  mlvl : BitVec 2
  heavy : Bool
  gate : Gating
  gateSince : Nat
  /-- Sampling instants of the balance monitor passed, in units of 50 ns (R102). -/
  sampled : Nat
  /-- Frames of the first-touch pools, by page-size number 0 to 5 (R240). -/
  pools : Table (List Nat)
  refill : Table Bool
  ringBase : Option Nat
  ringCount : Nat
  waiting : List FaultRec
  queues : Table NamedQueue
  release : Nat
  inService : Bool
  switches : Nat
  migrations : Nat
  tableBase : Nat
  dayStopped : Bool
  /-- What the Daybreak monitor still has to handle: the record of the cause that became a DOUBLE_FAULT (R390). -/
  double : Option FaultRec
  deriving DecidableEq, Repr

/-! ## Launches, graphs, replays -/

/-- What a gang's reservation leaves to others on a core (R100): free amounts not withheld, whether the matrix engine is among
them, and the scratchpad ranges that were taken when it began or have been given out since. -/
structure Reserved where
  slots : Nat
  units : Nat
  scalars : Nat
  mtx : Bool
  busy : List (Nat × Nat)
  deriving DecidableEq, Repr

/-- A cohort entry of an accepted launch (R61, R362). -/
structure Cohort where
  first : Nat
  count : Nat
  stride : Nat
  kinds : BitVec 2
  cphase : Word
  /-- Members (ranks) that have arrived in this phase. -/
  arrived : List Nat
  /-- (block linear index, wave) pairs that have arrived; pending ones await their release. -/
  warr : List (Nat × Nat)
  wpend : List (Nat × Nat)
  deriving DecidableEq, Repr

/-- The standing of a launch. -/
inductive LStatus where
  | placing
  | placed
  | completed
  /-- Being ended, with CSTATE and CCAUSE of its record (R390, R391). -/
  | ending (state cause : Nat)
  | ended
  deriving DecidableEq, Repr

/-- An accepted launch (R55, R94, R418). -/
structure Launch where
  tag : Word
  replay : Nat
  replayNo : Word
  node : Nat
  ctx : Nat
  queue : Nat
  prio : Nat
  kernel : Nat
  variants : List Variant
  gx : Nat
  gy : Nat
  gz : Nat
  lanes : Nat
  lflags : BitVec 2
  pclass : Nat
  tclass : Nat
  seed : Word
  deadline : DWord
  gov : Word
  sig0 : Word
  sig1 : Word
  doneAt : DWord
  fmt : List Word
  param : List Word
  cohorts : List Cohort
  gangs : List (List Nat)
  /-- Blocks placed (linear indices), and the next one in order. -/
  placed : List Nat
  next : Nat
  exited : List Nat
  triggered : List Nat
  tasksOpen : Nat
  started : Nat
  blocksOut : Nat
  tasksRun : Nat
  switches : Nat
  moves : Nat
  parks : Nat
  /-- Predecessor launches whose edge was satisfied early (R371). -/
  early : List Nat
  /-- The reservation of a gang that cannot start, by core (R100). -/
  resv : Table Reserved
  /-- The next block has had no candidate since (R412). -/
  starved : Option Nat
  status : LStatus
  deriving DecidableEq, Repr

/-- A graph node (R77). -/
structure Node where
  kind : Nat
  opt : Bool
  queue : Nat
  cost : Nat
  a : DWord
  b : DWord
  c : DWord
  d : DWord
  gpt : Nat
  deriving DecidableEq, Repr

/-- A registered graph (R78, R79). -/
structure Graph where
  handle : Nat
  ctx : Nat
  nodes : List Node
  edges : List (Nat × Nat)
  replays : Nat
  deriving DecidableEq, Repr

/-- The standing of a node in a replay (R81, R82, R89). -/
inductive NStatus where
  | waiting
  /-- Ready when its replay was abandoned or the launch before it was ended; it still runs (R82). -/
  | ready
  | queued
  | running
  | skipped
  | done
  | dead
  deriving DecidableEq, Repr

/-- A replay (R79 to R82, R87, R88). -/
structure Replay where
  handle : Nat
  number : Word
  deadline : DWord
  nodes : List NStatus
  grants : Table Nat
  abandoned : Bool
  finished : Bool
  deriving DecidableEq, Repr

/-- A kick in the FIFO (R75, R79). -/
structure Kick where
  handle : Nat
  patch : Nat
  number : Word
  deriving DecidableEq, Repr

/-- A launch node in its launch queue (R83). -/
structure LaunchReq where
  replay : Nat
  node : Nat
  deriving DecidableEq, Repr

/-! ## Contexts, images, requests -/

/-- A context (R232, R239, R386, R395). See log entry 10. -/
structure Ctx where
  ptbase : DWord
  debug : Bool
  wdogMs : Nat
  /-- Save area: first byte and bytes (R395). -/
  saveBase : Nat
  saveSize : Nat
  /-- Peer modules paired with this context (R269). -/
  peers : List Nat
  deriving DecidableEq, Repr

/-- A saved image: where it stands, and what the dispatcher keeps beside its bytes (R395; log entry 39). -/
structure Image where
  addr : Nat
  size : Nat
  /-- The block's number. -/
  b : Nat
  launch : Nat
  ctx : Nat
  blin : Nat
  task : Bool
  priv : Bool
  exited : Bool
  var : Variant
  core : Nat
  /-- First byte of its scratchpad range there. -/
  base : Nat
  /-- Physical die at the save (R401). -/
  die : Nat
  icause : Nat
  gang : Bool
  parkOrder : Nat
  /-- Completed counts of its copy contexts, for timeline handles of kind 5 (R363). -/
  done : List Nat
  copies : List CopyEntry
  queue : List EngCmd
  frags : List (Nat × Nat × Nat)
  /-- The stopping point of each wave. -/
  stops : List PC
  /-- Reply queues and reservations of the waves after the first. -/
  replies : List (Table (List (BitVec 128)) × Table Nat)
  /-- By barrier, the waves that have retired during the phase (R353). -/
  retired : List (BitVec 16)
  /-- By wave, the threads that a switch has moved and that have still to issue the SWPT of the new variant (R179). -/
  passing : Table Lanes
  movedAt : Option Nat
  deriving DecidableEq, Repr

/-- An entry of the dispatcher's request queue: the image, ACTION and ABANDON of RFX, a migration's destination core (R391, R401), or,
as action 4, what a pre-emption names (R402). -/
structure Request where
  image : Nat
  action : Nat
  abandon : Bool
  core : Option Nat
  target : Option PreemptTarget
  deriving DecidableEq, Repr

/-! ## Module-wide units -/

/-- The global timer and the time port (R85, R86). -/
structure TimePort where
  now : Nat
  /-- Picoseconds of the present nanosecond that have passed (R4; log entry 3). -/
  sub : Nat
  locked : Bool
  valid : Bool
  ppsin : Bool
  stepped : Bool
  lockedOnce : Bool
  lastEdge : Nat
  /-- TAI minus the timer while the timer is being slewed. -/
  slew : Option Int
  ppsOut : Nat
  deriving DecidableEq, Repr

/-- BAR0 (R73) and what stands behind it. See log entries 58 and 61. -/
structure HostIf where
  graddr : DWord
  grctx : Word
  grstat : Word
  qprio : Word
  eqbase : DWord
  eqsize : Nat
  eqhead : Nat
  eqtail : Nat
  eqlost : Word
  eqovf : Bool
  mboxin : Table Byte
  mboxout : Table Byte
  mboxBusy : Bool
  /-- The message the firmware has taken and not yet answered (R422). -/
  mboxMsg : Table Byte
  phase : Nat
  kicks : List Kick
  linkUp : Bool
  /-- The physical ranges behind BAR2, in order: first byte and bytes (R69). -/
  bar2 : List (Nat × Nat)
  msix0 : Nat
  msix1 : Nat
  /-- What the last BAR0 or BAR2 read returned, or none for Completer Abort. -/
  readData : Option (List Byte)
  deriving DecidableEq, Repr

/-- Shelf, shedding and thermal state (R23, R404 to R411). See log entry 58. -/
structure Power where
  vinOk : Bool
  age : BitVec 8
  vin : BitVec 16
  freq : BitVec 16
  en : Bool
  nomf : BitVec 8
  addr : BitVec 7
  miss : BitVec 8
  allow : Nat
  curveF : Table Word
  curveV : Table Word
  latchF : Table Word
  latchV : Table Word
  /-- Classes shed, 0 to 3. -/
  shed : Nat
  /-- Groups shed, latest first: classes and trip power. -/
  groups : List (List Nat × Nat)
  forcing : Bool
  /-- When a class was shed (R409). -/
  shedAt : Table Nat
  /-- Blocks of the classes shed last that have still to park (R408). -/
  toPark : List Nat
  /-- Instants of the crossing polls of the last 400 µs (R410). -/
  crossings : List Nat
  clamp : Bool
  clampGood : Nat
  groupGood : Nat
  /-- The clock is being stepped down, the last step at this time. -/
  stepAt : Option Nat
  pm : Nat
  /-- The clock the clusters return to when CLAMP is released. -/
  free : Nat
  lastPoll : Option Nat
  /-- Polling instants passed, in units of 100,000 ns (R404). -/
  polled : Nat
  /-- The thermal limit in force, in MHz (R23). -/
  thermal : Option Nat
  hotLimit : Nat
  deriving DecidableEq, Repr

/-- The dispatcher's own state. -/
structure Dispatcher where
  queues : Table (List LaunchReq)
  lastQueue : Nat
  requests : List Request
  /-- Virtual-die map: physical die of virtual dies 1 and 2 (R400). -/
  vd1 : Nat
  vd2 : Nat
  nextBlock : Nat
  nextLaunch : Nat
  nextReplay : Nat
  parks : Nat
  deriving DecidableEq, Repr

/-- Firmware (R421 to R424, R390). -/
structure Firmware where
  /-- The image that an UPDATE has written to flash; none is the one the device was made with (R424). -/
  flash : Option (List Byte)
  /-- The stored image is whole: its SM3 digest is right (R424). -/
  flashValid : Bool
  /-- The image that an UPDATE has verified and is writing (R424). -/
  writing : Option (List Byte)
  failed : BitVec 3
  peersUp : BitVec 12
  /-- HBM training has finished and work drains; the dies that failed (R426). -/
  training : Option (BitVec 3)
  doubleFaults : Nat
  deriving DecidableEq, Repr

/-- A request that the table-update engine has accepted and not acknowledged (R237): whether its steps 1 and 2 are done, and the
accesses translated before its shootdown that are not performed yet, by block, wave and syllable (R239). -/
structure TableUpdate where
  req : TableReq
  begun : Bool
  waits : List (Nat × Nat × Nat)
  deriving DecidableEq, Repr

/-- The partner that a primary merges with: block and wave, and the primary's last store of the cycle, if it has one, by block, wave and
syllable (R160, R161). -/
structure Partner where
  b : Nat
  w : Nat
  ahead : Option (Nat × Nat × Nat)
  deriving DecidableEq, Repr

/-- The whole module. -/
structure State where
  /-- Rows that come next (log entry 2). -/
  agenda : List Instr
  turn : Bool
  steps : Nat
  /-- The partner of the primary that has just issued (R160). -/
  partner : Option Partner
  cur : Option Issue
  time : TimePort
  host : HostIf
  disp : Dispatcher
  power : Power
  fw : Firmware
  blocks : Table Block
  cores : Table CoreSt
  clusters : Table Cluster
  dies : Table Die
  /-- Physical memory; an unlisted byte reads 0 (log entry 4). -/
  mem : List Host.Cell
  /-- Ranges of unspecified bytes, first byte and byte after the last (R6; log entry 6). -/
  unspec : List (Nat × Nat)
  /-- Poisoned 64-byte granules. -/
  poison : Table Bool
  /-- 64-byte granules of HBM or of a scratchpad with an uncorrectable error that no read has found yet (R265, R387). -/
  memErr : Table Bool
  /-- Uncorrectable errors in registers, tiles and planes that no read has found yet (R302, R386). -/
  sramErr : List SramError
  /-- The context that last wrote a 128-byte line (R244). -/
  tags : Table Nat
  /-- Frames locked in home slices by pages with HOME 10: first byte and bytes (R243). -/
  locked : List (Nat × Nat)
  ctxs : Table Ctx
  /-- Table updates not acknowledged yet, in the order they came (R237). -/
  updates : List TableUpdate
  /-- Shared timeline n of context c at key 4096 c + n. -/
  timelines : Table DWord
  graphs : Table Graph
  replays : Table Replay
  launches : Table Launch
  images : List Image
  deriving DecidableEq, Repr

/-! ## How a step can stop -/

/-- A stop of the model with a fault. Every exception of the manual is taken, so these are accesses that no rule describes. -/
inductive Fault where
  /-- Raised by an access to a physical address that R229 backs with nothing; safe: the hardware reaches none (R229). -/
  | unbackedAddress (pa : Nat)
  deriving DecidableEq, Repr

/-- A stop of the model by refusal. -/
inductive Refusal where
  /-- An instruction without a meaning yet; safe. -/
  | notModelled (mnemonic : String)
  deriving DecidableEq, Repr

/-! ## Reset -/

/-- A wave with no thread: the register state of a block start (R109), generator states 1. See log entry 5. -/
def Wave.empty : Wave :=
  { living := 0, pc := [], ctxid := none, rng := [], v := [], s := [], p := [], c := 0, loopc := 0, rotb := 0, cause := 0, fmask := 0,
    faddr := 0, fdet := 0, stopAt := 0, wait := none, triggered := false, step := false, esc := 0, since := none, full := none, ask := none, nextSid := 0, ops := [],
    outs := [], storeq := [], late := [], cwbs := [], split := none, fence := none, replies := [], resv := [] }

/-- Matrix state when a block becomes owner (R293). -/
def Matrix.initial : Matrix :=
  { tile := [], rowExp := [], tsh := [], cell := [], plane := [], split := 0, win := [], latch := [], desc := none,
    committed := none, pend := [], stopped := false }

/-- A copy context at block start (R266). -/
def CopyCtx.initial : CopyCtx := { issued := 0, completed := 0, early := [], suspended := false }

/-- A ring the Daylight runtime has not placed; the manual gives its words no reset value (log entry 5). -/
def Ring.reset : Ring :=
  { ctx := 0, base := 0, valid := false, slotsz := 0, slots := 0, head := 0, tail := 0, total := 0, accepted := 0, done := [] }

/-- Core n after reset; its steal generator is seeded from COREID (R110). -/
def CoreSt.reset (n : Nat) : CoreSt :=
  { icache := [], dcache := [], tlb := [], engineq := [], copies := [], mat := none, deque := [], dequeResv := 0, rings := [],
    raster := { batches := 0, tiles := [], pend := [] }, rays := [], fabric := [], steal := BitVec.ofNat 16 n, stealAt := 0, pins := [],
    lastPrimary := 0, issuedAt := none, kernels := [], movedAt := none, recheckAt := none }

/-- A cluster after reset: dawn clock, THR 40 (R403, R425). -/
def Cluster.reset : Cluster := { cyc := 0, phase := 0, mhz := 500, clockedAt := 0, alarms := 0, thr := 40, droop := 0, droopAt := 0 }

/-- Die n after reset (log entry 5); its table region begins with its first HBM stack (log entry 58). -/
def Die.reset (n : Nat) : Die :=
  { imb := 0, mlvl := 0, heavy := false, gate := .powered, gateSince := 0, sampled := 0, pools := [], refill := [], ringBase := none,
    ringCount := 0, waiting := [], queues := [], release := 0, inService := true, switches := 0, migrations := 0,
    tableBase := if n = 0 then 0 else if n = 1 then 0x1800000000 else 0x3C00000000, dayStopped := false, double := none }

/-- A context the Daylight runtime has not created (log entry 5); the watchdog limit is 2 s (R386). -/
def Ctx.absent : Ctx :=
  { ptbase := 0, debug := false, wdogMs := 2000, saveBase := 0, saveSize := 0, peers := [] }

/-- The time port after reset (R86). -/
def TimePort.reset : TimePort :=
  { now := 0, sub := 0, locked := false, valid := false, ppsin := false, stepped := false, lockedOnce := false, lastEdge := 0,
    slew := none, ppsOut := 0 }

/-- BAR0 after reset (R73, R90, R425; log entry 5). -/
def HostIf.reset : HostIf :=
  { graddr := 0, grctx := 0, grstat := 0, qprio := 0, eqbase := 0, eqsize := 0, eqhead := 0, eqtail := 0, eqlost := 0,
    eqovf := false, mboxin := [], mboxout := [], mboxBusy := false, mboxMsg := [], phase := 1, kicks := [], linkUp := true, bar2 := [], msix0 := 0,
    msix1 := 0, readData := none }

/-- Shelf and shedding state after reset: EN 0 (R405), ALLOW 2,400 (R406; log entry 5). -/
def Power.reset : Power :=
  { vinOk := false, age := 0, vin := 0, freq := 0, en := false, nomf := 0, addr := 0, miss := 0, allow := 2400, curveF := [],
    curveV := [], latchF := [], latchV := [], shed := 0, groups := [], forcing := false, shedAt := [], toPark := [],
    crossings := [], clamp := false, clampGood := 0, groupGood := 0, stepAt := none, pm := 0, free := 500, lastPoll := none, polled := 0,
    thermal := none, hotLimit := 95 }

/-- The dispatcher after reset: empty queues, the identity map (R400). See log entry 5. -/
def Dispatcher.reset : Dispatcher :=
  { queues := [], lastQueue := 15, requests := [], vd1 := 1, vd2 := 2, nextBlock := 1, nextLaunch := 1, nextReplay := 1,
    parks := 0 }

/-- Firmware after reset (R425). -/
def Firmware.reset : Firmware := { flash := none, flashValid := true, writing := none, failed := 0, peersUp := 0, training := none, doubleFaults := 0 }

/-- The module right after reset (R86, R403, R405, R425). See log entries 4 and 5. -/
def State.reset : State :=
  { agenda := [], turn := false, steps := 0, partner := none, cur := none, time := TimePort.reset, host := HostIf.reset,
    disp := Dispatcher.reset, power := Power.reset, fw := Firmware.reset, blocks := [], cores := [], clusters := [], dies := [],
    mem := [], unspec := [], poison := [], memErr := [], sramErr := [], tags := [], locked := [], ctxs := [], updates := [], timelines := [], graphs := [], replays := [],
    launches := [], images := [] }

end Sys2Proof.Machine
end

