-- ==== Sys2Proof/Machine/Access.lean ====
section
/-! DEFINITION. Named reads and updates of the state's parts, and the register file: every register has its one home here, with
s0, p0 and c0 as R132 and R124 give them. -/

namespace Sys2Proof.Machine

/-! ## Numbers of cores, clusters and dies (R11, R142, R229) -/

/-- The die of a core. -/
def dieOf (core : Nat) : Nat := core / 256
/-- The cluster number of a core: 2 × die + cluster. -/
def clusOf (core : Nat) : Nat := core / 128
/-- Cores of a cluster: 64 on a network die, 24 on die 0 (R11). -/
def clusterSize (die : Nat) : Nat := if die = 0 then 24 else 64
/-- The core exists. -/
def coreExists (core : Nat) : Bool := decide (core < 768 ∧ core % 128 < clusterSize (dieOf core))
/-- A network tile. -/
def isTile (core : Nat) : Bool := decide (dieOf core = 1 ∨ dieOf core = 2)
/-- Scratchpad bytes of a core (R17, R18). -/
def scratchSize (core : Nat) : Nat := if dieOf core = 0 then 0x100000 else 0x400000
/-- The first byte of a core's deque (R245). -/
def dequeBase (core : Nat) : Nat := scratchSize core - 0x40000
/-- The physical address of byte off of a core's scratchpad (R229). -/
def windowPa (core off : Nat) : Nat := 0x8000000000 + dieOf core * 2 ^ 29 + core / 128 % 2 * 2 ^ 28 + core % 128 * 2 ^ 22 + off
/-- The cores of a cluster, ascending. -/
def coresOf (clus : Nat) : List Nat := (List.range (clusterSize (clus / 2))).map fun k => clus * 128 + k
/-- Every core. -/
def allCores : List Nat := (List.range 6).flatMap coresOf
/-- The host DMA engine's context (R77), held as core 1024. -/
def hostDma : Nat := 1024

/-! ## Parts of the state -/

/-- Block b, if it is resident. -/
def State.block? (s : State) (b : Nat) : Option Block := s.blocks.find? b
/-- Block b replaced. -/
def State.setBlock (s : State) (b : Nat) (x : Block) : State := { s with blocks := s.blocks.put b x }
/-- Block b gone. -/
def State.dropBlock (s : State) (b : Nat) : State := { s with blocks := s.blocks.erase b }
/-- Block b changed by f. -/
def State.modBlock (s : State) (b : Nat) (f : Block → Block) : State :=
  match s.block? b with
  | some x => s.setBlock b (f x)
  | none => s
/-- Wave w of block b. -/
def State.wave? (s : State) (b w : Nat) : Option Wave := (s.block? b).bind fun x => x.waves.find? w
/-- Wave w of a block replaced. -/
def Block.setWave (x : Block) (w : Nat) (y : Wave) : Block := { x with waves := x.waves.put w y }
/-- Wave w of block b replaced. -/
def State.setWave (s : State) (b w : Nat) (y : Wave) : State := s.modBlock b fun x => x.setWave w y
/-- Wave w of block b changed by f. -/
def State.modWave (s : State) (b w : Nat) (f : Wave → Wave) : State :=
  match s.wave? b w with
  | some y => s.setWave b w (f y)
  | none => s
/-- Core n. -/
def State.core (s : State) (n : Nat) : CoreSt := (s.cores.find? n).getD (CoreSt.reset n)
/-- Core n replaced. -/
def State.setCore (s : State) (n : Nat) (c : CoreSt) : State := { s with cores := s.cores.put n c }
/-- Core n changed by f. -/
def State.modCore (s : State) (n : Nat) (f : CoreSt → CoreSt) : State := s.setCore n (f (s.core n))
/-- Cluster n. -/
def State.cluster (s : State) (n : Nat) : Cluster := (s.clusters.find? n).getD Cluster.reset
/-- CYC of a core's cluster. -/
def State.cycOf (s : State) (core : Nat) : Nat := (s.cluster (clusOf core)).cyc.toNat
/-- Cluster n replaced. -/
def State.setCluster (s : State) (n : Nat) (c : Cluster) : State := { s with clusters := s.clusters.put n c }
/-- Die n. -/
def State.die (s : State) (n : Nat) : Die := (s.dies.find? n).getD (Die.reset n)
/-- Die n replaced. -/
def State.setDie (s : State) (n : Nat) (d : Die) : State := { s with dies := s.dies.put n d }
/-- Die n changed by f. -/
def State.modDie (s : State) (n : Nat) (f : Die → Die) : State := s.setDie n (f (s.die n))
/-- Context n. -/
def State.ctx (s : State) (n : Nat) : Ctx := (s.ctxs.find? n).getD Ctx.absent
/-- Context n replaced. -/
def State.setCtx (s : State) (n : Nat) (c : Ctx) : State := { s with ctxs := s.ctxs.put n c }
/-- The Daylight runtime has created the context: it has a page-table root (R78, R232). -/
def State.ctxExists (s : State) (n : Nat) : Bool := (s.ctx n).ptbase ≠ 0
/-- Launch n. -/
def State.launch? (s : State) (n : Nat) : Option Launch := s.launches.find? n
/-- Blocks of the grid. -/
def Launch.total (l : Launch) : Nat := l.gx * l.gy * l.gz

/-- Launch n changed by f. -/
def State.modLaunch (s : State) (n : Nat) (f : Launch → Launch) : State :=
  match s.launch? n with
  | some l => { s with launches := s.launches.put n (f l) }
  | none => s
/-- Replay n. -/
def State.replay? (s : State) (n : Nat) : Option Replay := s.replays.find? n
/-- Replay n changed by f. -/
def State.modReplay (s : State) (n : Nat) (f : Replay → Replay) : State :=
  match s.replay? n with
  | some r => { s with replays := s.replays.put n (f r) }
  | none => s
/-- The graph of a handle. -/
def State.graph? (s : State) (h : Nat) : Option Graph := s.graphs.find? h
/-- Shared timeline n of a context (R364). -/
def State.timeline (s : State) (ctx n : Nat) : DWord := Table.get 0 s.timelines (4096 * ctx + n)
/-- Shared timeline n of a context set. -/
def State.setTimeline (s : State) (ctx n : Nat) (v : DWord) : State :=
  { s with timelines := Table.set 0 s.timelines (4096 * ctx + n) v }
/-- Dawn service (R425). -/
def State.dawn (s : State) : Bool := s.host.phase = 1
/-- The global timer (R85). -/
def State.now (s : State) : Nat := s.time.now
/-- Rows put in front of those that come next. -/
def State.andThen (s : State) (l : List Instr) : State := { s with agenda := l ++ s.agenda }

/-- Entry k of a list replaced. -/
def setAt {α : Type} (l : List α) (k : Nat) (x : α) : List α := l.set k x
/-- Entry k of a list removed. -/
def dropAt {α : Type} (l : List α) (k : Nat) : List α := l.eraseIdx k

/-! ## The register file of a wave -/

/-- S(r): s0 reads zero (R16, R132). -/
def Wave.rdS (y : Wave) (r : Nat) : Word := if r = 0 then 0 else Table.get 0 y.s r
/-- S(r) written; a write of s0 is ignored. -/
def Wave.wrS (y : Wave) (r : Nat) (v : Word) : Wave := if r = 0 then y else { y with s := Table.set 0 y.s r v }
/-- Physical vector register r in lane l. -/
def Wave.rdV (y : Wave) (r l : Nat) : Word := Table.get 0 y.v (128 * r + l)
/-- Physical vector register r in lane l written. -/
def Wave.wrV (y : Wave) (r l : Nat) (v : Word) : Wave := { y with v := Table.set 0 y.v (128 * r + l) v }
/-- Physical predicate k as a mask; p0 reads true (R124). -/
def Wave.rdP (y : Wave) (k : Nat) : Lanes := if k = 0 then BitVec.allOnes 128 else Table.get 0 y.p k
/-- Physical predicate k written; a write of p0 is ignored (R126). -/
def Wave.wrP (y : Wave) (k : Nat) (m : Lanes) : Wave := if k = 0 then y else { y with p := Table.set 0 y.p k m }
/-- Condition k; c0 reads true. -/
def Wave.rdC (y : Wave) (k : Nat) : Bool := if k = 0 then true else y.c.getLsbD k
/-- Condition k written; a write of c0 is ignored. -/
def Wave.wrC (y : Wave) (k : Nat) (v : Bool) : Wave :=
  if k = 0 then y
  else { y with c := if v then y.c ||| ((1 : BitVec 16) <<< k) else y.c &&& ~~~((1 : BitVec 16) <<< k) }
/-- The PC of lane l. -/
def Wave.pcOf (y : Wave) (l : Nat) : PC := Table.get 0 y.pc l
/-- The PC of lane l set. -/
def Wave.setPc (y : Wave) (l : Nat) (a : PC) : Wave := { y with pc := Table.set 0 y.pc l a }
/-- The generator state of lane l; it is never zero (R31). -/
def Wave.rngOf (y : Wave) (l : Nat) : Word := Table.get 1 y.rng l
/-- The generator state of lane l set. -/
def Wave.setRng (y : Wave) (l : Nat) (v : Word) : Wave := { y with rng := Table.set 1 y.rng l v }
/-- POP: living threads (R155). -/
def Wave.pop (y : Wave) : Nat := popcount 128 y.living.toNat
/-- Operations counted in a counter (R163). -/
def Wave.count (y : Wave) (c : Ctr) : Nat := (y.ops.filter fun o => o.ctr = c).length
/-- CNT (R163). -/
def Wave.cnt (y : Wave) : Word :=
  toWord (y.count .tl * 2 ^ 24 + y.count .cp * 2 ^ 16 + y.count .st * 2 ^ 8 + y.count .ld)
/-- ROT (R175). -/
def rotWord (rotv : Nat) (y : Wave) : Word := toWord (rotv * 2 ^ 8 + y.rotb.toNat)
/-- One register word written (R162). -/
def Wave.wrReg (y : Wave) : RegW → Wave
  | .s r v => y.wrS r v
  | .v r l w => y.wrV r l w
/-- The context a wave of the block runs in: CTXID, which starts as the block's (R141). See log entry 47. -/
def Block.ctxOf (x : Block) (y : Wave) : Nat := (y.ctxid.map BitVec.toNat).getD x.ctx
/-- The block as one of its waves sees it: in the wave's context. -/
def Block.seenBy (x : Block) (y : Wave) : Block := { x with ctx := x.ctxOf y }
/-- The living lanes whose PC is a. -/
def Wave.lanesAt (y : Wave) (a : PC) : Lanes := lanesWhere y.living fun l => y.pcOf l = a

/-- The budget of a block's variant (R50). -/
def Block.budget (x : Block) : Budget := ⟨x.var.vregs, x.var.sregs, x.var.rotv⟩
/-- The waves of a block by index. -/
def Block.waveIds (x : Block) : List Nat := x.waves.keys
/-- The block owns the matrix engine (R98). -/
def Block.owner (x : Block) : Bool := x.mtx.isSome
/-- The variant as a block holds its resources: a restored image of an exited block holds its scratchpad range alone (R445). -/
def Block.heldVar (x : Block) : Variant :=
  if x.exited && x.waves.isEmpty then { x.var with waves := 0, vregs := 0, sregs := 0, weight := 0, flags := x.var.flags &&& 6 } else x.var
/-- Every wave of the block has retired (R416). -/
def Block.retired (x : Block) : Bool := x.waves.all fun e => e.2.living = 0
/-- Barrier n at block start (R352). -/
def Barrier.start (waves : Nat) : Barrier :=
  { phase := 0, part := BitVec.ofNat 16 (2 ^ waves - 1), arrv := 0, ebase := 0, expb := 0, cred := 0, pend := 0,
    retiredNow := 0 }
/-- Barrier n. -/
def Block.barrier (x : Block) (n : Nat) : Barrier := (x.barriers.find? n).getD (Barrier.start x.var.waves)
/-- Barrier n replaced. -/
def Block.setBarrier (x : Block) (n : Nat) (r : Barrier) : Block := { x with barriers := x.barriers.put n r }
/-- Copy context k (R266). -/
def Block.copyCtx (x : Block) (k : Nat) : CopyCtx := (x.kctx.find? k).getD CopyCtx.initial
/-- Copy context k replaced. -/
def Block.setCopyCtx (x : Block) (k : Nat) (c : CopyCtx) : Block := { x with kctx := x.kctx.put k c }
/-- Ring n of a core (R280). -/
def CoreSt.ring (c : CoreSt) (n : Nat) : Ring := (c.rings.find? n).getD Ring.reset
/-- Ring n replaced. -/
def CoreSt.setRing (c : CoreSt) (n : Nat) (r : Ring) : CoreSt := { c with rings := c.rings.put n r }
/-- Named queue q mod 64 of a die, if assigned (R374). -/
def State.queue? (s : State) (q : Nat) : Option NamedQueue := (s.die (q / 64)).queues.find? (q % 64)
/-- Named queue q replaced. -/
def State.setQueue (s : State) (q : Nat) (x : NamedQueue) : State :=
  s.modDie (q / 64) fun d => { d with queues := d.queues.put (q % 64) x }
/-- A cohort entry of a launch changed by f. -/
def State.modCohort (s : State) (l k : Nat) (f : Cohort → Cohort) : State :=
  s.modLaunch l fun x => { x with cohorts := x.cohorts.mapIdx fun i c => if i = k then f c else c }

end Sys2Proof.Machine
end

