-- ==== Sys2Proof/Machine/Memory.lean ====
section
/-! DEFINITION. Physical memory: the regions of R229, bytes and little-endian words, unspecified ranges (R6), poison (R387) and the
tags of lines (R244). -/

namespace Sys2Proof.Machine

/-- The regions of R229. -/
inductive Region where
  | hbm
  | scratch
  | mmio
  | host
  | none
  deriving DecidableEq, Repr

/-- The core whose scratchpad window holds a physical address. -/
def windowCore (pa : Nat) : Nat := pa / 2 ^ 29 % 4 * 256 + pa / 2 ^ 28 % 2 * 128 + pa / 2 ^ 22 % 64
/-- The scratchpad offset of an address in a window. -/
def windowOff (pa : Nat) : Nat := pa % 2 ^ 22

/-- The region of a physical address (R229). -/
def region (pa : Nat) : Region :=
  if pa < 0x6000000000 then .hbm
  else if 0x8000000000 ≤ pa ∧ pa < 0x8060000000 ∧ coreExists (windowCore pa) ∧ windowOff pa < scratchSize (windowCore pa) then .scratch
  else if 0xA000000000 ≤ pa ∧ pa < 0xA100000000 then .mmio
  else if 0x800000000000 ≤ pa ∧ pa < 0x1000000000000 then .host
  else .none

/-- The stack of an HBM address and its die (R11, R229). -/
def stackOf (pa : Nat) : Nat := pa / 0xC00000000
/-- The die a stack attaches to. -/
def stackDie (st : Nat) : Nat := if st < 2 then 0 else if st < 5 then 1 else 2
/-- The die of the executing point of a physical address (R326); none for MMIO and the host. -/
def execDie (pa : Nat) : Option Nat :=
  match region pa with
  | .hbm => some (stackDie (stackOf pa))
  | .scratch => some (dieOf (windowCore pa))
  | _ => Option.none

/-- The hash x of a line (R112, R242): h = PA[47:7], folded by 12, 24 and 36 bits. -/
def lineHash (pa : Nat) : Nat :=
  let h := pa / 128 % 2 ^ 41
  h ^^^ (h / 2 ^ 12) ^^^ (h / 2 ^ 24) ^^^ (h / 2 ^ 36)

/-- The core whose home slice holds an HBM line (R242). -/
def homeCore (pa : Nat) : Nat :=
  let d := stackDie (stackOf pa)
  let x := lineHash pa
  d * 256 + x / 2 ^ 12 % 2 * 128 + x % 2 ^ 12 * clusterSize d / 2 ^ 12

/-- The address-hash lane of a request (R332): host requests use one lane. -/
def fabricLane (pa : Nat) : Nat :=
  match region pa with
  | .scratch => windowOff pa / 128 % 8
  | .host => 8
  | _ => lineHash pa % 8

/-- The address lies in an unspecified range. See log entry 6. -/
def State.isUnspec (s : State) (pa : Nat) : Bool := s.unspec.any fun r => decide (r.1 ≤ pa ∧ pa < r.2)

/-- The address of a device register (R229): its unit may write it at any time. See log entry 55. -/
def isMmio (pa : Nat) : Bool := decide (0xA000000000 ≤ pa ∧ pa < 0xA100000000)

/-- One byte of physical memory: an unlisted byte reads 0 (log entry 4); an unspecified one, and one of a device register, as a free
value (log entries 6 and 55). -/
def State.byte (s : State) (pa : Nat) : Byte :=
  if s.isUnspec pa || isMmio pa then Config.freeByte s.steps pa else Table.get 0 s.mem pa

/-- n bytes from an address. -/
def State.bytes (s : State) (pa n : Nat) : List Byte := (List.range n).map fun i => s.byte (pa + i)

/-- A little-endian number of n bytes. -/
def State.num (s : State) (pa n : Nat) : Nat := ofLe (s.bytes pa n)

/-- A range less the bytes lo to hi - 1. -/
def cutRange (lo hi : Nat) (r : Nat × Nat) : List (Nat × Nat) :=
  if hi ≤ r.1 ∨ r.2 ≤ lo then [r]
  else (if r.1 < lo then [(r.1, lo)] else []) ++ (if hi < r.2 then [(hi, r.2)] else [])

/-- The cells that hold bytes from an address on: a zero byte has none. -/
def cellsOf (pa : Nat) : List Byte → Table Byte
  | [] => []
  | b :: bs => if b = 0 then cellsOf (pa + 1) bs else (pa, b) :: cellsOf (pa + 1) bs

/-- Bytes written to a memory table: the cells below, those of the bytes, and the cells above. -/
def putBytes (m : Table Byte) (pa : Nat) (bs : List Byte) : Table Byte :=
  let hi := pa + bs.length
  List.filter (fun e => decide (e.1 < pa)) m ++ cellsOf pa bs ++ List.filter (fun e => decide (hi ≤ e.1)) m

/-- The 64-byte granules, and the 128-byte lines, that n bytes from an address touch. -/
def granules (size pa n : Nat) : List Nat :=
  if n = 0 then [] else (List.range ((pa + n - 1) / size + 1 - pa / size)).map fun i => pa / size + i

/-- n bytes written: they are specified, a granule written whole loses its poison (R387), and their lines carry the context's
tag (R244). -/
def State.write (s : State) (ctx pa : Nat) (bs : List Byte) : State :=
  let n := bs.length
  let whole := (granules 64 pa n).filter fun g => decide (pa ≤ 64 * g ∧ 64 * g + 64 ≤ pa + n)
  { s with
    mem := putBytes s.mem pa bs
    unspec := if s.unspec = [] then [] else s.unspec.flatMap (cutRange pa (pa + n))
    poison := whole.foldl (fun t g => Table.set false t g false) s.poison
    tags := (granules 128 pa n).foldl (fun t g => Table.put t g ctx) s.tags }

/-- A little-endian number of n bytes written. -/
def State.writeNum (s : State) (ctx pa n v : Nat) : State := s.write ctx pa (leBytes n v)

/-- The bytes lo to hi - 1 become unspecified (R92, R270). -/
def State.forget (s : State) (lo hi : Nat) : State :=
  if hi ≤ lo then s else { s with unspec := (lo, hi) :: s.unspec.flatMap (cutRange lo hi) }

/-- The bytes lo to hi - 1 become zero. -/
def State.zero (s : State) (lo hi : Nat) : State :=
  { s with mem := Table.clear lo hi s.mem, unspec := s.unspec.flatMap (cutRange lo hi) }

/-- An uncorrectable error in a granule, as a read finds it: of HBM, or of a scratchpad (R386). -/
def foundError (g : Nat) (va : DWord) (lane : Option Nat) : BadData :=
  if region (64 * g) = .hbm then ⟨0x29, 64 * g, va, lane, 0, 0⟩ else ⟨0x28, 64 * g, va, lane, 2, windowOff (64 * g)⟩

/-- What is wrong with n bytes read: an uncorrectable error not found before, or poison (R265, R387). -/
def State.badData (s : State) (pa n : Nat) (va : DWord) (lane : Option Nat) : Option BadData :=
  let gs := granules 64 pa n
  match gs.find? fun g => Table.get false s.memErr g with
  | some g => some (foundError g va lane)
  | none => (gs.find? fun g => Table.get false s.poison g).map fun g => ⟨0x2A, 64 * g, va, lane, 0, 0⟩

/-- The die whose executing point an access would have to reach is out of service (R390, R427). -/
def State.dieGone (s : State) (pa : Nat) : Option Nat :=
  match execDie pa with
  | some d => if (s.die d).inService then none else some d
  | none => none

/-- What is wrong with a read at its home: its die is out of service (R390), an error, or poison (R387). -/
def State.readFault (s : State) (pa n : Nat) (va : DWord) (lane : Option Nat) : Option BadData :=
  match s.dieGone pa with
  | some d => some ⟨0x23, pa, va, lane, 0, d⟩
  | none => if (execDie pa).isSome then s.badData pa n va lane else none

/-- An uncorrectable error of granule g that a read has found poisons it, in HBM (R387); in a scratchpad it has been reported. -/
def State.poisonError (s : State) (g : Nat) : State :=
  if Table.get false s.memErr g then
    { s with
      memErr := Table.set false s.memErr g false, poison := if region (64 * g) = .hbm then Table.set false s.poison g true else s.poison }
  else s

/-- The error that a read has found is no longer one not found. -/
def State.errorFound (s : State) (d : BadData) : State :=
  if d.cause = 0x28 ∨ d.cause = 0x29 then s.poisonError (d.pa / 64) else s

/-- Every error in n bytes read has been found. -/
def State.errorsFound (s : State) (pa n : Nat) : State := (granules 64 pa n).foldl State.poisonError s

/-- The poison of the two granules of a line. -/
def State.poisonBits (s : State) (pa : Nat) : BitVec 2 :=
  BitVec.ofNat 2 ((if Table.get false s.poison (pa / 64) then 1 else 0) + if Table.get false s.poison (pa / 64 + 1) then 2 else 0)

/-- The memory keeps its canonical form: addresses rise strictly and no entry holds 0. See log entry 4. -/
def Memory.wf (m : List Host.Cell) : Bool := Table.sorted m && Table.lean (0 : Byte) m

end Sys2Proof.Machine
end

