-- ==== Sys2Proof/Machine/Events.lean ====
section
/-! DEFINITION. What the module reports: the host event ring (R90) and the fault records of the dies' fault rings (R385). -/

namespace Sys2Proof.Machine

/-- The physical address that reaches a host bus address (R229). See log entry 47. -/
def hostPa (bus : Nat) : Nat := 0x800000000000 + bus % 2 ^ 47

/-- The event ring is full (R90). -/
def HostIf.eqFull (h : HostIf) : Bool := decide ((h.eqtail + 1) % h.eqsize = h.eqhead)

/-- A count that saturates at 2^32 - 1. -/
def satInc (w : Word) : Word := if w = BitVec.allOnes 32 then w else w + 1

/-- The 32 bytes of an event record; detail fills bytes 16 to 31. -/
def eventBytes (kind cause handle : Nat) (replay : Word) (now : Nat) (detail : List Byte) : List Byte :=
  leBytes 1 kind ++ leBytes 1 cause ++ leBytes 2 handle ++ leBytes 4 replay.toNat ++ leBytes 8 now ++
    (detail ++ List.replicate 16 0).take 16

/-- EVENT_RECORD_POST (R90): the record is written at EQTAIL and MSI-X vector 0 signalled, or dropped and counted.
See log entry 29. -/
def State.postEvent (s : State) (kind cause handle : Nat) (replay : Word) (detail : List Byte) : State :=
  let h := s.host
  if h.eqsize = 0 then { s with host := { h with eqlost := satInc h.eqlost } }
  else if h.eqFull then { s with host := { h with eqlost := satInc h.eqlost, eqovf := true } }
  else
    let s := s.write 0 (hostPa (h.eqbase.toNat + 32 * h.eqtail)) (eventBytes kind cause handle replay s.now detail)
    { s with host := { h with eqtail := (h.eqtail + 1) % h.eqsize, msix0 := h.msix0 + 1 } }

/-- The graph handle of a launch tag (R385). -/
def tagHandle (tag : Word) : Nat := tag.toNat / 2 ^ 20
/-- A launch tag (R385). -/
def mkTag (handle node : Nat) : Word := toWord (handle * 2 ^ 20 + node)

/-- The 64 bytes of a fault record (R385). -/
def FaultRec.bytes (r : FaultRec) : List Byte :=
  leBytes 1 r.cause ++ leBytes 1 r.flags.toNat ++ leBytes 2 r.mask.toNat ++ leBytes 1 r.ctx ++ leBytes 3 0 ++
    leBytes 8 r.addr.toNat ++ leBytes 8 r.det.toNat ++ leBytes 8 r.time ++ leBytes 4 r.core.toNat ++ leBytes 1 r.wave ++
    leBytes 3 0 ++ leBytes 8 r.image ++ leBytes 8 r.num ++ leBytes 4 r.tag.toNat ++ leBytes 4 r.replay.toNat

/-- The die whose ring takes a record: that of its core, die 1 without one. -/
def FaultRec.die (r : FaultRec) : Nat := if r.core = BitVec.allOnes 32 then 1 else dieOf r.core.toNat

/-- The virtual die of a physical one (R400). -/
def Dispatcher.virtualDie (d : Dispatcher) (die : Nat) : Nat := if die = 0 then 0 else if die = d.vd1 then 1 else 2
/-- The physical die of a virtual one. -/
def Dispatcher.physicalDie (d : Dispatcher) (v : Nat) : Nat := if v = 0 then 0 else if v = 1 then d.vd1 else d.vd2
/-- A core's number on its virtual die, as images and records name it (R400). -/
def Dispatcher.virtualCore (d : Dispatcher) (core : Nat) : Nat := d.virtualDie (dieOf core) * 256 + core % 256

/-- The record as it is written: its core by its virtual die (R400). -/
def FaultRec.named (r : FaultRec) (d : Dispatcher) : FaultRec :=
  if r.core = BitVec.allOnes 32 then r else { r with core := toWord (d.virtualCore r.core.toNat) }

/-- A record is handed to the control core of its die; FAULT_RECORD_WRITE writes it (R385, R400; log entry 58). -/
def State.report (s : State) (r : FaultRec) : State := s.modDie r.die fun d => { d with waiting := d.waiting ++ [r.named s.disp] }

/-- RFLAGS.EVENT of a cause (R385): events are the causes from 0x30 on. -/
def eventFlag (cause : Nat) : BitVec 4 := if 0x30 ≤ cause then 8 else 0

/-- FAULTDET: DINFO, LV and LANE, DVAL (R384). See log entry 12. -/
def mkDet (dinfo : Nat) (lane : Option Nat) (dval : Nat) : DWord :=
  BitVec.ofNat 64 (dinfo % 2 ^ 16 * 2 ^ 48 + (match lane with
    | some l => 2 ^ 47 + l % 128 * 2 ^ 40
    | none => 0) + dval % 2 ^ 32)

/-- The details of a DIE_UNAVAILABLE: the die, by its virtual number (R386, R400). -/
def State.dieDet (s : State) (die : Nat) : DWord := mkDet 0 none (s.disp.virtualDie die)

/-- A record that names no core: the kind-L records (R385). -/
def State.recordL (s : State) (cause ctx : Nat) (addr det : DWord) (tag replay : Word) : FaultRec :=
  { cause := cause, flags := eventFlag cause, mask := 0, ctx := ctx, addr := addr, det := det, time := s.now, core := BitVec.allOnes 32,
    wave := 0xFF, image := 0, num := 0, tag := tag, replay := replay }

/-- A record of an event charged to a core (R385, R386). -/
def State.recordE (s : State) (cause ctx core : Nat) (det : DWord) : FaultRec :=
  { s.recordL cause ctx 0 det 0 0 with core := toWord core }

/-- The tag and replay number of a launch. -/
def State.tagOf (s : State) (launch : Nat) : Word × Word :=
  match s.launch? launch with
  | some l => (l.tag, l.replayNo)
  | none => (0, 0)

/-- A record of a block's wave; the image is entered when it is complete (R385). -/
def State.recordB (s : State) (x : Block) (cause : Nat) (flags : BitVec 4) (mask : BitVec 5) (addr det : DWord) (wave num : Nat) :
    FaultRec :=
  let t := s.tagOf x.launch
  { cause := cause, flags := flags ||| eventFlag cause, mask := mask, ctx := x.ctx, addr := addr, det := det, time := s.now, core := toWord x.core,
    wave := wave, image := 0, num := num, tag := t.1, replay := t.2 }

end Sys2Proof.Machine
end

