-- ==== Sys2Proof/Machine/Shapes.lean ====
section
/-! DEFINITION. Shape words and plane words of the matrix engine (R59, R294 to R298), and fields of records in memory. -/

namespace Sys2Proof.Machine

/-! ## Element codes (R59, R294) -/

/-- Bits of an element. -/
def codeBits (c : Nat) : Nat :=
  if c = 1 ∨ c = 2 ∨ c = 0xF then 32 else if c = 3 ∨ c = 4 then 16
  else if c = 7 ∨ c = 8 ∨ c = 0xC ∨ c = 0xD then 6 else if c = 9 ∨ c = 0xE then 4 else 8
/-- An MX code: a row carries a scale byte per 32 elements. -/
def codeMx (c : Nat) : Bool := decide (0xA ≤ c ∧ c ≤ 0xE)
/-- COLS must be a multiple of this. -/
def codeMult (c : Nat) : Nat := if codeMx c then 32 else if codeBits c = 6 then 4 else if codeBits c = 4 then 2 else 1
/-- A shape word (R295): rows, columns, code, bytes of a row image. -/
def tshRows (w : Word) : Nat := w.toNat / 2 ^ 12 % 2 ^ 7 + 1
@[inherit_doc tshRows] def tshCols (w : Word) : Nat := w.toNat / 2 ^ 19 % 2 ^ 12 + 1
@[inherit_doc tshRows] def tshCode (w : Word) : Nat := w.toNat % 32
@[inherit_doc tshRows] def tshRb (w : Word) : Nat :=
  tshCols w * codeBits (tshCode w) / 8 + (if codeMx (tshCode w) then tshCols w / 32 else 0)
/-- Fields 30:0 of a shape. -/
def tshShape (w : Word) : Word := w &&& 0x7FFFFFFF
/-- The shape keeps R296. -/
def tshOk (w : Word) : Bool :=
  decide (tshCode w < 0x10 ∧ tshCols w % codeMult (tshCode w) = 0 ∧ tshRows w * tshRb w ≤ 65536)

/-- FLOOR of a plane word. -/
def planeFloor (w : Word) : Int := sext 9 w.toNat

/-! ## Fields of records -/

/-- Bytes lo to lo + n - 1 are zero. -/
def zeroField (bs : List Byte) (lo n : Nat) : Bool := field bs lo n = 0
/-- A field of four bytes. -/
def word4 (bs : List Byte) (lo : Nat) : Word := toWord (field bs lo 4)
/-- A field of eight bytes. -/
def dword8 (bs : List Byte) (lo : Nat) : DWord := BitVec.ofNat 64 (field bs lo 8)
/-- Word k of four bytes, from byte lo on. -/
def wordAt (bs : List Byte) (lo k : Nat) : Word := toWord (field bs (lo + 4 * k) 4)
/-- Entry k of a list of records of n bytes. -/
def recordAt (bs : List Byte) (n k : Nat) : List Byte := (bs.drop (n * k)).take n

end Sys2Proof.Machine
end

