-- ==== Sys2Proof/Machine/ImageForm.lean ====
section
/-! DEFINITION. The form of saved images: where the sections stand (R395 to R398), when an image is valid (R399), and the acceptance of
requests about images (R391, R399, R402, R415). -/

namespace Sys2Proof.Machine

/-- MTX, NET and REN of a variant (R47). -/
def Variant.mtx (v : Variant) : Bool := v.flags.getLsbD 0
@[inherit_doc Variant.mtx] def Variant.net (v : Variant) : Bool := v.flags.getLsbD 1
@[inherit_doc Variant.mtx] def Variant.ren (v : Variant) : Bool := v.flags.getLsbD 2

/-! ## The places of the sections (R395, R397, R398) -/

/-- The next multiple of 64. -/
def alignImage (n : Nat) : Nat := (n + 63) / 64 * 64
/-- Bytes of a wave record. -/
def waveRecBytes (v : Variant) : Nat := 2048 + 4 * v.sregs + 512 * v.vregs
/-- Sizes of the sections waves, barriers, copies, engine queue, replies, matrix and scratchpad; 0 for an absent one. -/
def sectionSizes (v : Variant) (exited : Bool) (ncopy neq : Nat) : List Nat :=
  if exited then [0, 0, 128 + 128 * ncopy, 0, 0, 0, v.scratch]
  else [v.waves * waveRecBytes v, 512, 128 + 128 * ncopy, 640 * neq, 132096, if v.mtx then 1575552 else 0, v.scratch]
/-- Offset and size of each section, from the end of what stands before it. -/
def placeSections : Nat → List Nat → List (Nat × Nat)
  | _, [] => []
  | at', n :: r => if n = 0 then (0, 0) :: placeSections at' r else (alignImage at', n) :: placeSections (alignImage at' + n) r
/-- The sections of an image. -/
def sectionsOf (v : Variant) (exited : Bool) (ncopy neq : Nat) : List (Nat × Nat) :=
  placeSections 256 (sectionSizes v exited ncopy neq)
/-- ISIZE. -/
def imageBytes (l : List (Nat × Nat)) : Nat := l.foldl (fun m p => max m (p.1 + p.2)) 256

/-! ## Validity (R399) -/

/-- The bytes of section k of an image. -/
def State.sectionAt (s : State) (i : Image) (k : Nat) : List Byte :=
  match (sectionsOf i.var i.exited i.copies.length i.queue.length)[k]? with
  | some p => s.bytes (i.addr + p.1) p.2
  | none => []

/-- The header is valid. -/
def State.headerValid (s : State) (i : Image) : Bool :=
  let h := s.bytes i.addr 256
  let n (lo k : Nat) := field h lo k
  let v := i.var
  let secs := sectionsOf v i.exited i.copies.length i.queue.length
  decide (n 0 4 = 0x474D4944 ∧ n 4 2 = 1 ∧ n 7 1 < 16 ∧ n 22 1 < 4 ∧ n 24 4 < 2 ^ 10 ∧ n 44 4 < 128) && zeroField h 124 132 &&
  decide (n 7 1 % 2 = (if v.mtx then 1 else 0) ∧ n 7 1 / 8 = (if i.exited then 1 else 0)) &&
  decide (n 8 8 = v.kernel ∧ n 16 1 = v.index ∧ n 17 1 = (if i.exited then 0 else v.waves) ∧ n 18 2 = v.sregs ∧ n 20 1 = v.vregs ∧
    n 21 1 = v.rotv ∧ n 32 4 = v.scratch) &&
  decide (n 56 8 = imageBytes secs ∧ n 120 2 = i.copies.length ∧ n 122 2 = i.queue.length) &&
  secs.zipIdx.all fun p => decide (n (64 + 8 * p.2) 8 = p.1.1)

/-- A wave record is valid. -/
def waveValid (v : Variant) (bs : List Byte) : Bool :=
  zeroField bs 1810 2 && zeroField bs 1864 184 && zeroField bs 1844 1 &&
  decide (field bs 1848 1 ≤ 4 ∧ field bs 1851 1 < 4 ∧ field bs 1824 4 < 64) && word4 bs 1828 &&& 0xFFFFFEE0 = 0 &&
  ((List.range 128).all fun l => decide (field bs (16 + 8 * l) 8 < 2 ^ 52 ∧ field bs (16 + 8 * l) 8 % 8 = 0)) &&
  decide (field bs 1817 1 = v.rotv ∧ field bs 1818 2 = 0) &&
  (if v.rotv = 0 then decide (field bs 1816 1 = 0) else decide (field bs 1816 1 < v.rotv))

/-- A barrier record is valid. -/
def barrierValid (v : Variant) (bs : List Byte) : Bool :=
  zeroField bs 20 12 && decide (field bs 4 2 < 2 ^ v.waves) && word4 bs 6 &&& 0xFFFF &&& ~~~(word4 bs 4) = 0

/-- The reserved bits of WIN.0 to WIN.7 at a place are zero (R314). -/
def winReserved (bs : List Byte) (lo : Nat) : Bool :=
  [(0, 22), (2, 22), (3, 12), (7, 8)].all fun p => decide ((wordAt bs lo p.1).toNat < 2 ^ p.2)

/-- The reserved fields of a copy entry, or of an engine-queue entry with its format slot, shapes and window, are zero (R58, R295,
R398). -/
def entryValid (bs : List Byte) : Bool := zeroField bs 68 4 && decide (field bs 56 1 ≤ 1)
@[inherit_doc entryValid] def queuedValid (bs : List Byte) : Bool :=
  entryValid bs && zeroField bs 82 2 && ((List.range 3).all fun k => wordAt bs 84 k &&& 0xFE0 = 0) && winReserved bs 96

/-- The matrix section is valid. -/
def matrixValid (bs : List Byte) : Bool :=
  zeroField bs 1050716 4 && decide (field bs 1050704 4 < 16) && winReserved bs 1050720 &&
  ((List.range 16).all fun k => tshOk (wordAt bs 1050624 k) && wordAt bs 1050624 k &&& 0xFE0 = 0) &&
  ((List.range 4).all fun k =>
    let w := wordAt bs 1050688 k
    decide (-160 ≤ planeFloor w ∧ planeFloor w ≤ 127) && w &&& 0xFFF8F800 = 0) &&
  (List.range 65536).all fun k => decide (field bs (1051264 + 8 * k + 6) 2 / 2 ^ 7 = 0 ∨ field bs (1051264 + 8 * k + 6) 2 / 2 ^ 7 = 2 ^ 9 - 1)

/-- The whole image is valid. -/
def State.imageValid (s : State) (i : Image) : Bool :=
  let cs := s.sectionAt i 2
  let waves := s.sectionAt i 0
  let bars := s.sectionAt i 1
  let replies := s.sectionAt i 4
  s.headerValid i &&
  ((List.range 4).all fun k => zeroField (recordAt cs 32 k) 17 15) &&
  ((List.range i.copies.length).all fun k => entryValid (recordAt (cs.drop 128) 128 k)) &&
  (i.exited ||
    (((List.range i.var.waves).all fun k => waveValid i.var (recordAt waves (waveRecBytes i.var) k)) &&
     ((List.range 16).all fun k => barrierValid i.var (recordAt bars 32 k)) &&
     ((List.range i.queue.length).all fun k => queuedValid (recordAt (s.sectionAt i 3) 640 k)) &&
     ((List.range 512).all fun k => decide (field replies (2 * k) 1 ≤ 16)) &&
     (!i.var.mtx || matrixValid (s.sectionAt i 5))))

/-! ## Acceptance of requests (R391, R399, R415) -/

/-- The image at an address that the device wrote. -/
def State.imageAt (s : State) (addr : Nat) : Option Image := s.images.find? fun i => i.addr = addr

/-- FIRMWARE_ABORT with a reason (R399). -/
def State.firmwareAbort (s : State) (reason : Nat) (i : Option Image) : State :=
  match i with
  | some i =>
    let t := s.tagOf i.launch
    s.report { s.recordE 0x3E i.ctx i.core (mkDet reason none 0) with image := i.addr, tag := t.1, replay := t.2 }
  | none => s.report (s.recordL 0x3E 0 0 (mkDet reason none 0) 0 0)

/-- Why a request is refused as the dispatcher takes it, 0 where it is not: 3 a second restore for an image, 1 an invalid image, 2 a
poisoned one (R399, R415). -/
def State.refusal (s : State) (r : Request) : Nat :=
  if r.action < 2 ∧ s.disp.requests.any fun q => decide (q.image = r.image ∧ q.action < 2) then 3
  else match s.imageAt r.image with
    | none => 1
    | some i =>
      if 2 ≤ r.action then (if s.headerValid i then 0 else 1)
      else if !s.imageValid i then 1
      else if field (s.bytes i.addr 256) 44 4 ≠ 0 then 2
      else 0

/-- A request about an image enters the dispatcher's queue, or is refused with a record. -/
def State.acceptRequest (s : State) (r : Request) : State :=
  let n := s.refusal r
  if n ≠ 0 then s.firmwareAbort n (s.imageAt r.image)
  else { s with disp := { s.disp with requests := s.disp.requests ++ [r] } }

end Sys2Proof.Machine
end

