-- ==== Sys2Proof/Machine/Walk.lean ====
section
/-! DEFINITION. Address translation: page-table entries, walks of a die's replica, first touch, permissions, TLBs (R230 to R241),
and the scratchpad ranges of a context (R226 to R228). -/

namespace Sys2Proof.Machine

/-- The kind of an access, with its code in DINFO (R386). -/
inductive XKind where
  | load
  | store
  | atomic
  | fetch
  | engine
  /-- An engine that writes. -/
  | engineW
  /-- A prefetch, which needs no permission. -/
  | pref
  deriving DecidableEq, Repr

/-- The code of an access kind (R386). -/
def XKind.code : XKind → Nat
  | .load => 0
  | .store => 1
  | .atomic => 2
  | .fetch => 3
  | .pref => 0
  | _ => 4

/-- A failed address check: cause, FAULTADDR, DINFO, DVAL (R226, R228, R234, R235, R241). -/
structure XFault where
  cause : Nat
  addr : DWord
  dinfo : Nat
  dval : Nat
  deriving DecidableEq, Repr

/-! ## Entries, R231 -/

/-- TYPE. -/
def pteType (e : DWord) : Nat := (e.extractLsb' 0 2).toNat
/-- G. -/
def pteG (e : DWord) : Bool := e.getLsbD 2
/-- HOME. -/
def pteHome (e : DWord) : Nat := (e.extractLsb' 3 2).toNat
/-- RD, W and X. -/
def pteRd (e : DWord) : Bool := e.getLsbD 5
@[inherit_doc pteRd] def pteW (e : DWord) : Bool := e.getLsbD 6
@[inherit_doc pteRd] def pteX (e : DWord) : Bool := e.getLsbD 7
/-- The address of the frame or the next table. -/
def pteFrame (e : DWord) : Nat := (e.extractLsb' 12 36).toNat * 2 ^ 12
/-- The reserved bits are zero. -/
def pteReservedOk (e : DWord) : Bool := e.extractLsb' 48 16 = (0 : BitVec 16) && e.extractLsb' 8 4 = (0 : BitVec 4)

/-- The lowest VA bit a level indexes (R230). -/
def levelShift (level : Nat) : Nat :=
  match level with
  | 0 => 48
  | 1 => 39
  | 2 => 30
  | 3 => 21
  | _ => 12

/-- The index of an address at a level. -/
def levelIndex (level va : Nat) : Nat := va / 2 ^ levelShift level % (if level = 0 then 16 else 512)

/-- Bytes of a leaf at a level, or of a group (R230). -/
def leafSize (level : Nat) (g : Bool) : Nat := 2 ^ levelShift level * (if g then 16 else 1)

/-- The number of a page size, 0 (4 KiB) to 5 (16 GiB), as the pools are numbered (R240). -/
def sizeCode (level : Nat) (g : Bool) : Nat := (4 - level) * 2 + (if g then 1 else 0)

/-- The first n bytes from pa all lie in region r. -/
def inRegion (r : Region) (pa n : Nat) : Bool :=
  match r with
  | .hbm => decide (pa + n ≤ 0x6000000000)
  | .mmio => decide (0xA000000000 ≤ pa ∧ pa + n ≤ 0xA100000000)
  | .host => decide (0x800000000000 ≤ pa ∧ pa + n ≤ 0x1000000000000)
  | .scratch =>
    decide (region pa = .scratch ∧ region (pa + n - 1) = .scratch) && decide (windowCore pa = windowCore (pa + n - 1))
  | .none => false

/-- A range of a core's scratchpad meets no resident block's allocation (R233, R245). -/
def State.clearOfBlocks (s : State) (core off n : Nat) : Bool :=
  s.blocks.values.all fun b => decide (b.core ≠ core ∨ off + n ≤ b.base ∨ b.base + b.var.scratch ≤ off)

/-- A leaf keeps R233: HOME agrees with the region of its frame and with its size, and every byte is backed. -/
def State.leafOk (s : State) (level : Nat) (e : DWord) : Bool :=
  let size := leafSize level (pteG e)
  let pa := pteFrame e
  (!pteG e || pa % size = 0) &&
  match pteHome e with
  | 1 =>
    inRegion .scratch pa size && decide (level = 4) && decide (windowOff pa + size ≤ dequeBase (windowCore pa)) &&
      s.clearOfBlocks (windowCore pa) (windowOff pa) size
  | 3 => inRegion .hbm pa size || inRegion .mmio pa size || inRegion .host pa size
  | _ => inRegion .hbm pa size

/-- The entry is one a walker may meet at a level (R231, R233, R235). -/
def State.entryOk (s : State) (level : Nat) (e : DWord) : Bool :=
  pteReservedOk e &&
  match pteType e with
  | 0 => true
  | 1 => decide (level ≠ 4) && e.extractLsb' 2 6 = (0 : BitVec 6)
  | 2 => decide (2 ≤ level) && s.leafOk level e
  | _ => decide (2 ≤ level) && pteHome e = 0 && pteFrame e = 0

/-- Where a walk ends. -/
inductive WalkEnd where
  /-- At a leaf: its level and value. -/
  | leaf (level : Nat) (e : DWord)
  /-- At an unbacked leaf: its level, its value and the master address of its entry. -/
  | unbacked (level : Nat) (e : DWord) (at' : Nat)
  | unmapped
  | corrupt (level : Nat)
  deriving DecidableEq, Repr

/-- The address at which die d holds the table of a master address (R232). -/
def State.replicaPa (s : State) (d master : Nat) : Nat := master + (s.die d).tableBase - (s.die 1).tableBase

/-- A table entry cannot be read: an uncorrectable error, or poison (R235, R387). -/
def State.entryBad (s : State) (pa : Nat) : Bool := (s.badData pa 8 0 none).isSome

/-- A walk of die d's replica from the table at a master address; level counts down the tree (R230, R236). See log entry 22. -/
def State.walk (s : State) (d va : Nat) : Nat → Nat → Nat → WalkEnd
  | 0, _, _ => .unmapped
  | fuel + 1, level, table =>
    let at' := table + 8 * levelIndex level va
    let e : DWord := BitVec.ofNat 64 (s.num (s.replicaPa d at') 8)
    if s.entryBad (s.replicaPa d at') || !s.entryOk level e then .corrupt level
    else match pteType e with
      | 0 => .unmapped
      | 1 => State.walk s d va fuel (level + 1) (pteFrame e)
      | 2 => .leaf level e
      | _ => .unbacked level e at'

/-- The master address of a context's root table (R232). -/
def rootOf (ptbase : DWord) : Nat := (ptbase.extractLsb' 7 41).toNat * 128

/-- An entry written into the master and both replicas (R237). See log entry 29. -/
def State.writeEntry (s : State) (master : Nat) (e : DWord) : State :=
  [1, 0, 2].foldl (fun t d => t.writeNum 0 (t.replicaPa d master) 8 e.toNat) s

/-- The master entries of a leaf or group (R230). -/
def groupEntries (master : Nat) (g : Bool) : List Nat :=
  if g then (List.range 16).map fun i => master / 128 * 128 + 8 * i else [master]

/-- A frame lies outside every table region (R232, R238). -/
def State.outsideTables (s : State) (pa n : Nat) : Bool :=
  [0, 1, 2].all fun d =>
    let b := (s.die d).tableBase
    decide (pa + n ≤ b ∨ b + Config.tableRegion ≤ pa)

/-- A frame that a die's pool of a size may hold: of that die's HBM, aligned, outside the table regions (R238, R240). -/
def State.frameOk (s : State) (d pa n : Nat) : Bool :=
  inRegion .hbm pa n && pa % n = 0 && stackDie (stackOf pa) = d && stackDie (stackOf (pa + n - 1)) = d && s.outsideTables pa n

/-- No core data cache holds a line of the bytes lo to hi - 1: a page bound by first touch reads as zero to every observer (R345). -/
def State.dropFrame (s : State) (lo hi : Nat) : State :=
  { s with cores := Table.map (fun _ c => { c with dcache := c.dcache.filter fun l => decide (l.pa + 128 ≤ lo ∨ hi ≤ l.pa) }) s.cores }

/-- The leaf that first touch writes: frame f, HOME 00, the unbacked leaf's RD, W, X and G (R240). -/
def boundLeaf (f : Nat) (e : DWord) : DWord := BitVec.ofNat 64 f &&& 0x0000FFFFFFFFF000 ||| (e &&& 0xE4) ||| 2

/-- What first touch comes to (R240, R241). -/
inductive Touch where
  /-- The pool is empty. -/
  | empty
  /-- The compare-and-swap fails: another update won. -/
  | lost
  /-- The page is bound. -/
  | bound (leaf : DWord)
  deriving DecidableEq, Repr

/-- First touch on die d (R240, R241): a frame of the leaf's size is taken from the die's pool and the engine compares the master
entries with the unbacked value and writes them; where that fails the frame goes back to the head of its pool. A pool that falls
to 16 frames posts a refill request. See log entry 72. -/
def State.firstTouch (s : State) (d level : Nat) (e : DWord) (master : Nat) : State × Touch :=
  let code := sizeCode level (pteG e)
  let size := leafSize level (pteG e)
  match Table.get [] (s.die d).pools code with
  | [] => (s, .empty)
  | f :: fs =>
    if !s.frameOk d f size || (groupEntries master (pteG e)).any fun m => decide (s.num m 8 ≠ e.toNat) then (s, .lost)
    else
      let s := s.modDie d fun x =>
        { x with pools := x.pools.put code fs, refill := if fs.length = 16 then x.refill.put code true else x.refill }
      (((groupEntries master (pteG e)).foldl (fun t m => t.writeEntry m (boundLeaf f e)) s).dropFrame f (f + size),
        .bound (boundLeaf f e))

/-- The leaf grants the access (R234). -/
def permits (k : XKind) (e : DWord) : Bool :=
  match k with
  | .load => pteRd e
  | .engine => pteRd e
  | .store => pteW e
  | .engineW => pteW e
  | .atomic => pteRd e && pteW e
  | .fetch => pteX e && decide (pteHome e ≠ 3)
  | .pref => true

/-- A translated access: physical address and HOME. -/
structure Xlat where
  pa : Nat
  home : Nat
  deriving DecidableEq, Repr

/-- The physical address of va under a leaf of a size. -/
def leafPa (e : DWord) (size va : Nat) : Nat := pteFrame e + va % size

/-- The level of a page of a size. -/
def sizeLevel (size : Nat) : Nat := if 2 ^ 30 ≤ size then 2 else if 2 ^ 21 ≤ size then 3 else 4

/-- A leaf checked and applied; a mapping that covers an unbacked byte is corrupt (R229, R235). -/
def useLeaf (k : XKind) (va : Nat) (e : DWord) (size : Nat) : Except XFault Xlat :=
  if region (leafPa e size va) = .none then .error ⟨0x2F, BitVec.ofNat 64 va, sizeLevel size, 0⟩
  else if permits k e then .ok ⟨leafPa e size va, pteHome e⟩
  else .error ⟨0x0D, BitVec.ofNat 64 va, k.code, 0⟩

/-- Translation of a global address on die d, through a core's TLB where there is one (R234 to R241). A walker whose compare-and-swap
lost walks again and finds the update that won; a prefetch binds no page (R256). See log entries 50 and 72. -/
def State.translate (s : State) (d : Nat) (core : Option Nat) (ctx va : Nat) (k : XKind) : State × Except XFault Xlat :=
  let hit := core.bind fun c => (s.core c).tlb.find? fun t => decide (t.ctx = ctx ∧ t.va ≤ va ∧ va < t.va + t.size)
  match hit with
  | some t => (s, useLeaf k va t.leaf t.size)
  | none =>
    let fault (cause dinfo dval : Nat) : XFault := ⟨cause, BitVec.ofNat 64 va, dinfo, dval⟩
    let fill (s : State) (level : Nat) (e : DWord) : State × Except XFault Xlat :=
      let size := leafSize level (pteG e)
      let s := match core with
        | some c => s.modCore c fun x => { x with tlb := (⟨ctx, va / size * size, size, e⟩ :: x.tlb).take 1024 }
        | none => s
      (s, useLeaf k va e size)
    if !s.ctxExists ctx then (s, .error (fault 0x0B k.code 0))
    else match s.walk d va 5 0 (rootOf (s.ctx ctx).ptbase) with
      | .unmapped => (s, .error (fault 0x0B k.code 0))
      | .corrupt level => (s, .error (fault 0x2F level 0))
      | .leaf level e => fill s level e
      | .unbacked level e master =>
        if k = .pref then (s, .error (fault 0x0B 0 0))
        else match s.firstTouch d level e master with
          | (s, .empty) => (s, .error (fault 0x0C k.code (leafSize level (pteG e) / 1024)))
          | (s, .bound leaf) => fill s level leaf
          | (s, .lost) =>
            match s.walk 1 va 5 0 (rootOf (s.ctx ctx).ptbase) with
            | .leaf level e => fill s level e
            | .corrupt level => (s, .error (fault 0x2F level 0))
            | _ => (s, .error (fault 0x0B k.code 0))

/-! ## Scratchpad ranges (R226 to R228, R245) -/

/-- The ranges of a context in a core's scratchpad: block allocations, pinned pages and stream rings (R228). -/
def State.rangesOf (s : State) (core ctx : Nat) : List (Nat × Nat) :=
  ((s.blocks.values.filter fun b => decide (b.core = core ∧ b.ctx = ctx)).map fun b => (b.base, b.base + b.var.scratch)) ++
  (((s.core core).pins.filter fun p => decide (p.2.2 = ctx)).map fun p => (p.1, p.1 + p.2.1)) ++
  (((s.core core).rings.values.filter fun r => r.valid && decide (r.ctx = ctx)).map fun r =>
    (r.base * 4096, r.base * 4096 + r.slots * r.slotsz * 256))

/-- A range lies wholly inside one range of the context. -/
def State.ownsRange (s : State) (core ctx o n : Nat) : Bool := (s.rangesOf core ctx).any fun r => decide (r.1 ≤ o ∧ o + n ≤ r.2)

/-- An address after the checks of R226 in their order: range, alignment, then (global) translation and permission. n is the
access size and align what the address must be a multiple of. See log entry 14. -/
def State.address (s : State) (x : Block) (space : Nat) (base : Int) (tile : Nat) (n align : Nat) (k : XKind) :
    State × Except XFault Xlat :=
  let a64 (v : Int) : DWord := BitVec.ofInt 64 v
  match space with
  | 0 =>
    if base < 0 ∨ 2 ^ 52 < base + n then (s, .error ⟨0x0B, a64 base, k.code, 0⟩)
    else if base.toNat % align ≠ 0 then (s, .error ⟨0x09, a64 base, 0, n⟩)
    else s.translate (dieOf x.core) (some x.core) x.ctx base.toNat k
  | 1 =>
    if base < 0 ∨ (x.var.scratch : Int) < base + n ∨ (scratchSize x.core : Int) < x.base + base + n ∨ !coreExists x.core then (s, .error ⟨0x0F, a64 base, 0, n⟩)
    else if base.toNat % align ≠ 0 then (s, .error ⟨0x09, a64 base, 0, n⟩)
    else (s, .ok ⟨windowPa x.core (x.base + base.toNat), 1⟩)
  | _ =>
    let addr := a64 ((tile : Int) * 2 ^ 32 + base % 2 ^ 32)
    let target := x.core / 128 * 128 + tile
    if clusterSize (dieOf x.core) ≤ tile then (s, .error ⟨0x10, addr, 0, tile⟩)
    else if base < 0 ∨ (scratchSize target : Int) < base + n ∨ !s.ownsRange target x.ctx base.toNat n then (s, .error ⟨0x0F, addr, 0, n⟩)
    else if base.toNat % align ≠ 0 then (s, .error ⟨0x09, addr, 0, n⟩)
    else (s, .ok ⟨windowPa target base.toNat, 1⟩)

end Sys2Proof.Machine
end

