-- ==== Sys2Proof/Machine/Ops.lean ====
section
/-! DEFINITION. The shared operations of issuing work: stopping a wave with a fault and letting it go on (R379 to R384, R391), what
a syllable stages and what a bundle commits (R121, R165), and what follows from a commit or from a performed access: barriers,
releases, fences, retirement (R336, R338, R353, R354, R362). -/

namespace Sys2Proof.Machine

/-! ## Taking an exception -/

/-- The stop registers of a wave that has raised nothing at this stop (R382). -/
def Wave.clearStop (y : Wave) : Wave := { y with cause := 0, fmask := 0, faddr := 0, fdet := 0 }

/-- The stop registers of a wave that raises a cause (R382 to R384); the first cause of a stop stays. -/
def Wave.setStop (y : Wave) (cause : Nat) (fmask : Word) (addr det : DWord) : Wave :=
  if y.cause = 0 then { y with cause := toWord cause, fmask := fmask, faddr := addr, fdet := det } else y

/-- A standing switch request is withdrawn: the threads held at its point pass it as a NOP (R179, R415). -/
def Block.withdraw (x : Block) : Block :=
  match x.switch with
  | none => x
  | some q =>
    { x with
      switch := none
      passing := List.foldl (fun t (e : Nat × Lanes) => Table.set 0 t e.1 (Table.get 0 t e.1 ||| e.2)) x.passing q.held }

/-- A block stops, or joins the stop that stands: a fault decides over a request of the system, and a standing switch request is
withdrawn (R379, R381, R415). -/
def Block.addStop (x : Block) (icause : Nat) (recs : List FaultRec) : Block :=
  let x := x.withdraw
  match x.stop with
  | none => { x with stop := some ⟨icause, recs, none, 0⟩, waves := Table.map (fun _ y => y.clearStop) x.waves }
  | some st =>
    if 0x30 ≤ st.icause ∧ st.icause ≤ 0x33 ∧ ¬(0x30 ≤ icause ∧ icause ≤ 0x33) then
      { x with stop := some ⟨icause, st.records ++ recs, none, 0⟩ }
    else { x with stop := some { st with records := st.records ++ recs } }

/-- Block b stops (R379). -/
def State.stopBlock (s : State) (b icause : Nat) (recs : List FaultRec) : State := s.modBlock b fun x => x.addStop icause recs

/-- A cause becomes a DOUBLE_FAULT of a die: the Daybreak monitor handles it next, with the details of its record (R386, R390). -/
def State.doubleFault (s : State) (die : Nat) (r : FaultRec) : State :=
  (s.modDie die fun d => { d with double := d.double.or (some r) }).andThen [.doubleFault die (BitVec.ofNat 6 r.cause)]

/-- Wave w of block b stops with a cause: the stop registers are written, a record joins the block's stop, and a privileged
wave's cause becomes a DOUBLE_FAULT (R379 to R384, R390). The PC is the stopping point already: a wave stands between bundles.
This one operation takes every exception of a wave. -/
def State.stopWave (s : State) (b w cause : Nat) (flags : BitVec 4) (fmask : Word) (addr det : DWord) (num : Nat) : State :=
  match s.block? b with
  | none => s
  | some x =>
    let r := s.recordB ((x.waves.find? w).elim x x.seenBy) cause flags (fmask.extractLsb' 0 5) addr det w num
    let s := s.stopBlock b cause [r]
    let s := s.modWave b w fun y => (y.setStop cause fmask addr det)
    if x.priv then s.doubleFault (dieOf x.core) r else s

/-- An asynchronous cause of a wave: FAULTMASK.ASYNC (R383). -/
def State.asyncFault (s : State) (b w cause : Nat) (flags : BitVec 4) (addr det : DWord) (num : Nat) : State :=
  s.stopWave b w cause (flags ||| 1) 0x100 addr det num

/-- An asynchronous cause of a block that no wave raised: the record names no wave (R385; log entry 30). -/
def State.asyncBlock (s : State) (b cause : Nat) (flags : BitVec 4) (addr det : DWord) (num : Nat) : State :=
  match s.block? b with
  | none => s
  | some x =>
    let r := s.recordB x cause (flags ||| 1) 0 addr det 0xFF num
    let s := s.stopBlock b cause [r]
    if x.priv then s.doubleFault (dieOf x.core) r else s

/-- A record without a block: a cause charged to a context (kind C). -/
def State.charge (s : State) (cause : Nat) (flags : BitVec 4) (ctx core : Nat) (addr det : DWord) (tag replay : Word) : State :=
  s.report { s.recordL cause ctx addr det tag replay with flags := flags ||| eventFlag cause, core := toWord core }

/-- The failing stage that decides: issue checks before execution checks (R381). -/
def stageOf (rs : List Raise) : Nat := if rs.any fun r => r.stage = 0 then 0 else 1

/-- The deciding failure of a bundle and the slots that fail at its stage (R381). -/
def decideRaise (rs : List Raise) : Option (Raise × BitVec 5) :=
  let l := rs.filter fun r => r.stage = stageOf rs
  let first := (List.range 5).findSome? fun k => l.find? fun r => r.slot = k
  first.map fun r => (r, slotMask (l.map fun r => r.slot))

/-- FAULTDET of a failed check. -/
def Raise.det (r : Raise) : DWord := mkDet r.dinfo.toNat r.lane r.dval.toNat

/-- The return from a stop: a restored wave goes on at its stopping point, or, skipped after a fault of kind D or S, at the next
bundle, n syllables on (R391). Lanes are those that stand at the stopping PC. -/
def Wave.resumeAt (y : Wave) (skip : Option (PC × Nat)) : Wave :=
  match skip with
  | none => y
  | some (at', n) => (lanesOf (y.lanesAt at')).foldl (fun y l => y.setPc l (at' + BitVec.ofNat 53 (8 * n))) y

/-! ## What a syllable sees and what it does -/

/-- The block, the wave and the issue in hand. -/
structure Env where
  s : State
  iu : Issue
  x : Block
  y : Wave
  deriving DecidableEq, Repr

/-- What a syllable of a bundle comes to. -/
inductive Act where
  /-- Its effects, for the bundle's commit. -/
  | eff (l : List Eff)
  /-- A failed check. -/
  | fail (r : Raise)
  /-- The bundle is held at issue (R164). -/
  | hold
  /-- The bundle is held because a deque or a named queue is full (R107, R375). -/
  | holdFull
  /-- The same for a request that waits at a named queue (R376, R377): the queue, and whether it is a full one. -/
  | holdQueue (q : Nat) (full : Bool)
  deriving DecidableEq, Repr

/-- The bundle in hand, if one is issuing; its syllables see the block in the wave's context (R121, R141). -/
def State.env (s : State) : Option Env :=
  match s.cur with
  | none => none
  | some iu =>
    match s.block? iu.block with
    | none => none
    | some x => (x.waves.find? iu.wave).map fun y => ⟨s, iu, { x with ctx := iu.ctx }, y⟩

/-- An issue check (stage 0) or an execution check (stage 1) fails. -/
def failWith (stage cause : Nat) (addr : DWord) (dinfo : Nat) (lane : Option Nat) (dval : Nat) : Act :=
  .fail ⟨stage, 0, cause, addr, BitVec.ofNat 16 dinfo, lane, toWord dval⟩

/-- A check that names only a detail value. -/
def failVal (stage cause dval : Nat) : Act := failWith stage cause 0 0 none dval

/-- A failed address check of a lane (R226). -/
def failAddr (f : XFault) (lane : Option Nat) : Act := failWith 1 f.cause f.addr f.dinfo lane f.dval

/-- The staged outcome of a syllable in a slot. -/
def Issue.stage (iu : Issue) (slot : Nat) (a : Act) : Issue :=
  match a with
  | .eff l => { iu with effs := iu.effs ++ l }
  | .fail r => { iu with raised := iu.raised ++ [{ r with slot := slot }] }
  | .hold => { iu with held := true }
  | .holdFull => { iu with held := true, full := true }
  | .holdQueue q f => { iu with held := true, full := f, ask := some (q, f) }

/-- The address after the bundle (R115, R171). See log entry 47. -/
def Issue.next (iu : Issue) : PC := iu.here + BitVec.ofNat 53 (8 * iu.len)

/-- The generator state a lane has for the next draw: that of an earlier syllable of the bundle, or the wave's (R30). -/
def Env.rngOf (e : Env) (l : Nat) : Word :=
  let staged := e.iu.effs.reverse.findSome? fun f => match f with
    | .setRng k v => if k = l then some v else none
    | _ => none
  staged.getD (e.y.rngOf l)

/-! ## Synchronising objects -/

/-- Wave w of the block has retired, or the variant holds no such wave (R360, R416). -/
def Block.waveRetired (x : Block) (w : Nat) : Bool :=
  match x.waves.find? w with
  | some y => y.living = 0
  | none => true

/-- An arrival counts: its release has been performed (R354). -/
def Barrier.counts (r : Barrier) (w : Nat) : Bool := r.arrv.getLsbD w && !r.pend.getLsbD w

/-- The three conditions of R353; a retirement counts for the first only of a wave that PART names (R360). -/
def Block.phaseDone (x : Block) (r : Barrier) : Bool :=
  let ws := List.range 16
  (r.retiredNow &&& r.part ≠ 0 || ws.any fun w => r.counts w) &&
  (ws.all fun w => !r.part.getLsbD w || r.counts w || x.waveRetired w) && decide (r.expb.toNat ≤ r.cred.toNat)

/-- BARRIER_PHASE_COMPLETE (R353). -/
def Barrier.complete (r : Barrier) : Barrier :=
  { r with phase := r.phase + 1, arrv := 0, pend := 0, cred := r.cred - r.expb, expb := r.ebase, retiredNow := 0 }

/-- Barrier n tested, and its phase completed where R353 says so. -/
def Block.settleBarrier (x : Block) (n : Nat) : Block :=
  let r := x.barrier n
  if x.phaseDone r then x.setBarrier n r.complete else x

/-- Every barrier of the block tested, at the end of a cycle (R353). -/
def Block.settleBarriers (x : Block) : Block := (List.range 16).foldl Block.settleBarrier x

/-- The retirement of wave w seen by the block's barriers (R353, R360). -/
def Block.noteRetired (x : Block) (w : Nat) : Block :=
  (List.range 16).foldl (fun x n =>
    let r := x.barrier n
    x.setBarrier n { r with retiredNow := r.retiredNow ||| (1 : BitVec 16) <<< w }) x

/-- The member blocks of a cohort entry (R61). -/
def Cohort.members (c : Cohort) : List Nat := (List.range c.count).map fun i => c.first + i * c.stride
/-- The entry is a barrier domain, or a multicast domain (R61). -/
def Cohort.isBarrier (c : Cohort) : Bool := c.kinds.getLsbD 0
@[inherit_doc Cohort.isBarrier] def Cohort.isMulticast (c : Cohort) : Bool := c.kinds.getLsbD 1

/-- The resident block of a launch with a linear index. -/
def State.blockOf? (s : State) (launch blin : Nat) : Option (Nat × Block) :=
  List.find? (fun (e : Nat × Block) => decide (e.2.launch = launch ∧ e.2.blin = blin) && !e.2.task) s.blocks

/-- A member block has arrived: each of its waves has arrived or retired (R362; log entry 26). -/
def State.memberArrived (s : State) (launch : Nat) (c : Cohort) (m : Nat) : Bool :=
  match s.blockOf? launch m with
  | none => false
  | some (_, x) =>
    x.waves.all fun e => (c.warr.contains (m, e.1) && !c.wpend.contains (m, e.1)) || e.2.living = 0

/-- COHORT_PHASE_COMPLETE (R362): arrivals of blocks are entered, and the phase completes once every member has arrived or
exited, one of them having arrived. See log entry 26. -/
def State.settleCohort (s : State) (launch k : Nat) : State :=
  match s.launch? launch with
  | none => s
  | some l =>
    match l.cohorts[k]? with
    | none => s
    | some c =>
      if !c.isBarrier then s else
      let arrived := c.members.filter fun m => c.arrived.contains m || s.memberArrived launch c m
      if !arrived.isEmpty && c.members.all fun m => arrived.contains m || l.exited.contains m then
        s.modCohort launch k fun c => { c with cphase := c.cphase + 1, arrived := [], warr := [], wpend := [] }
      else s.modCohort launch k fun c => { c with arrived := arrived }

/-- Every cohort of a launch tested. -/
def State.settleCohorts (s : State) (launch : Nat) : State :=
  match s.launch? launch with
  | none => s
  | some l => (List.range l.cohorts.length).foldl (fun s k => s.settleCohort launch k) s

/-- An acquire at a scope: at cluster scope or wider the core's data cache loses every line (R336). -/
def State.acquire (s : State) (core scope : Nat) : State :=
  if 2 ≤ scope then s.modCore core fun c => { c with dcache := [] } else s

/-- A shared timeline receives a signal, on die 1 if that is in service (R364, R366). -/
def State.signal (s : State) (ctx n : Nat) (inc : Bool) (v : DWord) : State :=
  let old := (s.timeline ctx n).toNat
  if !(s.die 1).inService then s
  else s.setTimeline ctx n (BitVec.ofNat 64 (if inc then min (old + v.toNat) (2 ^ 64 - 1) else max old v.toNat))

/-- The three links to the neighbour through which a module is reached (R15; log entry 56). -/
def linksTo (m : Nat) : List Nat := (List.range 3).map fun k => 3 * (Config.peerRoute m % 4) + k

/-- A peer module can be reached by a context: a link of its neighbour is up and the context is paired (R15, R269, R426).
See log entry 56. -/
def State.peerReady (s : State) (ctx m : Nat) : Bool :=
  ((linksTo m).any fun l => s.fw.peersUp.getLsbD l) && (s.ctx ctx).peers.contains m

/-- The release of a signal: its timeline, or the peer module's (R366). A signal to a module that cannot be reached, or to a die out of
service, stops the issuing block, if it still stands (R364, R390). -/
def State.deliver (s : State) (b w ctx : Nat) (handle : Word) (inc : Bool) (v : DWord) : State :=
  if handle.toNat / 2 ^ 28 = 2 then
    if (s.die 1).inService then s.signal ctx (handle.toNat % 4096) inc v else s.asyncFault b w 0x23 0 0 (s.dieDet 1) 0
  else
    let m := handle.toNat / 4096 % 256
    if s.peerReady ctx m then s else s.asyncFault b w 0x22 2 0 (mkDet 0 none m) 0

/-! ## The store queue -/

/-- A load or store of the wave numbered below sid is not yet performed. -/
def Wave.earlierOpen (y : Wave) (sid : Nat) (loadsOnly : Bool) : Bool :=
  y.ops.any fun o => decide (o.sid < sid) && (o.ctr = .ld || (!loadsOnly && o.ctr = .st))

/-- A release of scope sc may be performed for an access numbered sid: inside a block once earlier loads have returned (the queue
gives the stores their order, R330); wider once every earlier access of the wave, and every store of its core that it may have
observed, is performed (R336). -/
def State.released (s : State) (core : Nat) (y : Wave) (sid sc : Nat) : Bool :=
  if sc ≤ 1 then !y.earlierOpen sid true else !y.earlierOpen sid false && (s.core core).fabric.isEmpty

/-- The wave's part of an operation is performed: its count falls when no part is left (R163). -/
def Wave.perform (y : Wave) (sid : Nat) : Wave :=
  { y with ops := (y.ops.map fun o => if o.sid = sid then { o with left := o.left - 1 } else o).filter fun o => o.left ≠ 0 }

/-- A wave counts for its block's trigger: its TRIGGER's release has been performed, or it has retired with every access performed
at device scope (R84, R370, R417; log entry 57). -/
def State.waveTriggered (s : State) (core : Nat) (y : Wave) : Bool :=
  if y.triggered then y.storeq.all fun q => q.kind ≠ .trigger
  else y.living = 0 && decide (y.count .ld = 0 ∧ y.count .st = 0) && (s.core core).fabric.isEmpty

/-- The block has triggered: each of its waves counts (R370). See log entry 57. -/
def State.hasTriggered (s : State) (x : Block) : Bool := x.waves.all fun e => s.waveTriggered x.core e.2

/-- A block's trigger entered in its launch (R81, R370). -/
def State.noteTrigger (s : State) (b : Nat) : State :=
  match s.block? b with
  | none => s
  | some x =>
    if x.task || !s.hasTriggered x then s
    else s.modLaunch x.launch fun l => if l.triggered.contains x.blin then l else { l with triggered := l.triggered ++ [x.blin] }

/-- An entry that writes bytes of a 128-byte line. -/
def StoreKind.writesLine (pa : Nat) : StoreKind → Bool
  | .bytes _ _ p _ => p / 128 = pa / 128
  | .atomic _ _ p _ _ _ _ _ _ => p / 128 = pa / 128
  | _ => false

/-- Whether the head of a store queue is an entry that moves no data and may leave now. -/
def State.headReady (s : State) (x : Block) (y : Wave) (q : StoreEntry) : Bool :=
  match q.kind with
  | .bytes .. => false
  | .atomic .. => false
  | _ => s.released x.core y q.sid q.scope

/-- The head entry of wave w leaves the queue: a barrier or cohort arrival counts from now, a signal is given, a trigger shows. -/
def State.leaveHead (s : State) (b w : Nat) (x : Block) (q : StoreEntry) : State :=
  let s := s.modWave b w fun y => { y with storeq := y.storeq.drop 1 }
  match q.kind with
  | .arrive n => s.modBlock b fun x => x.setBarrier n { x.barrier n with pend := (x.barrier n).pend &&& ~~~((1 : BitVec 16) <<< w) }
  | .cohort k => s.modCohort x.launch k fun c => { c with wpend := c.wpend.filter fun p => p ≠ (x.blin, w) }
  | .signal h inc v => s.deliver b w q.ctx h inc v
  | _ => s

/-- Entries that move no data leave the head of a wave's queue while they may; fuel bounds their number. -/
def State.settleQueue (s : State) (b w : Nat) : Nat → State
  | 0 => s
  | fuel + 1 =>
    match s.block? b with
    | none => s
    | some x =>
      match x.waves.find? w with
      | none => s
      | some y =>
        match y.storeq with
        | [] => s
        | q :: _ => if s.headReady x y q then State.settleQueue (s.leaveHead b w x q) b w fuel else s

/-- A store of a core still stands in a wave's queue, or, at cluster scope or wider, on the fabric (R257, R327).
See log entry 28. -/
def State.storeOpen (s : State) (core scope : Nat) (lines : List Nat) (e : Nat × Nat × Nat) : Bool :=
  let hits (k : StoreKind) := lines.any fun l => k.writesLine l
  (((s.wave? e.1 e.2.1).map fun y => y.storeq.any fun q => decide (q.sid = e.2.2) && hits q.kind).getD false) ||
    (decide (2 ≤ scope) && (s.core core).fabric.any fun f =>
      decide (f.block = e.1 ∧ f.wave = e.2.1 ∧ f.e.sid = e.2.2) && hits f.e.kind)

/-- The stores of a core to some lines that have committed and may still be under way: block, wave and syllable (R257).
See log entry 28. -/
def State.storesTo (s : State) (core : Nat) (lines : List Nat) : List (Nat × Nat × Nat) :=
  let hits (k : StoreKind) := lines.any fun l => k.writesLine l
  ((s.blocks.filter fun e => decide (e.2.core = core)).flatMap fun e => e.2.waves.flatMap fun f =>
    (f.2.storeq.filter fun q => hits q.kind).map fun q => (e.1, f.1, q.sid)) ++
  ((s.core core).fabric.filter fun f => hits f.e.kind).map fun f => (f.block, f.wave, f.e.sid)

/-- The CWBs of wave w whose earlier stores are all performed are performed (R257). See log entry 28. -/
def State.settleCwbs (s : State) (b w : Nat) : State :=
  match s.block? b with
  | none => s
  | some x =>
    s.modWave b w fun y =>
      let done := y.cwbs.filter fun c => c.before.all fun e => !s.storeOpen x.core c.scope c.lines e
      done.foldl (fun y c => y.perform c.sid) { y with cwbs := y.cwbs.filter fun c => !done.contains c }

/-- The order a fence asks for is met (R338): no earlier load or store of the kinds it orders is open. -/
def State.fenceMet (s : State) (x : Block) (y : Wave) (f : FenceOrd) : Bool :=
  match f.kind with
  | 2 => decide (y.count .ld = 0) && (y.storeq ++ (s.core x.core).fabric.map fun g => g.e).all fun q => match q.kind with
      | .atomic .. => false
      | _ => true
  | _ => decide (y.count .ld = 0 ∧ y.count .st = 0) && (decide (f.scope ≤ 1) || (s.core x.core).fabric.isEmpty)

/-- A fence of wave w that is met ends; an acquire side takes effect (R336, R338). -/
def State.settleFence (s : State) (b w : Nat) : State :=
  match s.block? b with
  | none => s
  | some x =>
    match x.waves.find? w with
    | none => s
    | some y =>
      match y.fence with
      | none => s
      | some f =>
        if s.fenceMet x y f then
          let s := s.setWave b w { y with fence := none }
          if f.kind = 1 then s else s.acquire x.core f.scope
        else s

/-! ## What goes wrong after a commit -/

/-- A cause found in data, with its flags, address and details (R386). -/
abbrev DataFault := Nat × BitVec 4 × DWord × DWord

/-- What is wrong with an access as R386 details it: a host completion, a die out of service, an error in a scratchpad, an error or poison
in HBM, or a host link that went down. -/
def State.dataFault (s : State) (d : BadData) : DataFault :=
  match d.cause with
  | 0x21 => (0x21, 0, d.va, mkDet d.info d.lane 0)
  | 0x23 => (0x23, 0, d.va, s.dieDet d.val)
  | 0x28 => (0x28, 0, 0, mkDet d.info none d.val)
  | 0x29 => (0x29, 4, BitVec.ofNat 64 d.pa, mkDet 0 none 0)
  | 0x2A => (0x2A, 4, BitVec.ofNat 64 d.pa, mkDet 0 d.lane 0)
  | c => (c, 0, 0, 0)

/-- An error that SRAM_UNCORRECTABLE named, as R386 details it. -/
def sramFault (e : SramError) : DataFault := (0x28, 0, 0, mkDet e.structureCode.toNat none e.index.toNat)

/-- The fault that a bad access of wave w raises. -/
def State.badFault (s : State) (b w : Nat) (d : BadData) : State :=
  let f := s.dataFault d
  s.asyncFault b w f.1 f.2.1 f.2.2.1 f.2.2.2 0

/-- Of what is wrong with the lanes of a syllable, that of the lowest lane (R265, R381). -/
def lowestBad (l : List BadData) : Option BadData :=
  l.foldl (fun m d => match m with
    | none => some d
    | some c => if d.lane.getD 0 < c.lane.getD 0 then some d else some c) none

/-- Some lane of a syllable of wave w has still to return, to leave the queue or to arrive. -/
def State.sidOpen (s : State) (core b w : Nat) (y : Wave) (sid : Nat) : Bool :=
  (y.outs.any fun o => o.sid = sid) || (y.storeq.any fun q => q.sid = sid) ||
    (s.core core).fabric.any fun f => decide (f.block = b ∧ f.wave = w ∧ f.e.sid = sid)

/-- Lanes of a syllable of wave w that went wrong, but for those whose cause the wave has raised already. -/
def State.noteBad (s : State) (b w sid : Nat) (l : List BadData) : State :=
  let l := l.filter fun d => d.cause ≠ 0
  if l.isEmpty then s else s.modWave b w fun y => { y with late := y.late ++ l.map fun d => (sid, d) }

/-- A syllable whose lanes have all ended raises what its lowest failing lane raises, once (R381, R385). -/
def State.settleBad (s : State) (b w : Nat) : State :=
  match s.block? b, s.wave? b w with
  | some x, some y =>
    if y.late.isEmpty then s
    else
      let done := y.late.filter fun p => !s.sidOpen x.core b w y p.1
      let s := s.modWave b w fun y => { y with late := y.late.filter fun p => !done.contains p }
      (ascending (done.map Prod.fst)).foldl (fun s sid =>
        ((lowestBad ((done.filter fun p => p.1 = sid).map Prod.snd)).map fun d => s.badFault b w d).getD s) s
  | _, _ => s

/-- What follows from an event of block b: faults of accesses that have ended, queue heads, CWBs, fences, triggers and cohorts; its
barriers are tested when the cycle ends (R353). -/
def State.settle (s : State) (b : Nat) : State :=
  match s.block? b with
  | none => s
  | some x =>
    let s := x.waveIds.foldl (fun s w => s.settleBad b w) s
    let s := x.waveIds.foldl (fun s w => s.settleQueue b w (((s.wave? b w).map fun y => y.storeq.length).getD 0)) s
    let s := x.waveIds.foldl (fun s w => s.settleCwbs b w) s
    let s := x.waveIds.foldl (fun s w => s.settleFence b w) s
    let s := s.noteTrigger b
    s.settleCohorts x.launch

/-- What follows from an event on core n: every block on it is looked at. -/
def State.settleCore (s : State) (n : Nat) : State :=
  (s.blocks.filter fun e => e.2.core = n).foldl (fun s e => s.settle e.1) s

/-! ## Commit -/

/-- A fence joined to one that stands. -/
def FenceOrd.join (f : Option FenceOrd) (g : FenceOrd) : FenceOrd :=
  match f with
  | none => g
  | some f => ⟨if f.kind = g.kind then f.kind else 3, max f.scope g.scope⟩

/-- An operation counted from its commit (R163). -/
def Wave.countOp (y : Wave) (ctr : Ctr) (left : Nat) : Wave :=
  { y with ops := y.ops ++ [⟨y.nextSid, ctr, left⟩], nextSid := y.nextSid + 1 }

/-- The 64-byte granules of HBM that a syllable's stores, together, write whole (R387). -/
def wholeGranules (ks : List StoreKind) : List Nat :=
  let rs := ks.filterMap fun k => match k with
    | .bytes _ _ pa bs => if pa < 0x6000000000 then some (pa, bs.length) else none
    | _ => none
  (ascending (rs.map fun r => r.1 / 64)).filter fun g =>
    (List.range 64).all fun i => rs.any fun r => decide (r.1 ≤ 64 * g + i ∧ 64 * g + i < r.1 + r.2)

/-- The granules of a list that an entry touches. -/
def StoreKind.among (gs : List Nat) : StoreKind → List Nat
  | .bytes _ _ pa bs => gs.filter fun g => decide (pa < 64 * g + 64 ∧ 64 * g < pa + bs.length)
  | _ => []

/-- A syllable's entries from number n on, in lane order; the last one that touches a granule written whole clears its poison (R387). -/
def storeEntries (sid ctx scope : Nat) (rel : Bool) (whole : List Nat) : Nat → List (StoreKind × DWord) → List StoreEntry
  | _, [] => []
  | n, k :: ks =>
    let mine := (k.1.among whole).filter fun g => !(ks.any fun j => (j.1.among whole).contains g)
    { sid := sid, ctx := ctx, va := k.2, scope := scope, rel := rel, kind := k.1, place := n, after := none, clears := mine } ::
      storeEntries sid ctx scope rel whole (n + 1) ks

/-- Entries put in the store queue, under the number of the syllable and the wave's context. -/
def Wave.enqueue (y : Wave) (sid ctx scope : Nat) (rel : Bool) (ks : List (StoreKind × DWord)) : Wave :=
  { y with storeq := y.storeq ++ storeEntries sid ctx scope rel (wholeGranules (ks.map Prod.fst)) 0 ks }

/-- The copy context a copy command names in T1 (R268). -/
def EngCmd.kctx (c : EngCmd) : Nat :=
  match c.instr.view with
  | some ⟨_, _, _, .e o⟩ => o.t1.toNat % 4
  | _ => 0

/-- An engine command enters the queue of the core: it takes its number, and a copy also its number in its copy context
(R140, R266). -/
def State.enterEngine (s : State) (b w : Nat) (c : EngCmd) (ctr : Option Ctr) : State :=
  match s.block? b, s.wave? b w with
  | some x, some y =>
    let sid := y.nextSid
    let k := c.kctx
    let n := (x.copyCtx k).issued + 1
    let s := match ctr with
      | some t => s.setWave b w (y.countOp t 1)
      | none => s.setWave b w { y with nextSid := sid + 1 }
    let s := if ctr = some .cp then s.modBlock b fun x => x.setCopyCtx k { x.copyCtx k with issued := n } else s
    let c := { c with sid := sid, num := if ctr = some .cp then n else 0, cyc := (s.cluster (clusOf x.core)).cyc.toNat }
    s.modCore x.core fun q => { q with engineq := q.engineq ++ [c] }
  | _, _ => s

/-- A special register of the wave, its block, its core's cluster, its context or the module written (R141). See log entry 10. -/
def State.writeSr (s : State) (b w core ctx sr : Nat) (v : DWord) : State :=
  let lo := loWord v
  let mtx (f : Matrix → Matrix) := s.modBlock b fun x => { x with mtx := x.mtx.map f }
  if 0x020 ≤ sr ∧ sr ≤ 0x02F then mtx fun m => { m with tsh := Table.set 0 m.tsh (sr - 0x020) lo }
  else if 0x030 ≤ sr ∧ sr ≤ 0x033 then mtx fun m => { m with plane := Table.set 0 m.plane (sr - 0x030) lo }
  else if sr = 0x034 then mtx fun m => { m with split := lo }
  else if 0x038 ≤ sr ∧ sr ≤ 0x03F then mtx fun m => { m with win := Table.set 0 m.win (sr - 0x038) lo }
  else if sr = 0x100 then s.modWave b w fun y => { y with cause := lo &&& 0x3F }
  else if sr = 0x101 then s.modWave b w fun y => { y with fmask := lo &&& 0x11F }
  else if sr = 0x102 then s.modWave b w fun y => { y with faddr := v }
  else if sr = 0x103 then s.modWave b w fun y => { y with fdet := v &&& 0xFFFFFF00FFFFFFFF }
  else if sr = 0x110 then
    let c := s.cluster (clusOf core)
    s.setCluster (clusOf core) { c with thr := lo.extractLsb' 0 7, alarms := if lo.getLsbD 15 then 0 else c.alarms }
  else if 0x120 ≤ sr ∧ sr ≤ 0x127 then
    { s with power := { s.power with curveF := Table.set 0 s.power.curveF (sr - 0x120) lo } }
  else if 0x128 ≤ sr ∧ sr ≤ 0x12F then
    { s with power := { s.power with curveV := Table.set 0 s.power.curveV (sr - 0x128) lo } }
  else if sr = 0x132 then
    let p := s.power
    { s with power := { p with
        polled := if lo.getLsbD 31 && !p.en then s.now / 100000 else p.polled, en := lo.getLsbD 31, nomf := lo.extractLsb' 16 8, addr := lo.extractLsb' 8 7, miss := lo.extractLsb' 0 8,
        latchF := if lo.getLsbD 30 then p.curveF else p.latchF, latchV := if lo.getLsbD 30 then p.curveV else p.latchV } }
  else if sr = 0x140 then s.modWave b w fun y => { y with ctxid := some lo }
  else if sr = 0x141 then s.setCtx ctx { s.ctx ctx with ptbase := v &&& 0x0000FFFFFFFFFF80 }
  else s

/-- A ring reset by MTS to RBASE (R280): its counts return to 0. -/
def Ring.restart (r : Ring) : Ring := { r with head := 0, tail := 0, total := 0, accepted := 0, done := [] }

/-- A byte as the core's fabric lanes leave it: the youngest store on its way, or memory (R330). -/
def State.coreByte (s : State) (core a : Nat) : Byte :=
  let hit := (s.core core).fabric.reverse.findSome? fun f => match f.e.kind with
    | .bytes _ _ p bs => if p ≤ a ∧ a < p + bs.length then bs[a - p]? else none
    | _ => none
  hit.getD (s.byte a)

/-- The line of an address as a request of the core finds it: memory under the core's stores on the fabric, with the context that last
wrote it and its poison (R244, R330, R387). -/
def State.newLine (s : State) (core pa : Nat) : DLine :=
  let a := pa / 128 * 128
  let writer := (s.core core).fabric.reverse.findSome? fun f => match f.e.kind with
    | .bytes _ _ p bs => if p < a + 128 ∧ a < p + bs.length then some f.ctx else none
    | _ => none
  ⟨a, (List.range 128).map fun i => s.coreByte core (a + i), s.now, writer.getD (Table.get 0 s.tags (pa / 128)), s.poisonBits a⟩

/-- A line can be brought into a cache: its home answers, and no error stands in it that no read has found (R387, R390). -/
def State.lineComes (s : State) (pa : Nat) : Bool :=
  (s.dieGone pa).isNone && !Table.get false s.memErr (2 * (pa / 128)) && !Table.get false s.memErr (2 * (pa / 128) + 1)

/-- Lines brought into the core data cache, which holds 2,048 in the order of their last use; a streaming line is put last, the next
to be evicted, and one that is held stays where it is; one that does not come is not held (R244; log entry 50). -/
def State.fillLines (s : State) (core : Nat) (lines : List Nat) (stream : Bool) : State :=
  lines.foldl (fun s pa =>
    let held := (s.core core).dcache.find? fun d => d.pa = pa / 128 * 128
    if (stream ∧ held.isSome) ∨ (held.isNone ∧ s.lineComes pa = false) then s
    else
      let d := held.getD (s.newLine core pa)
      s.modCore core fun c =>
        let rest := c.dcache.filter fun e => e.pa ≠ d.pa
        { c with dcache := if stream then rest.take 2047 ++ [d] else (d :: rest).take 2048 }) s

/-- Lines removed from the core data cache. -/
def State.dropLines (s : State) (core : Nat) (lines : List Nat) : State :=
  s.modCore core fun c => { c with dcache := c.dcache.filter fun d => !(lines.any fun l => l / 128 = d.pa / 128) }

/-- The entry stores to some of the bytes of a place. -/
def StoreKind.hits (k : StoreKind) (p : Nat × Nat) : Bool :=
  match k with
  | .bytes _ _ a bs => decide (a < p.1 + p.2 ∧ p.1 < a + bs.length)
  | .atomic _ _ a n _ _ _ _ _ => decide (a < p.1 + p.2 ∧ p.1 < a + n)
  | _ => false

/-- A TLD of block b notes the rows that the block now stores to (R307). -/
def EngCmd.markStale (b : Nat) (ks : List StoreKind) (c : EngCmd) : EngCmd :=
  match c.instr, c.owner with
  | .tld _ _, .block n _ =>
    if n = b then
      { c with stale := c.stale ++ (c.rows.zipIdx.filter fun r => r.1.any fun p => ks.any fun k => k.hits p).map Prod.snd }
    else c
  | _, _ => c

/-- Stores of block b reach the tile loads that it has issued and that are not complete (R307). -/
def State.markStale (s : State) (core b : Nat) (ks : List StoreKind) : State :=
  let q := s.core core
  if (q.engineq ++ (q.mat.map fun j => j.cmd).toList).all fun c => c.rows = [] then s
  else s.setCore core { q with
    engineq := q.engineq.map (EngCmd.markStale b ks), mat := q.mat.map fun j => { j with cmd := j.cmd.markStale b ks } }

/-- The packet at the head of a named queue leaves it and its bytes reach the buffer of block b, as stores that its tile loads meet (R307,
R376). -/
def State.dequeue (s : State) (b : Nat) (x : Block) (ctx q offset : Nat) : State :=
  match s.queue? q with
  | some n =>
    match n.packets with
    | p :: ps =>
      let pa := windowPa x.core (x.base + offset)
      ((s.setQueue q { n with packets := ps }).markStale x.core b [.bytes 1 1 pa p]).write ctx pa p
    | [] => s
  | none => s

/-- One effect takes place (R165). See log entry 52. -/
def State.applyEff (s : State) (iu : Issue) (f : Eff) : State :=
  let b := iu.block
  let w := iu.wave
  match s.block? b with
  | none => s
  | some x =>
  match f with
  | .setS r v => s.modWave b w fun y => y.wrS r v
  | .setV r l v => s.modWave b w fun y => y.wrV r l v
  | .setP p m => s.modWave b w fun y => y.wrP p m
  | .setC c v => s.modWave b w fun y => y.wrC c v
  | .setPc m a => s.modWave b w fun y => (lanesOf m).foldl (fun y l => y.setPc l a) y
  | .kill m => s.modWave b w fun y => { y with living := y.living &&& ~~~m }
  | .setRng l v => s.modWave b w fun y => y.setRng l v
  | .setLoop v => s.modWave b w fun y => { y with loopc := v }
  | .setRot v => s.modWave b w fun y => { y with rotb := v }
  | .setSr sr v => s.writeSr b w x.core iu.ctx sr v
  | .load ws src bad acq =>
    let s := bad.foldl State.errorFound s
    let s := s.modWave b w fun y =>
      let y' := y.countOp .ld 1
      { y' with
        outs := y.outs ++ [⟨y.nextSid, ws, src, bad⟩]
        fence := match acq with
          | some sc => some (FenceOrd.join y.fence ⟨2, sc⟩)
          | none => y.fence }
    match acq with
    | some sc => s.acquire x.core sc
    | none => s
  | .store ks sc rel ret acq =>
    (s.markStale x.core b (ks.map Prod.fst)).modWave b w fun y =>
      let y' := y.countOp (if ret then .ld else .st) ks.length
      let y' := y'.enqueue y.nextSid iu.ctx sc rel ks
      { y' with fence := if acq then some (FenceOrd.join y.fence ⟨2, sc⟩) else y.fence }
  | .cinv ls => (s.dropLines x.core ls).modWave b w fun y => (y.countOp .st 1).perform y.nextSid
  | .cwb ls sc => s.modWave b w fun y => { y.countOp .st 1 with cwbs := y.cwbs ++ [⟨y.nextSid, ls, sc, s.storesTo x.core ls⟩] }
  | .drop l => s.dropLines x.core [l]
  | .pref ls stream => s.fillLines x.core ls stream
  | .qpop q m =>
    s.modWave b w fun y =>
      { y with replies := (lanesOf m).foldl (fun t l => Table.set [] t (128 * q + l) ((Table.get [] t (128 * q + l)).drop 1)) y.replies }
  | .tscl e bs =>
    let s' := s.modWave b w fun y => y.countOp .ld 1
    match s.wave? b w with
    | some y =>
      let due := iu.mcyc.getD (s.cluster (clusOf x.core)).cyc.toNat + 4
      s'.modBlock b fun x => { x with mtx := x.mtx.map fun m => { m with pend := m.pend ++ [⟨e, bs, due, w, y.nextSid⟩] } }
    | none => s
  | .engine c ctr => s.enterEngine b w c ctr
  | .ttwg n radix => s.modBlock b fun x => { x with mtx := x.mtx.map fun m => { m with committed := some (n, radix) } }
  | .trndDraw rows cols steps =>
    s.modWave b w fun y =>
      (List.range cols).foldl (fun y j => y.setRng j ((List.replicate (rows * steps) ()).foldl (fun r _ => rngStep r) (y.rngOf j))) y
  | .barv n bytes sc =>
    let s := s.modBlock b fun x =>
      let r := x.barrier n
      let m := (1 : BitVec 16) <<< w
      x.setBarrier n { r with expb := r.expb + bytes, arrv := r.arrv ||| m, pend := r.pend ||| m }
    s.modWave b w fun y => y.enqueue y.nextSid iu.ctx sc true [(.arrive n, 0)]
  | .barArrive n sc =>
    let s := s.modBlock b fun x =>
      let r := x.barrier n
      let m := (1 : BitVec 16) <<< w
      x.setBarrier n { r with arrv := r.arrv ||| m, pend := r.pend ||| m }
    s.modWave b w fun y => y.enqueue y.nextSid iu.ctx sc true [(.arrive n, 0)]
  | .barx n part eb => s.modBlock b fun x => x.setBarrier n { x.barrier n with part := part, ebase := eb, expb := eb }
  | .cbarArrive k sc =>
    let s := s.modCohort x.launch k fun c => { c with warr := c.warr ++ [(x.blin, w)], wpend := c.wpend ++ [(x.blin, w)] }
    s.modWave b w fun y => y.enqueue y.nextSid iu.ctx sc true [(.cohort k, 0)]
  | .wait z next =>
    let z := match z with
      | .barw n sc t => .barw n sc (if next then (x.barrier n).phase + 1 else t)
      | .cbar k sc t =>
        .cbar k sc (if next then (((s.launch? x.launch).bind fun l => l.cohorts[k]?).map fun c => c.cphase).getD 0 + 1 else t)
      | z => z
    s.modWave b w fun y => { y with wait := some z, since := some s.now }
  | .signal sc h inc v => s.modWave b w fun y => y.enqueue y.nextSid iu.ctx sc true [(.signal h inc v, 0)]
  | .acquire sc => s.acquire x.core sc
  | .fence k sc => s.modWave b w fun y => { y with fence := some (FenceOrd.join y.fence ⟨k, sc⟩) }
  | .trigger =>
    s.modWave b w fun y => if y.triggered then y else { y.enqueue y.nextSid iu.ctx 4 true [(.trigger, 0)] with triggered := true }
  | .trap cause addr det => s.stopWave b w cause 0 1 addr det 0
  | .saturated p => s.asyncFault b w 0x17 0 0 (mkDet 0 none p) 0
  | .queueResv q =>
    match s.queue? q with
    | some n => s.setQueue q { n with resv := n.resv + 1 }
    | none => s
  | .dequeResv c =>
    (s.modCore c fun q => { q with dequeResv := q.dequeResv + 1 }).modLaunch x.launch fun l => { l with tasksOpen := l.tasksOpen + 1 }
  | .dequeue q off => s.dequeue b x iu.ctx q off
  | .dieLost d va => s.asyncFault b w 0x23 0 va (s.dieDet d) 0
  | .badRead d => (s.errorFound d).badFault b w d
  | .missed q =>
    match s.queue? q with
    | some n => s.setQueue q { n with missed := Table.put n.missed (clusOf x.core) (s.cycOf x.core) }
    | none => s
  | .ringReset n => s.modCore x.core fun c => c.setRing n (c.ring n).restart
  | .rfx action abandon image =>
    s.acceptRequest ⟨image, action, abandon, none, none⟩
  | .xinv ctx =>
    { s with cores := Table.map (fun _ c => { c with icache := match ctx with
        | some n => c.icache.filter fun l => l.ctx ≠ n
        | none => [] }) s.cores }
  | .passed m => s.modBlock b fun x => { x with passing := Table.set 0 x.passing w (Table.get 0 x.passing w &&& ~~~m) }

/-- The counters a list of effects adds to (R163). -/
def Eff.counter : Eff → Option Ctr
  | .load .. => some .ld
  | .store _ _ _ ret _ => some (if ret then .ld else .st)
  | .tscl .. => some .ld
  | .cinv _ => some .st
  | .cwb .. => some .st
  | .engine _ ctr => ctr
  | _ => none

/-- A commit would take a counter above 255 (R163). -/
def countersFull (y : Wave) (l : List Eff) : Bool :=
  [Ctr.ld, .st, .cp, .tl].any fun c => decide (255 < y.count c + (l.filter fun f => f.counter = some c).length)

/-- ESC returns to 0 when the living threads share one PC (R157). -/
def Wave.resetEsc (y : Wave) : Wave :=
  match lanesOf y.living with
  | [] => { y with esc := 0 }
  | l :: ls => if ls.all fun k => y.pcOf k = y.pcOf l then { y with esc := 0 } else y

/-- A bundle commits (R165): every issued thread moves to next, then every effect takes place; a wave set to step stops; a wave
without threads retires (R416). -/
def State.commit (s : State) (iu : Issue) : State :=
  let b := iu.block
  let w := iu.wave
  let s := { s with cur := none }
  let s := s.modWave b w fun y => { (lanesOf iu.lanes).foldl (fun y l => y.setPc l iu.next) y with since := none, full := none, ask := none, split := none }
  let s := iu.effs.foldl (fun s f => s.applyEff iu f) s
  let stepping := ((s.wave? b w).map fun y => y.step).getD false && !(iu.effs.any fun f => match f with
    | .trap .. => true
    | _ => false)
  let s := if stepping then s.stopWave b w 0x36 0 0 (iu.next.setWidth 64) 0 0 else s
  let s := s.modWave b w Wave.resetEsc
  let s := if ((s.wave? b w).map fun y => decide (y.living = 0)).getD false then s.modBlock b fun x => x.noteRetired w else s
  s.settle b

/-- Since when a wave has asked a named queue (R377). -/
def Wave.askedAt (y : Wave) (q : Nat) (enq : Bool) (now : Nat) : Nat :=
  match y.ask with
  | some a => if a.queue = q ∧ a.enq = enq then a.since else now
  | none => now

/-- A bundle is held: it has no effect; the wave notes since when, and what it asks, and keeps its place at a queue whatever holds it
(R164, R377, R386). -/
def State.holdIssue (s : State) (iu : Issue) : State :=
  { s with cur := none }.modWave iu.block iu.wave fun y =>
    { y with
      since := some (y.since.getD s.now)
      full := if iu.full then some (y.full.getD s.now) else none
      ask := (iu.ask.map fun (q : Nat × Bool) => (⟨q.1, q.2, y.askedAt q.1 q.2 s.now⟩ : Ask)).or y.ask }

/-- A bundle fails a check: nothing of it commits and its wave stops (R165, R381). -/
def State.raiseIssue (s : State) (iu : Issue) (r : Raise) (mask : BitVec 5) : State :=
  ({ s with cur := none }.stopWave iu.block iu.wave r.cause 0 (mask.setWidth 32) r.addr r.det 0).modWave iu.block iu.wave fun y =>
    { y with stopAt := iu.here, since := none, full := none, ask := none, split := none }

/-- The walks of a bundle that is not held bind the unbacked pages that it touches (R164, R240). -/
def State.bindTouched (s : State) (e : Env) : State :=
  e.iu.touch.foldl (fun s va => (s.translate (dieOf e.x.core) (some e.x.core) e.iu.ctx va .load).1) s

/-- The end of a bundle: held, failed, or committed. See log entry 7. -/
def State.finish (s : State) : State :=
  match s.env with
  | none => s
  | some e =>
    if e.iu.held || countersFull e.y e.iu.effs then s.holdIssue e.iu
    else
      match decideRaise e.iu.raised with
      | some (r, m) => (s.bindTouched e).raiseIssue e.iu r m
      | none => (s.bindTouched e).commit e.iu

/-- A syllable staged, and the bundle ended at its end bit, unless sub-bundles of it are still to issue (R169). See log entry 7. -/
def State.stageSyl (s : State) (last : Bool) (iu : Issue) (slot : Nat) (a : Act) : State :=
  let s := { s with cur := some (iu.stage slot a) }
  if last && !iu.sub then s.finish else s

/-- What issuing a syllable comes to: its act staged in its slot. -/
def State.issued (s : State) (h : Hdr) (iu : Issue) (slot : Nat) (a : Act) : Host.Outcome State Fault Refusal :=
  .next (s.stageSyl h.e iu slot a)

end Sys2Proof.Machine
end

