-- ==== Sys2Proof/Machine/Operands.lean ====
section
/-! DEFINITION. Operands of a syllable: registers by specifier with rotation (R132), predicates and issue sets (R124, R156), the
leader's operands of an X command (R140), destinations, and the wrappers that run a meaning for each class. -/

namespace Sys2Proof.Machine

/-! ## Reading -/

/-- The physical vector register of a specifier (R132). -/
def Env.phys (e : Env) (n : Nat) : Nat := physV e.x.var.rotv e.y.rotb.toNat n
/-- The scalar register of a specifier at or above 128. -/
def Env.sreg (e : Env) (n : Nat) : Word := e.y.rdS (n - 128)
/-- The register of a specifier as lane l reads it: a scalar gives every lane its value (R133). -/
def Env.reg (e : Env) (n l : Nat) : Word := if n < 128 then e.y.rdV (e.phys n) l else e.sreg n
/-- A source as lane l reads it. -/
def Env.src (e : Env) (n : Spec) (l : Nat) : Word := e.reg n.toNat l
/-- A pair as lane l reads it (R24). -/
def Env.src64 (e : Env) (n : Spec) (l : Nat) : DWord := pair (e.reg n.toNat l) (e.reg (n.toNat + 1) l)
/-- A quad as lane l reads it. -/
def Env.src128 (e : Env) (n : Nat) (l : Nat) : BitVec 128 :=
  pair (e.reg (n + 2) l) (e.reg (n + 3) l) ++ pair (e.reg n l) (e.reg (n + 1) l)
/-- The four words of a quad as lane l reads it. -/
def Env.quad (e : Env) (n : Spec) (l : Nat) : List Word := (List.range 4).map fun i => e.reg (n.toNat + i) l
/-- Lane predicate k as a mask (R132). -/
def Env.pred (e : Env) (k : Nat) : Lanes := e.y.rdP (physP e.x.var.rotv e.y.rotb.toNat k)
/-- The wave condition of a header holds (R124). -/
def Env.holds (e : Env) (h : Hdr) : Bool := e.y.rdC h.pi.toNat != h.pn
/-- IS of a V or M syllable (R124, R156). -/
def Env.issueSet (e : Env) (h : Hdr) : Lanes :=
  e.iu.lanes &&& (if h.pn then ~~~(e.pred h.pi.toNat) else e.pred h.pi.toNat)
/-- The leader of a set of lanes: the lowest (R140). -/
def leaderOf (m : Lanes) : Nat := (lanesOf m).headD 0
/-- The issue set is the wave's whole living population (R140). -/
def Env.converged (e : Env) : Bool := e.iu.lanes = e.y.living

/-! ## Writing -/

/-- A scalar register written. -/
def setS (n : Spec) (v : Word) : Eff := .setS (n.toNat - 128) v
/-- A scalar pair written (R24). -/
def setS64 (n : Spec) (v : DWord) : List Eff := [.setS (n.toNat - 128) (loWord v), .setS (n.toNat + 1 - 128) (hiWord v)]
/-- A vector register of one lane written. -/
def Env.setV (e : Env) (n l : Nat) (v : Word) : Eff := .setV (e.phys n) l v
/-- A vector register written in each lane of a set. -/
def Env.setVs (e : Env) (n : Spec) (m : Lanes) (f : Nat → Word) : List Eff := (lanesOf m).map fun l => e.setV n.toNat l (f l)
/-- A vector pair written in each lane of a set. -/
def Env.setVs64 (e : Env) (n : Spec) (m : Lanes) (f : Nat → DWord) : List Eff :=
  (lanesOf m).flatMap fun l => [e.setV n.toNat l (loWord (f l)), e.setV (n.toNat + 1) l (hiWord (f l))]
/-- Lane predicate k written in the lanes of a set, the others kept. -/
def Env.setPs (e : Env) (k : Nat) (m : Lanes) (f : Nat → Bool) : Eff :=
  let p := physP e.x.var.rotv e.y.rotb.toNat k
  .setP p (e.y.rdP p &&& ~~~m ||| lanesWhere m f)

/-! ## Running a meaning -/

/-- What a meaning answers. -/
abbrev Out := Host.Outcome State Fault Refusal

/-- A U syllable: it acts once if its condition holds (R124, R156). -/
def uSyl (h : Hdr) (s : State) (f : Env → Act) : Out :=
  match s.env with
  | none => .next s
  | some e => s.issued h e.iu 0 (if e.holds h then f e else .eff [])

/-- A V syllable: it acts in the lanes of IS, in slot V0 or V1 (R119). -/
def vSyl (h : Hdr) (s : State) (f : Env → Lanes → Act) : Out :=
  match s.env with
  | none => .next s
  | some e => s.issued h { e.iu with vslot := e.iu.vslot + 1 } (if e.iu.vslot = 0 then 1 else 2) (f e (e.issueSet h))

/-- The bundle notes the global addresses that a syllable has translated (R164, R240). -/
def Issue.touching (iu : Issue) (l : List Nat) : Issue := { iu with touch := iu.touch ++ l }

/-- The state as the syllable's walks find it: what the earlier syllables of the bundle have touched is bound (R240). -/
def Env.bound (e : Env) : State := e.s.bindTouched e

/-- An M syllable: it acts in the lanes of IS; the global addresses it translates are noted (R240). -/
def mSyl (h : Hdr) (s : State) (f : Env → Lanes → List Nat × Act) : Out :=
  match s.env with
  | none => .next s
  | some e =>
    let r := if e.issueSet h = 0 then ([], Act.eff []) else f e (e.issueSet h)
    s.issued h (e.iu.touching r.1) 3 r.2

/-- The engine queue of the core is full (R140). -/
def Env.queueFull (e : Env) : Bool := decide (64 ≤ (e.s.core e.x.core).engineq.length)

/-- An X syllable: it acts once if its condition holds, and is held while the engine queue is full (R140). See log entry 52. -/
def xSyl (h : Hdr) (s : State) (f : Env → List Nat × Act) : Out :=
  match s.env with
  | none => .next s
  | some e =>
    let r := if !e.holds h then ([], Act.eff []) else if e.queueFull then ([], Act.hold) else f e
    s.issued h (e.iu.touching r.1) 4 r.2

/-- An element-wise V operation of one source: modifiers act first (R184). -/
def vOp1 (fp : Bool) (w : Nat) (h : Hdr) (o : FmtA) (s : State) (f : Nat → Nat) : Out :=
  vSyl h s fun e m => .eff (e.setVs o.d m fun l => map1 w f (modify fp w o.m1 (e.src o.s1 l)))

/-- An element-wise V operation of two sources. -/
def vOp2 (fp : Bool) (w : Nat) (h : Hdr) (o : FmtA) (s : State) (f : Nat → Nat → Nat) : Out :=
  vSyl h s fun e m =>
    .eff (e.setVs o.d m fun l => map2 w f (modify fp w o.m1 (e.src o.s1 l)) (modify fp w o.m2 (e.src o.s2 l)))

/-- An element-wise V operation of three sources. -/
def vOp3 (fp : Bool) (w : Nat) (h : Hdr) (o : FmtA) (s : State) (f : Nat → Nat → Nat → Nat) : Out :=
  vSyl h s fun e m =>
    .eff (e.setVs o.d m fun l =>
      map3 w f (modify fp w o.m1 (e.src o.s1 l)) (modify fp w o.m2 (e.src o.s2 l)) (modify fp w o.m3 (e.src o.s3 l)))

/-- A scalar source with its modifier (R134). -/
def Env.sm (e : Env) (m : BitVec 3) (n : Spec) : Nat := (modify false 32 m (e.sreg n.toNat)).toNat

/-- A scalar operation of one source. -/
def uOp1 (h : Hdr) (o : FmtA) (s : State) (f : Nat → Nat) : Out :=
  uSyl h s fun e => .eff [setS o.d (toWord (f (e.sm o.m1 o.s1)))]

/-- A scalar operation of two sources (R185). -/
def uOp2 (h : Hdr) (o : FmtA) (s : State) (f : Nat → Nat → Nat) : Out :=
  uSyl h s fun e => .eff [setS o.d (toWord (f (e.sm o.m1 o.s1) (e.sm o.m2 o.s2)))]

/-- A scalar operation of a register and the immediate (R195). -/
def uOpI (h : Hdr) (o : FmtB) (s : State) (f : Nat → Nat → Nat) : Out :=
  uSyl h s fun e => .eff [setS o.d (toWord (f (e.sm o.m1 o.s1) o.imm.toNat))]

/-- An element-wise V operation of a register and the immediate (R195). -/
def vOpI (h : Hdr) (o : FmtB) (s : State) (f : Nat → Nat → Nat) : Out :=
  let w := ewWidth o.ew
  vSyl h s fun e m => .eff (e.setVs o.d m fun l => map1 w (fun a => f a o.imm.toNat) (modify false w o.m1 (e.src o.s1 l)))

end Sys2Proof.Machine
end

