-- ==== Sys2Proof/Machine/Flags.lean ====
section
/-! DEFINITION. Conditions and predicates: integer relations (R126), what a compare of packed elements writes (R189, R190), and the
truth tables of R181. The machine has no status flags besides these. -/

namespace Sys2Proof.Machine

/-- An integer relation by its code 0 to 9 (R126). -/
def icmpHolds (cc w a b : Nat) : Bool :=
  match cc with
  | 0 => decide (a = b)
  | 1 => decide (a ≠ b)
  | 2 => decide (sext w a < sext w b)
  | 3 => decide (sext w a ≤ sext w b)
  | 4 => decide (sext w b < sext w a)
  | 5 => decide (sext w b ≤ sext w a)
  | 6 => decide (a < b)
  | 7 => decide (a ≤ b)
  | 8 => decide (b < a)
  | _ => decide (b ≤ a)

/-- Every element pair of two registers meets a relation. -/
def allPairs (w : Nat) (r : Nat → Nat → Bool) (a b : Word) : Bool := (List.zipWith r (elems w a) (elems w b)).all id

/-- Entry 2a + b of a 4-bit truth table (R181). -/
def truth (t : BitVec 4) (a b : Bool) : Bool := t.getLsbD ((if a then 2 else 0) + (if b then 1 else 0))

end Sys2Proof.Machine
end

