-- ==== Sys2Proof/Machine/Control.lean ====
section
/-! DEFINITION. Control and state instructions: branches, loops, exits, traps, waits, conditions, special registers, time, fences and
instruction-cache invalidation (R171 to R183, R141 to R143, R369, R392). -/

namespace Sys2Proof.Machine

/-! ## Branches -/

/-- The target of a relative branch, exact (R173). -/
def branchTarget (here : PC) (off : BitVec 32) : Int := (here.toNat : Int) + 8 * sext 32 off.toNat

/-- The fault of a target that no PC can hold (R174). -/
def fetchFail (a : DWord) : Act := failWith 1 0x08 a 0x0B none 0

/-- A relative target that no PC can hold (R174). -/
def badTarget (t : Int) : Bool := decide (t < 0 ∨ 2 ^ 52 ≤ t)

/-- Threads m go to a relative target, checked when there are any (R173, R174). -/
def goTo (here : PC) (off : BitVec 32) (m : Lanes) (more : List Eff) : Act :=
  let t := branchTarget here off
  if m = 0 then .eff more
  else if badTarget t then fetchFail (BitVec.ofInt 64 t)
  else .eff (.setPc m (BitVec.ofInt 53 t) :: more)

/-- Threads m go to an address held in a pair (R173, R174). An address that fails both checks raises FETCH_FAULT, and the DVAL of MISALIGNED
is 8: the manual states neither (log entry 85). -/
def goToAddr (a : DWord) (m : Lanes) (more : List Eff) : Act :=
  if 2 ^ 52 ≤ a.toNat then fetchFail a
  else if a.toNat % 8 ≠ 0 then failWith 1 0x09 a 0 none 8
  else .eff (.setPc m (a.extractLsb' 0 53) :: more)

/-- The link value: the address of the next bundle (R173). -/
def Env.link (e : Env) : DWord := e.iu.next.setWidth 64

/-- The issued threads where lane predicate K, negated if F bit 0 says so, holds (R173, R177). -/
def Env.branchLanes (e : Env) (o : FmtJ) : Lanes :=
  e.iu.lanes &&& (if o.f.getLsbD 0 then ~~~(e.pred o.k.toNat) else e.pred o.k.toNat)

/-- NOP, R171. -/
def execNop (h : Hdr) (_ : FmtA) (s : State) : Out := uSyl h s fun _ => .eff []

/-- BR, R173. -/
def execBr (h : Hdr) (o : FmtJ) (s : State) : Out := uSyl h s fun e => goTo e.iu.here o.off e.iu.lanes []

/-- BRL, R173. -/
def execBrl (h : Hdr) (o : FmtJ) (s : State) : Out :=
  uSyl h s fun e => goTo e.iu.here o.off e.iu.lanes (setS64 o.l e.link)

/-- BRI, R173. -/
def execBri (h : Hdr) (o : FmtJ) (s : State) : Out := uSyl h s fun e => goToAddr (e.src64 o.l 0) e.iu.lanes []

/-- BRLI, R173: the target is read before the link is written. -/
def execBrli (h : Hdr) (o : FmtJ) (s : State) : Out :=
  uSyl h s fun e => goToAddr (e.src64 o.l 0) e.iu.lanes (setS64 o.l e.link)

/-- BRP, R173. -/
def execBrp (h : Hdr) (o : FmtJ) (s : State) : Out := uSyl h s fun e => goTo e.iu.here o.off (e.branchLanes o) []

/-- The rotation base after a loop closes (R176). -/
def nextBase (rotv : Nat) (rb : BitVec 6) : BitVec 6 := if rotv = 0 then rb else BitVec.ofNat 6 ((rb.toNat + rotv - 1) % rotv)

/-- LOOPB, R176: its target is checked in the last pass too (R174). -/
def execLoopb (h : Hdr) (o : FmtJ) (s : State) : Out :=
  uSyl h s fun e =>
    if e.y.loopc = 0 then failVal 1 0x27 0
    else if badTarget (branchTarget e.iu.here o.off) then fetchFail (BitVec.ofInt 64 (branchTarget e.iu.here o.off))
    else goTo e.iu.here o.off (if e.y.loopc = 1 then 0 else e.iu.lanes)
      [.setLoop (e.y.loopc - 1), .setRot (nextBase e.x.var.rotv e.y.rotb)]

/-- EXIT, R177. -/
def execExit (h : Hdr) (o : FmtJ) (s : State) : Out := uSyl h s fun e => .eff [.kill (e.branchLanes o)]

/-- TRAP, R178. -/
def execTrap (h : Hdr) (o : FmtC) (s : State) : Out :=
  uSyl h s fun e => .eff [.trap 0x07 (e.iu.here.setWidth 64) (o.imm.setWidth 64)]

/-- BRK, R178: a NOP unless debugging is enabled for the context. -/
def execBrk (h : Hdr) (o : FmtC) (s : State) : Out :=
  uSyl h s fun e => .eff (if (e.s.ctx e.x.ctx).debug then [.trap 0x35 (e.iu.here.setWidth 64) (o.imm.setWidth 64)] else [])

/-- WAIT, R180: held until each counter is at or below its limit. -/
def execWait (h : Hdr) (o : FmtC) (s : State) : Out :=
  uSyl h s fun e =>
    let lim (k : Nat) : Nat := (o.imm.extractLsb' (8 * k) 8).toNat
    if e.y.count .ld ≤ lim 0 ∧ e.y.count .st ≤ lim 1 ∧ e.y.count .cp ≤ lim 2 ∧ e.y.count .tl ≤ lim 3 then .eff [] else .hold

/-- CLOG, R181. -/
def execClog (h : Hdr) (o : FmtA) (s : State) : Out :=
  uSyl h s fun e =>
    .eff [.setC (Spec.idx o.d).toNat (truth (Spec.idx o.s3) (e.y.rdC (Spec.idx o.s1).toNat) (e.y.rdC (Spec.idx o.s2).toNat))]

/-- PLOG, R181. -/
def execPlog (h : Hdr) (o : FmtA) (s : State) : Out :=
  vSyl h s fun e m =>
    let a := e.pred (Spec.idx o.s1).toNat
    let b := e.pred (Spec.idx o.s2).toNat
    .eff [e.setPs (Spec.idx o.d).toNat m fun l => truth (Spec.idx o.s3) (a.getLsbD l) (b.getLsbD l)]

/-! ## Special registers -/

/-- The launch whose record a block's wave reads (R57, R106). -/
def Env.launch (e : Env) : Option Launch := e.s.launch? e.x.launch

/-- A field of the launch, 0 where there is none. -/
def Env.ofLaunch (e : Env) (f : Launch → Nat) : Nat := (e.launch.map f).getD 0

/-- The cohort entries a block belongs to, with their indices (R361). -/
def Env.cohortsOf (e : Env) : List (Nat × Cohort) :=
  if e.x.task then []
  else ((e.launch.map fun l => l.cohorts).getD []).zipIdx.filterMap fun p =>
    if p.1.members.contains e.x.blin then some (p.2, p.1) else none

/-- One 16-bit field of COHORTS (R361). -/
def cohortField (p : Nat × Cohort) : Nat :=
  2 ^ 15 + (if p.2.isBarrier then 2 ^ 14 else 0) + (if p.2.isMulticast then 2 ^ 13 else 0) + p.1 % 256

/-- The placed charge of a cluster (R101). -/
def State.charged (s : State) (clus : Nat) : Nat :=
  ((s.blocks.values.filter fun x => clusOf x.core = clus).map fun x => x.heldVar.weight * x.heldVar.waves).foldl (· + ·) 0

/-- The balance limit of a die (R101). -/
def balanceLimit (die : Nat) : Nat := if die = 0 then 2304 else 6144

/-- BAL (R103). -/
def State.balWord (s : State) (core : Nat) : Word :=
  let d := s.die (dieOf core)
  let top := s.charged (2 * dieOf core)
  let bot := s.charged (2 * dieOf core + 1)
  let mine := clusOf core % 2
  let bit (b : Bool) (k : Nat) := if b then 2 ^ k else 0
  toWord (d.imb.toNat * 2 ^ 24 + d.mlvl.toNat * 2 ^ 22 + bit d.heavy 21 +
    bit (d.mlvl ≠ 0 && decide ((if d.heavy then 1 else 0) = mine)) 20 +
    bit (decide (balanceLimit (dieOf core) < (top - bot) + (bot - top))) 19 + (if mine = 0 then top else bot) / 4 % 2 ^ 16)

/-- The four words of a stream ring as a block reads them (R280). -/
def Env.ringWord (e : Env) (n w : Nat) : Word :=
  let r := (e.s.core e.x.core).ring n
  if !isTile e.x.core || !r.valid || r.ctx ≠ e.x.ctx then 0
  else match w with
    | 0 => toWord (r.base * 2 ^ 12 + 1)
    | 1 => toWord (r.slotsz * 2 ^ 8 + r.slots)
    | 2 => r.head
    | _ => r.tail

/-- SHELFCTL as read: LOAD reads 0 (R405). -/
def Power.ctlWord (p : Power) : Word :=
  toWord ((if p.en then 2 ^ 31 else 0) + p.nomf.toNat * 2 ^ 16 + p.addr.toNat * 2 ^ 8 + p.miss.toNat)
/-- SHELFVIN or SHELFFREQ with its value (R405). -/
def Power.pollWord (p : Power) (v : BitVec 16) : Word :=
  toWord ((if p.vinOk then 2 ^ 31 else 0) + p.age.toNat * 2 ^ 16 + v.toNat)
/-- PLIMIT (R405). -/
def Power.limitWord (p : Power) : Word :=
  toWord (p.allow * 2 ^ 8 + p.shed * 2 ^ 6 + (if p.forcing then 2 ^ 5 else 0) + (if p.clamp then 2 ^ 4 else 0))

/-- A power class is shed (R405). -/
def Power.isShed (p : Power) (c : Nat) : Bool := decide (c ≠ 0 ∧ 3 < c + p.shed)

/-- PCLASS (R408). -/
def Env.pclassWord (e : Env) : Word :=
  let c := e.ofLaunch fun l => l.pclass
  toWord ((if e.s.power.isShed c then 4 else 0) + c)

/-- GOV: the grant of the governor point that the launch's node names, 0 without one (R88). -/
def Env.gov (e : Env) : Word := (e.launch.map fun l => l.gov).getD 0

/-- A 32-bit register zero-extended. -/
def wide (w : Word) : DWord := w.setWidth 64

/-- The value of a special register, R141. LANEID is per lane and stands in execMfs. -/
def Env.readSr (e : Env) (sr : Nat) : DWord :=
  let x := e.x
  let y := e.y
  let gx := e.ofLaunch fun l => l.gx
  let gy := e.ofLaunch fun l => l.gy
  let m := x.mtx.getD Matrix.initial
  let word (n : Nat) : DWord := wide (toWord n)
  if sr = 0x001 then word e.iu.wave
  else if sr = 0x002 then word (if x.task then 0 else x.blin % gx)
  else if sr = 0x003 then word (if x.task then 0 else x.blin / gx % gy)
  else if sr = 0x004 then word (if x.task then 0 else x.blin / gx / gy)
  else if sr = 0x005 then word (if x.task then 1 else gx)
  else if sr = 0x006 then word (if x.task then 1 else gy)
  else if sr = 0x007 then word (if x.task then 1 else e.ofLaunch fun l => l.gz)
  else if sr = 0x008 then word x.core
  else if sr = 0x009 then word x.var.waves
  else if sr = 0x00A then word y.pop
  else if sr = 0x00B then word x.var.index
  else if 0x010 ≤ sr ∧ sr ≤ 0x017 then wide ((e.launch.bind fun l => l.fmt[sr - 0x010]?).getD 0 &&& 0xFFFF)
  else if sr = 0x018 then BitVec.ofNat 64 (packNat 16 (e.cohortsOf.map cohortField))
  else if 0x020 ≤ sr ∧ sr ≤ 0x02F then wide (Table.get 0 m.tsh (sr - 0x020))
  else if 0x030 ≤ sr ∧ sr ≤ 0x033 then wide (Table.get 0 m.plane (sr - 0x030))
  else if sr = 0x034 then wide m.split
  else if 0x038 ≤ sr ∧ sr ≤ 0x03F then wide (Table.get 0 m.win (sr - 0x038))
  else if 0x040 ≤ sr ∧ sr ≤ 0x04F then wide (e.ringWord ((sr - 0x040) / 4) (sr % 4))
  else if sr = 0x050 then wide y.loopc
  else if sr = 0x051 then wide (rotWord x.var.rotv y)
  else if sr = 0x058 then wide y.cnt
  else if sr = 0x060 then wide e.gov
  else if sr = 0x061 then (e.launch.map fun l => l.deadline).getD 0
  else if sr = 0x070 then wide e.pclassWord
  else if sr = 0x078 then wide (e.s.balWord x.core)
  else if sr = 0x100 then wide y.cause
  else if sr = 0x101 then wide y.fmask
  else if sr = 0x102 then y.faddr
  else if sr = 0x103 then y.fdet
  else if sr = 0x110 then
    let c := e.s.cluster (clusOf x.core)
    word (c.alarms.toNat * 2 ^ 16 + c.thr.toNat)
  else if 0x120 ≤ sr ∧ sr ≤ 0x127 then wide (Table.get 0 e.s.power.curveF (sr - 0x120))
  else if 0x128 ≤ sr ∧ sr ≤ 0x12F then wide (Table.get 0 e.s.power.curveV (sr - 0x128))
  else if sr = 0x130 then wide (e.s.power.pollWord e.s.power.vin)
  else if sr = 0x131 then wide (e.s.power.pollWord e.s.power.freq)
  else if sr = 0x132 then wide e.s.power.ctlWord
  else if sr = 0x133 then wide e.s.power.limitWord
  else if sr = 0x140 then word x.ctx
  else (e.s.ctx x.ctx).ptbase

/-- A register of the matrix engine (R143). -/
def srIsMatrix (sr : Nat) : Bool := decide (0x020 ≤ sr ∧ sr ≤ 0x03F)

/-- Opcode and fields of a matrix command, none for any other instruction. -/
def matrixCmd (i : Instr) : Option (Nat × FmtE) :=
  match i.view with
  | some ⟨_, op, _, .e o⟩ => if op.toNat ≤ 0x0B then some (op.toNat, o) else none
  | _ => none

/-- The tile registers a matrix command uses (R301). -/
def tilesUsed (op : Nat) (o : FmtE) : List Nat :=
  let t1 := o.t1.toNat
  let t2 := o.t2.toNat
  let t3 := o.t3.toNat
  if op ≤ 0x01 ∨ op = 0x0A then [t1]
  else if op = 0x02 then [t2, t3]
  else if op = 0x03 then [t1]
  else if op = 0x04 then (if o.f.getLsbD 0 then [t1] else [])
  else if op = 0x05 then [t2]
  else if op = 0x06 ∨ op = 0x07 ∨ op = 0x09 then [t1, t2]
  else if op = 0x0B then [t1, t2, t3]
  else []

/-- The accumulator planes a matrix command uses; a Q1.15 command uses the next one too (R309, R311). -/
def planesUsed (op : Nat) (o : FmtE) (fmt : Word) : List Nat :=
  let ps := (planes op o).map BitVec.toNat
  let code := if op = 0x03 then fmt.toNat / 2 ^ 10 % 32 else fmt.toNat % 32
  if op ≠ 0x04 ∧ code = 0x0F then ps ++ ps.map (· + 1) else ps

/-- The command was issued by block b. -/
def EngCmd.ofBlock (c : EngCmd) (b : Nat) : Bool :=
  match c.owner with
  | .block n _ => n = b
  | .node _ _ => false

/-- The matrix commands of block b that are not complete (R300). -/
def State.matrixOpen (s : State) (core b : Nat) : List (Nat × FmtE × Word) :=
  let c := s.core core
  ((c.engineq ++ (c.mat.map fun j => j.cmd).toList).filter fun q => q.ofBlock b).filterMap fun q => (matrixCmd q.instr).map fun r => (r.1, r.2, q.fmt)

/-- The special register waits for matrix commands (R182, R298, R299). -/
def Env.srBusy (e : Env) (write : Bool) (sr : Nat) : Bool :=
  let l := e.s.matrixOpen e.x.core e.iu.block
  if 0x020 ≤ sr ∧ sr ≤ 0x02F then write && l.any fun q => (tilesUsed q.1 q.2.1).contains (sr - 0x020)
  else if 0x030 ≤ sr ∧ sr ≤ 0x033 then l.any fun q => (planesUsed q.1 q.2.1 q.2.2).contains (sr - 0x030)
  else if sr = 0x034 then write && !l.isEmpty
  else false

/-- MFS, R182. -/
def execMfs (h : Hdr) (o : FmtY) (s : State) : Out :=
  uSyl h s fun e =>
    let sr := o.sr.toNat
    if srIsMatrix sr ∧ !e.x.owner then failVal 0 0x15 0x60
    else if e.srBusy false sr then .hold
    else if sr = 0 then .eff (e.setVs o.d e.iu.lanes fun l => toWord l)
    else if (srKind sr).map Prod.fst = some 64 then .eff (setS64 o.d (e.readSr sr))
    else .eff [setS o.d (loWord (e.readSr sr))]

/-- The bits of a special register that a write reaches; the others are reserved and read 0 (R7, R314). -/
def srMask (sr : Nat) : Word :=
  if sr = 0x038 ∨ sr = 0x03A then 0x3FFFFF
  else if sr = 0x03B then 0xFFF
  else if sr = 0x03F then 0xFF
  else 0xFFFFFFFF

/-- The value an MTS writes: S1, or the pair (R182). -/
def Env.mtsValue (e : Env) (o : FmtY) : DWord :=
  if (srKind o.sr.toNat).map Prod.fst = some 64 then e.src64 o.s1 0 else wide (e.src o.s1 0)

/-- An MTS after ownership and holds: its value check, then its write (R143, R182). -/
def mtsSyl (h : Hdr) (o : FmtY) (s : State) (f : Env → Word → Act) : Out :=
  uSyl h s fun e =>
    let sr := o.sr.toNat
    if srIsMatrix sr ∧ !e.x.owner then failVal 0 0x15 0x61
    else if e.srBusy true sr then .hold
    else f e (loWord (e.mtsValue o))

/-- The write refused: BAD_OPERAND, the register kept. -/
def mtsBad (o : FmtY) : Act := failVal 1 0x05 o.sr.toNat

/-- MTS to a register without a form of its own: LOOPC, WIN, curve points, CTXID, PTBASE and the stop registers (R182, R405). -/
def execMts (h : Hdr) (o : FmtY) (s : State) : Out :=
  mtsSyl h o s fun e v =>
    let sr := o.sr.toNat
    if sr = 0x050 then .eff [.setLoop v]
    else if 0x120 ≤ sr ∧ sr ≤ 0x12F ∧ 2400 < v.toNat % 2 ^ 16 then mtsBad o
    else .eff [.setSr sr (e.mtsValue o &&& (0xFFFFFFFF00000000 ||| wide (srMask sr)))]

/-- MTS to ROT, R175. -/
def execMtsRot (h : Hdr) (o : FmtY) (s : State) : Out :=
  mtsSyl h o s fun e v =>
    let base := v.toNat % 64
    if (e.x.var.rotv = 0 ∧ base ≠ 0) ∨ (e.x.var.rotv ≠ 0 ∧ e.x.var.rotv ≤ base) then failVal 1 0x27 e.y.loopc.toNat
    else .eff [.setRot (BitVec.ofNat 6 base)]

/-- The global timer as a bundle of a block reads it: at the start of its cluster's present cycle, though not before the cluster's clock last
changed or the block was placed (R167, R183, R443; log entry 3). -/
def State.timeRead (s : State) (x : Block) : Nat :=
  let c := s.cluster (clusOf x.core)
  let t := ((s.time.now * 1000 + s.time.sub) * c.mhz - c.phase) / (1000 * c.mhz)
  max t (max c.clockedAt x.placedAt)

/-- TIME, R183. -/
def execTime (h : Hdr) (o : FmtY) (s : State) : Out := uSyl h s fun e => .eff (setS64 o.d (BitVec.ofNat 64 (e.s.timeRead e.x)))

/-- CYC, R183. -/
def execCyc (h : Hdr) (o : FmtY) (s : State) : Out := uSyl h s fun e => .eff (setS64 o.d (e.s.cluster (clusOf e.x.core)).cyc)

/-! ## Fences and XINV -/

/-- The scope of a fence (R369). -/
def fenceScope (o : FmtY) : Nat := (o.f.extractLsb' 2 3).toNat

/-- FENCE.rel, R338. -/
def execFenceRel (h : Hdr) (o : FmtY) (s : State) : Out := uSyl h s fun _ => .eff [.fence 1 (fenceScope o)]
/-- FENCE.acq, R338. -/
def execFenceAcq (h : Hdr) (o : FmtY) (s : State) : Out := uSyl h s fun _ => .eff [.fence 2 (fenceScope o)]
/-- FENCE.full, R338. -/
def execFenceFull (h : Hdr) (o : FmtY) (s : State) : Out := uSyl h s fun _ => .eff [.fence 3 (fenceScope o)]

/-- XINV of one context, R392. -/
def execXinv (h : Hdr) (o : FmtY) (s : State) : Out :=
  uSyl h s fun e =>
    let v := e.src o.s1 0
    if v.toNat < 256 then .eff [.xinv (some v.toNat)] else failVal 1 0x05 o.s1.toNat

/-- XINV.all, R392. -/
def execXinvAll (h : Hdr) (_ : FmtY) (s : State) : Out := uSyl h s fun _ => .eff [.xinv none]

end Sys2Proof.Machine
end

