-- ==== Sys2Proof/Machine/Fetch.lean ====
section
/-! DEFINITION. Fetching and decoding a bundle (R115 to R122), and the stops that decode makes. -/

namespace Sys2Proof.Machine

/-- A line of the instruction cache for a physical address: the one held for the context and the address, or memory's, brought in with its
poison unless an error stands in it that no read has found (R116, R117, R387). How a line is matched, that after a store to resident code
a fetch returns the old bits while the line is held and the new ones once it is not, and which line goes: the model's choice, log
entry 50. -/
def State.codeLine (s : State) (core ctx pa : Nat) : State × ILine :=
  let a := pa / 128 * 128
  match (s.core core).icache.find? fun l => decide (l.ctx = ctx ∧ l.pa = a) with
  | some l => (s, l)
  | none =>
    let l : ILine := ⟨ctx, a, s.bytes a 128, s.poisonBits a⟩
    (if s.lineComes a then s.modCore core fun c => { c with icache := (l :: c.icache).take 512 } else s, l)

/-- The eight bytes of the syllable at an address, or the sub-cause of R116: the cause that a load of the same address would raise. -/
def State.fetchSyl (s : State) (core ctx va : Nat) : State × Except Nat DWord :=
  if 2 ^ 52 < va + 8 then (s, .error 0x0B)
  else
    match s.translate (dieOf core) (some core) ctx va .fetch with
    | (s, .error f) => (s, .error f.cause)
    | (s, .ok t) =>
      let held := (s.core core).icache.any fun l => decide (l.ctx = ctx ∧ l.pa = t.pa / 128 * 128)
      match (if held then none else s.readFault t.pa 8 0 none) with
      | some d => (s.errorFound d, .error d.cause)
      | none =>
        let r := s.codeLine core ctx t.pa
        if r.2.poison.getLsbD (t.pa / 64 % 2) then (r.1, .error 0x2A)
        else (r.1, .ok (wordOfBytes ((r.2.bytes.drop (t.pa % 128)).take 8)))

/-- The syllables of the bundle at an address: up to the first end bit, at most four (R119); or the address that could not be
read and its sub-cause. -/
def State.fetchFrom (s : State) (core ctx va : Nat) : Nat → State × Except (Nat × Nat) (List DWord)
  | 0 => (s, .ok [])
  | n + 1 =>
    match s.fetchSyl core ctx va with
    | (s, .error c) => (s, .error (va, c))
    | (s, .ok w) =>
      if w.getLsbD 63 then (s, .ok [w])
      else
        match State.fetchFrom s core ctx (va + 8) n with
        | (s, .ok ws) => (s, .ok (w :: ws))
        | (s, .error e) => (s, .error e)

/-- The bundle at a PC (R115, R116). -/
def State.fetchBundle (s : State) (x : Block) (pc : PC) : State × Except (Nat × Nat) (List DWord) :=
  s.fetchFrom x.core x.ctx pc.toNat 4

/-- The bundle of a wave stops at decode (kind D): cause, FAULTMASK bits and details (R122, R386). -/
def State.decodeStop (s : State) (b w cause : Nat) (mask : BitVec 5) (addr : DWord) (dinfo dval : Nat) : State :=
  ({ s with cur := none }.stopWave b w cause 0 (mask.setWidth 32) addr (mkDet dinfo none dval) 0).modWave b w fun y =>
    { y with stopAt := (s.cur.map Issue.here).getD y.stopAt, since := none, full := none, ask := none }

/-- FETCH_FAULT: the bundle of the wave in hand cannot be fetched (R116). -/
def execFetchFault (addr : BitVec 64) (sub : BitVec 6) (s : State) : Out :=
  match s.cur with
  | none => .next s
  | some iu => .next (s.decodeStop iu.block iu.wave 0x08 0 addr sub.toNat 0)

/-- ILLEGAL_OPCODE: a class code 4 to 7, or an opcode not listed for its class (R122). -/
def execIllegalOpcode (mask : BitVec 5) (detail : BitVec 32) (s : State) : Out :=
  match s.cur with
  | none => .next s
  | some iu => .next (s.decodeStop iu.block iu.wave 0x01 mask 0 0 detail.toNat)

/-- A bundle of a wave that runs in a context begins to issue. -/
def State.begin (s : State) (b w ctx : Nat) (lanes : Lanes) (here : PC) (len : Nat) : State :=
  { s with cur := some { block := b, wave := w, lanes := lanes, here := here, len := len, ctx := ctx, vslot := 0, effs := [], raised := [],
                         held := false, full := false, ask := none, touch := [], sub := false, mcyc := none } }

/-- SHELFCTL_WRITE stands as SHELFCTL_LOAD when the value it writes has LOAD set (R405, R407). See log entry 46. -/
def Env.resolve (e : Env) (i : Instr) : Instr :=
  match i with
  | .shelfctlWrite h o => if (e.src o.s1 0).getLsbD 30 then .shelfctlLoad h o else i
  | _ => i

/-- The syllables with SHELFCTL's form resolved. -/
def State.resolve (s : State) (is : List Instr) : List Instr :=
  match s.env with
  | some e => is.map e.resolve
  | none => is

/-! ## What holds a bundle before its syllables are looked at (R162, R338) -/

/-- The registers a write is still owed to, numbered as View.regs numbers them. -/
def RegW.number : RegW → Nat
  | .s r _ => 128 + r
  | .v r _ _ => r

/-- The n physical registers of a destination that starts at physical register p: a pair inside the rotating region wraps with
it (R132). -/
def physRun (rotv p n : Nat) : List Nat := (List.range n).map fun i => if p < rotv then (p + i) % rotv else p + i

/-- Registers that a store-queue or fabric entry still writes (R162). -/
def StoreKind.owed (rotv : Nat) : StoreKind → List Nat
  | .atomic _ _ _ n _ _ _ _ (some p) => physRun rotv p (n / 4)
  | _ => []

/-- The register an engine command of the wave still writes: TMOVV from a tile, whose physical register the command holds
(R318). -/
def EngCmd.owed (c : EngCmd) : List Nat :=
  match c.instr.view with
  | some ⟨_, op, _, .e o⟩ => if op = 0x0A ∧ !o.f.getLsbD 0 then [c.target] else []
  | _ => []

/-- The command was issued by wave w of block b. -/
def EngCmd.ofWave (c : EngCmd) (b w : Nat) : Bool :=
  match c.owner with
  | .block n k => decide (n = b ∧ k = w)
  | .node _ _ => false

/-- Every register of the wave that still awaits a write (R162). -/
def Env.owed (e : Env) : List Nat :=
  let c := e.s.core e.x.core
  (e.y.outs.flatMap fun o => o.writes.map RegW.number) ++
  (e.y.storeq.flatMap fun q => q.kind.owed e.x.var.rotv) ++
  ((c.fabric.filter fun f => decide (f.block = e.iu.block ∧ f.wave = e.iu.wave)).flatMap fun f => f.e.kind.owed e.x.var.rotv) ++
  (((c.engineq ++ (c.mat.map fun j => j.cmd).toList).filter fun q => q.ofWave e.iu.block e.iu.wave).flatMap EngCmd.owed)

/-- A standing fence holds the syllable (R338): a release fence holds stores and atomics, the others every access and command. -/
def FenceOrd.holds (f : FenceOrd) (v : View) : Bool :=
  let op := v.op.toNat
  if f.kind = 1 then
    (v.cls = 2 && (decide (0x07 ≤ op ∧ op ≤ 0x0B) || op = 0x0E || op = 0x0F || decide (0x20 ≤ op ∧ op ≤ 0x2C))) || v.cls = 3
  else v.cls = 2 || v.cls = 3

/-- A queued release at cluster scope or wider has still to drain the stores before it (R330, R338). -/
def Env.releasing (e : Env) : Bool :=
  e.y.storeq.zipIdx.any fun q => q.1.rel && decide (2 ≤ q.1.scope) && !(q.2 = 0 && e.s.released e.x.core e.y q.1.sid q.1.scope)

/-- The bundle is held before it issues: a register it names is owed a write, a fence orders it, or, before a read of memory, a returning
atomic or a release of the wave still drains the queue (R162, R330, R338); TSCL and the packet of SPAWN, SPAWND and ENQ are read too
(R304, R373, R374). -/
def Env.heldBack (e : Env) (is : List Instr) : Bool :=
  let vs := is.filterMap Instr.view
  let owed := e.owed
  let load (v : View) := (v.cls = 2 && (decide (v.op.toNat ≤ 0x06) || v.op = 0x0C || v.op = 0x0D || v.op = 0x38)) ||
    (v.cls = 3 && decide (0x30 ≤ v.op.toNat ∧ v.op.toNat ≤ 0x32))
  let draining := e.y.storeq.any fun q => match q.kind with
    | .atomic _ _ _ _ _ _ _ _ dst => dst.isSome
    | _ => false
  vs.any fun v =>
    ((v.regs e.x.budget e.y.rotb.toNat).any fun r => owed.contains r) ||
    (match e.y.fence with
      | some f => f.holds v
      | none => false) || (load v && (draining || e.releasing))

end Sys2Proof.Machine
end

