-- ==== Sys2Proof/Machine/LoadStore.lean ====
section
/-! DEFINITION. Loads, stores, uniform accesses and cache operations (R250 to R258), and the reads of reply queues (R264). -/

namespace Sys2Proof.Machine

/-! ## Addresses of a syllable -/

/-- The address or offset a lane forms, exact, and the tile of a peer address (R226). -/
def Env.formAddr (e : Env) (sp : BitVec 2) (b : Spec) (off : Int) (l : Nat) : Int × Nat :=
  match sp.toNat with
  | 0 => ((e.src64 b l).toNat + off, 0)
  | 1 => ((e.src b l).toNat + off, 0)
  | _ => ((e.src b l).toNat % 2 ^ 24 + off, (e.src b l).toNat / 2 ^ 24)

/-- One access that has passed its checks: the lane (none for a uniform access), space, address or offset, place. -/
structure Place where
  lane : Option Nat
  space : Nat
  addr : Int
  x : Xlat
  deriving DecidableEq, Repr

/-- The accesses of a list of lanes, checked in order until one fails (R226, R265). Every later check of a lane, given by more,
stands after translation. -/
def State.placesOf (s : State) (x : Block) (sp n : Nat) (k : XKind) (more : Place → Option XFault)
    (addr : Nat → Int × Nat) (uniform : Bool) : List Nat → State × List Place × Option (XFault × Option Nat)
  | [] => (s, [], none)
  | l :: ls =>
    let a := addr l
    let lane := if uniform then none else some l
    match s.address x sp a.1 a.2 n n k with
    | (s, .error f) => (s, [], some (f, lane))
    | (s, .ok t) =>
      let p : Place := ⟨lane, sp, a.1, t⟩
      match more p with
      | some f => (s, [], some (f, lane))
      | none =>
        let r := State.placesOf s x sp n k more addr uniform ls
        (r.1, p :: r.2.1, r.2.2)

/-- The global addresses that a list of lanes has translated: those that passed, and the one that failed (R240). -/
def touched (sp : Nat) (r : State × List Place × Option (XFault × Option Nat)) : List Nat :=
  if sp ≠ 0 then []
  else r.2.1.map (fun p => p.addr.toNat) ++ (r.2.2.toList.filter fun f => decide (f.1.cause ≠ 0x09 ∧ f.1.addr.toNat < 2 ^ 52)).map
    fun f => f.1.addr.toNat

/-- The bytes of a place lie in the span of a copy of the core that has not retired (R248). -/
def State.inSpan (s : State) (core ctx n : Nat) (p : Place) : Bool :=
  (s.core core).copies.any fun c => c.spans.any fun r => match r with
    | (0, k, lo, hi) => decide (p.space = 0 ∧ k = ctx ∧ (lo : Int) < p.addr + n ∧ p.addr < hi)
    | (_, _, lo, hi) => decide (lo < p.x.pa + n ∧ p.x.pa < hi)

/-- The bytes of an address that has not been checked lie in such a span: compared by virtual address in the global space, by place in
the scratchpad in the others (R248). -/
def Env.rawInSpan (e : Env) (sp n : Nat) (a : Int × Nat) : Bool :=
  let at' : Int := (if sp = 1 then (windowPa e.x.core e.x.base : Int) else windowPa (e.x.core / 128 * 128 + a.2) 0) + a.1
  (e.s.core e.x.core).copies.any fun c => c.spans.any fun r => match r with
    | (0, k, lo, hi) => decide (sp = 0 ∧ k = e.x.ctx ∧ (lo : Int) < a.1 + n ∧ a.1 < hi)
    | (_, _, lo, hi) => decide (sp ≠ 0 ∧ (lo : Int) < at' + n ∧ at' < hi)

/-- Two byte ranges meet. -/
def meets (p n q m : Nat) : Bool := decide (p < q + m ∧ q < p + n)

/-- An atomic that stands in a queue or on the fabric acts on some of n bytes. -/
def StoreKind.actsOn (pa n : Nat) : StoreKind → Bool
  | .atomic _ _ q m _ _ _ _ _ => meets pa n q m
  | _ => false

/-- An atomic of the wave's queue or of the core's fabric lanes has still to act on the bytes (R328, R330). -/
def Env.atomicAhead (e : Env) (n : Nat) (p : Place) : Bool :=
  (e.y.storeq.any fun q => q.kind.actsOn p.x.pa n) || (e.s.core e.x.core).fabric.any fun f => f.e.kind.actsOn p.x.pa n

/-- A syllable's access of n bytes in each of a list of lanes, one a lane or once: held by the scoreboard, whatever its other checks
say (R164, R248), failed, or done with its places. -/
def Env.access (e : Env) (sp n : Nat) (k : XKind) (more : Place → Option XFault) (addr : Nat → Int × Nat) (uniform : Bool)
    (ls : List Nat) (f : State → List Place → List Eff) : List Nat × Act :=
  let r := e.bound.placesOf e.x sp n k more addr uniform ls
  (touched sp r,
    if (ls.any fun l => e.rawInSpan sp n (addr l)) ||
        r.2.1.any fun p => e.s.inSpan e.x.core e.x.ctx n p || (k = .load && e.atomicAhead n p) then .hold
    else match r.2.2 with
      | some (w, lane) => failAddr w lane
      | none => .eff (f r.1 r.2.1))

/-! ## What a load reads (R253, R328 to R330, R334) -/

/-- The byte of a store entry at an address. -/
def StoreKind.byteAt (pa : Nat) : StoreKind → Option Byte
  | .bytes _ _ p bs => if p ≤ pa then bs[pa - p]? else none
  | _ => none

/-- The page may stand in the core data cache (R243). -/
def cacheable (space home : Nat) : Bool := space = 0 && (home = 0 || home = 2)

/-- The line of the core data cache that a relaxed load hits: none is older than 20 µs (R334). -/
def State.lineHit (s : State) (core pa : Nat) : Option DLine :=
  (s.core core).dcache.find? fun d => decide (d.pa = pa / 128 * 128 ∧ s.now < d.since + 20000)

/-- A TST of block b that has not completed writes the byte; one of the wave w given counts if it was issued before syllable sid
(R307). -/
def State.tstOpen (s : State) (core b pa : Nat) (before : Option (Nat × Nat) := none) : Bool :=
  let c := s.core core
  (c.engineq ++ (c.mat.map fun j => j.cmd).toList).any fun q => q.ofBlock b && (match q.instr with
    | .tst _ _ => true
    | _ => false) && (before.all fun p => !q.ofWave b p.1 || decide (q.sid < p.2)) && q.rows.any fun r => r.any fun p => decide (p.1 ≤ pa ∧ pa < p.1 + p.2)

/-- One byte as a wave reads it: a free value while a TST of the block may write it (R307), its youngest queued store, else the line held (if hit), else the core's youngest store on its
way, else memory. -/
def Env.readByte (e : Env) (s : State) (hit : Bool) (pa : Nat) : Byte :=
  if s.tstOpen e.x.core e.iu.block pa then Config.freeByte s.steps pa else
  match e.y.storeq.reverse.findSome? fun q => q.kind.byteAt pa with
  | some b => b
  | none =>
    match (if hit then s.lineHit e.x.core pa else none) with
    | some d => d.bytes.getD (pa % 128) 0
    | none =>
      match (s.core e.x.core).fabric.reverse.findSome? fun f => f.e.kind.byteAt pa with
      | some b => b
      | none => s.byte pa

/-- n bytes as a wave reads them. -/
def Env.readBytes (e : Env) (s : State) (hit : Bool) (pa n : Nat) : List Byte :=
  (List.range n).map fun i => e.readByte s hit (pa + i)

/-- What is wrong with a read of a place: the poison its line carries on a hit, else what its home finds (R387). -/
def Env.readBad (e : Env) (s : State) (hit : Bool) (n : Nat) (p : Place) : Option BadData :=
  let va := BitVec.ofInt 64 p.addr
  match (if hit then s.lineHit e.x.core p.x.pa else none) with
  | some d => if d.poison.getLsbD (p.x.pa / 64 % 2) then some ⟨0x2A, p.x.pa / 64 * 64, va, p.lane, 0, 0⟩ else none
  | none => s.readFault p.x.pa n va p.lane

/-- The register words of a load of n bytes: a number extended to 32 bits, or words (R253). -/
def loadWords (n : Nat) (signed : Bool) (bs : List Byte) : List Word :=
  if n < 4 then [toWord (if signed then trunc 32 (sext (8 * n) (ofLe bs)) else ofLe bs)]
  else (List.range (n / 4)).map fun k => toWord (field bs (4 * k) 4)

/-- The effects of a load on the core data cache: lines brought in; with CH 3, and for HBM read past the cache under home 11, the lines
are removed, so that no later load reads an older value (R244, R328). -/
def cacheEffs (sp : BitVec 2) (ch : BitVec 2) (ps : List Place) : List Eff :=
  let line (p : Place) := p.x.pa / 128 * 128
  let l := (ps.filter fun p => cacheable p.space p.x.home).map line
  let past := (ps.filter fun p => p.x.home = 3 && region p.x.pa = .hbm).map line
  if sp ≠ 0 then []
  else (if l = [] then [] else if ch = 3 then l.map Eff.drop else [.pref l (ch = 1)]) ++ past.map Eff.drop

/-- The scope of an acquire access. -/
def acqScope (o : FmtM) : Option Nat := if o.ord.getLsbD 0 then some o.sc.toNat else none

/-- A relaxed load may hit a line: not with CH 3, not an acquire at cluster scope or wider (R244, R336). -/
def mayHit (o : FmtM) : Bool := o.ch ≠ 3 && !(o.ord.getLsbD 0 && decide (2 ≤ o.sc.toNat))

/-- The offset of format M. -/
def offOf (o : FmtM) : Int := sext 18 o.off.toNat

/-- A load of a place may hit a line of the core data cache. -/
def Place.hits (p : Place) (o : FmtM) : Bool := mayHit o && cacheable p.space p.x.home

/-- A load's data for one place. -/
def Env.loadAt (e : Env) (s : State) (o : FmtM) (n : Nat) (signed : Bool) (p : Place) : List Word :=
  loadWords n signed (e.readBytes s (p.hits o) p.x.pa n)

/-- The effects of a load: its return is owed to the registers that dst gives (R162, R253). -/
def Env.loadEffs (e : Env) (o : FmtM) (n : Nat) (signed : Bool) (dst : Option Nat → Nat → Word → RegW) (s : State)
    (ps : List Place) : List Eff :=
  let ws := ps.flatMap fun p => ((e.loadAt s o n signed p).zipIdx).map fun q => dst p.lane q.2 q.1
  .load ws (ps.map fun p => ⟨p.x.pa, n, BitVec.ofInt 64 p.addr, p.lane⟩) (ps.filterMap fun p => e.readBad s (p.hits o) n p) (acqScope o) :: cacheEffs o.sp o.ch ps

/-- A load per lane (R253). -/
def loadSyl (h : Hdr) (o : FmtM) (n : Nat) (signed : Bool) (s : State) : Out :=
  mSyl h s fun e m =>
    e.access o.sp.toNat n .load (fun _ => none) (e.formAddr o.sp o.b (offOf o)) false (lanesOf m)
      (e.loadEffs o n signed fun lane k w => .v (e.phys (o.d.toNat + k)) (lane.getD 0) w)

/-- LDB, R253. -/
def execLdb (h : Hdr) (o : FmtM) (s : State) : Out := loadSyl h o 1 true s
/-- LDBZ, R253. -/
def execLdbz (h : Hdr) (o : FmtM) (s : State) : Out := loadSyl h o 1 false s
/-- LDH, R253. -/
def execLdh (h : Hdr) (o : FmtM) (s : State) : Out := loadSyl h o 2 true s
/-- LDHZ, R253. -/
def execLdhz (h : Hdr) (o : FmtM) (s : State) : Out := loadSyl h o 2 false s
/-- LDW, R253. -/
def execLdw (h : Hdr) (o : FmtM) (s : State) : Out := loadSyl h o 4 false s
/-- LDD, R253. -/
def execLdd (h : Hdr) (o : FmtM) (s : State) : Out := loadSyl h o 8 false s
/-- LDQ, R253. -/
def execLdq (h : Hdr) (o : FmtM) (s : State) : Out := loadSyl h o 16 false s

/-! ## Stores (R254) -/

/-- The n low bytes of a data register, pair or quad as lane l reads it. -/
def Env.storeData (e : Env) (d : Spec) (n l : Nat) : List Byte :=
  leBytes n (if n ≤ 4 then (e.src d l).toNat else if n = 8 then (e.src64 d l).toNat else (e.src128 d.toNat l).toNat)

/-- The queue entries of a store, one a place in lane order (R252, R254). -/
def Env.storeEffs (e : Env) (o : FmtM) (n : Nat) (_ : State) (ps : List Place) : List Eff :=
  [.store (ps.map fun p => (.bytes p.space p.x.home p.x.pa (e.storeData o.d n (p.lane.getD 0)), BitVec.ofInt 64 p.addr)) o.sc.toNat
    (o.ord.getLsbD 1) false false]

/-- A store per lane. -/
def storeSyl (h : Hdr) (o : FmtM) (n : Nat) (s : State) : Out :=
  mSyl h s fun e m =>
    e.access o.sp.toNat n .store (fun _ => none) (e.formAddr o.sp o.b (offOf o)) false (lanesOf m) (e.storeEffs o n)

/-- STB, R254. -/
def execStb (h : Hdr) (o : FmtM) (s : State) : Out := storeSyl h o 1 s
/-- STH, R254. -/
def execSth (h : Hdr) (o : FmtM) (s : State) : Out := storeSyl h o 2 s
/-- STW, R254. -/
def execStw (h : Hdr) (o : FmtM) (s : State) : Out := storeSyl h o 4 s
/-- STD, R254. -/
def execStd (h : Hdr) (o : FmtM) (s : State) : Out := storeSyl h o 8 s
/-- STQ, R254. -/
def execStq (h : Hdr) (o : FmtM) (s : State) : Out := storeSyl h o 16 s

/-! ## Uniform accesses (R255) -/

/-- A uniform load: once, if the issue set holds a lane. -/
def uniLoadSyl (h : Hdr) (o : FmtM) (n : Nat) (s : State) : Out :=
  mSyl h s fun e _ =>
    e.access o.sp.toNat n .load (fun _ => none) (e.formAddr o.sp o.b (offOf o)) true [0]
      (e.loadEffs o n false fun _ k w => .s (o.d.toNat + k - 128) w)

/-- A uniform store. -/
def uniStoreSyl (h : Hdr) (o : FmtM) (n : Nat) (s : State) : Out :=
  mSyl h s fun e _ =>
    e.access o.sp.toNat n .store (fun _ => none) (e.formAddr o.sp o.b (offOf o)) true [0] (e.storeEffs o n)

/-- SLDW, R255. -/
def execSldw (h : Hdr) (o : FmtM) (s : State) : Out := uniLoadSyl h o 4 s
/-- SLDD, R255. -/
def execSldd (h : Hdr) (o : FmtM) (s : State) : Out := uniLoadSyl h o 8 s
/-- SSTW, R255. -/
def execSstw (h : Hdr) (o : FmtM) (s : State) : Out := uniStoreSyl h o 4 s
/-- SSTD, R255. -/
def execSstd (h : Hdr) (o : FmtM) (s : State) : Out := uniStoreSyl h o 8 s

/-! ## Cache operations -/

/-- The places of a cache operation's lanes: bytes, without alignment. -/
def Env.linePlaces (e : Env) (o : FmtM) (k : XKind) (m : Lanes) : State × List Place × Option (XFault × Option Nat) :=
  e.bound.placesOf e.x 0 1 k (fun _ => none) (e.formAddr 0 o.b (offOf o)) false (lanesOf m)

/-- The lines of a list of places, each once. -/
def linesOf (ps : List Place) : List Nat := ascending (ps.map fun p => p.x.pa / 128 * 128)

/-- PREF, R256: it binds no page, and a prefetch that would fault has no effect. -/
def execPref (h : Hdr) (o : FmtM) (s : State) : Out :=
  mSyl h s fun e m =>
    let r := e.linePlaces o .pref m
    let ls := linesOf (r.2.1.filter fun p => cacheable 0 p.x.home)
    ([], .eff (if r.2.2.isSome ∨ o.ch = 3 ∨ ls = [] then [] else [.pref ls (o.ch = 1)]))

/-- CWB and CINV on the lines of a syllable's lanes (R257, R258). -/
def lineSyl (h : Hdr) (o : FmtM) (s : State) (f : List Nat → Eff) : Out :=
  mSyl h s fun e m =>
    let r := e.linePlaces o .store m
    (touched 0 r, match r.2.2 with
      | some (w, lane) => failAddr w lane
      | none => .eff [f (linesOf r.2.1)])

/-- CWB, R257: performed when every store to the lines that the core committed before it is. -/
def execCwb (h : Hdr) (o : FmtM) (s : State) : Out := lineSyl h o s fun l => .cwb l o.sc.toNat

/-- CINV, R258: the lines are gone at commit. -/
def execCinv (h : Hdr) (o : FmtM) (s : State) : Out := lineSyl h o s .cinv

/-! ## Reply queues (R249, R264) -/

/-- The reply queue and the lanes that a command still in the engine queue answers (R268). -/
def EngCmd.answers (c : EngCmd) : Option (Nat × Lanes) :=
  match c.instr.view with
  | some ⟨_, op, _, .e o⟩ =>
    if 0x23 ≤ op.toNat ∧ op.toNat ≤ 0x25 ∧ o.f.getLsbD 6 then some (o.t3.toNat % 4, laneBit c.leader)
    else if op = 0x51 then some (o.t3.toNat % 4, c.lanes)
    else if op = 0x52 then some (o.t3.toNat % 4, laneBit c.leader)
    else none
  | _ => none

/-- A command that answers a lane in a queue is pending: it stands in the engine queue, or has left it with a reservation. -/
def Env.answerPending (e : Env) (q l : Nat) : Bool :=
  decide (0 < Table.get 0 e.y.resv (128 * q + l)) ||
  ((e.s.core e.x.core).engineq.any fun c => c.ofWave e.iu.block e.iu.wave && match c.answers with
    | some (k, m) => decide (k = q) && m.getLsbD l
    | none => false)

/-- A read of a reply queue; pop says whether it frees the entries. -/
def queueRead (pop : Bool) (h : Hdr) (o : FmtM) (s : State) : Out :=
  mSyl h s fun e m =>
    let q := (o.off.extractLsb' 0 2).toNat
    let entry (l : Nat) := (Table.get [] e.y.replies (128 * q + l)).head?
    let bare := (lanesOf m).filter fun l => (entry l).isNone
    ([],
      match bare with
      | [] =>
        let ws := (lanesOf m).flatMap fun l => (List.range 4).map fun k =>
          RegW.v (e.phys (o.d.toNat + k)) l (((entry l).getD 0).extractLsb' (32 * k) 32)
        .eff (.load ws [] [] none :: if pop then [.qpop q m] else [])
      | l :: _ =>
        if bare.any fun k => e.answerPending q k then .hold else failWith 1 0x1A 0 2 (some l) q)

/-- QPOP, R264. -/
def execQpop (h : Hdr) (o : FmtM) (s : State) : Out := queueRead true h o s
/-- QPEEK, R264. -/
def execQpeek (h : Hdr) (o : FmtM) (s : State) : Out := queueRead false h o s

end Sys2Proof.Machine
end

