-- ==== Sys2Proof/Machine/Atomics.lean ====
section
/-! DEFINITION. The atomics (R259 to R263): what a syllable puts into the store queue, and the read and write at the executing point. -/

namespace Sys2Proof.Machine

/-- The new value of a location of n bytes that holds m (R260); a is the operand or the value compared, b the new value. -/
def atomicNew (op : AOp) (n m a b : Nat) : Nat :=
  let w := 8 * n
  match op with
  | .add => (m + a) % 2 ^ w
  | .and => m &&& a
  | .or => m ||| a
  | .xor => m ^^^ a
  | .min => trunc w (min (sext w m) (sext w a))
  | .max => trunc w (max (sext w m) (sext w a))
  | .minu => min m a
  | .maxu => max m a
  | .xchg => a
  | .cas => if m = a then b else m
  | .fadd => addF32 m a

/-- The operation has a PCI Express AtomicOp (R262). -/
def AOp.hostable (op : AOp) : Bool :=
  match op with
  | .add => true
  | .xchg => true
  | .cas => true
  | _ => false

/-- The check of R261 and R262 after translation. -/
def atomicCheck (opcode : Nat) (op : AOp) (p : Place) : Option XFault :=
  let bad : Option XFault := some ⟨0x0E, BitVec.ofInt 64 p.addr, 0, opcode⟩
  if p.space = 0 ∧ p.x.home = 3 then
    match region p.x.pa with
    | .mmio => bad
    | .host => if op.hostable then none else bad
    | _ => none
  else none

/-- The operands of lane l: one value, or the value compared and the new value (R259). -/
def Env.atomicArgs (e : Env) (o : FmtT) (op : AOp) (n l : Nat) : BitVec 128 × BitVec 128 :=
  let k := o.a.toNat
  let wideReg (j : Nat) : BitVec 128 :=
    if n = 4 then (e.reg (k + j) l).setWidth 128
    else if n = 8 then (pair (e.reg (k + j) l) (e.reg (k + j + 1) l)).setWidth 128
    else e.src128 (k + j) l
  (wideReg 0, if op = .cas then wideReg (n / 4) else 0)

/-- An atomic syllable on locations of n bytes. -/
def atomicSyl (opcode : Nat) (op : AOp) (n : Nat) (h : Hdr) (o : FmtT) (s : State) : Out :=
  mSyl h s fun e m =>
    let ret := decide (o.d.toNat < 128)
    e.access o.sp.toNat n .atomic (atomicCheck opcode op) (e.formAddr o.sp o.b (sext 9 o.aoff.toNat)) false (lanesOf m) fun _ ps =>
      [.store (ps.map fun p =>
        let l := p.lane.getD 0
        let a := e.atomicArgs o op n l
        (.atomic p.space p.x.home p.x.pa n op a.1 a.2 l (if ret then some (e.phys o.d.toNat) else none), BitVec.ofInt 64 p.addr))
        o.sc.toNat (o.ord.getLsbD 1) ret (o.ord.getLsbD 0)]

/-- AADD, R260. -/
def execAadd (h : Hdr) (o : FmtT) (s : State) : Out := atomicSyl 0x20 .add 4 h o s
/-- AAND, R260. -/
def execAand (h : Hdr) (o : FmtT) (s : State) : Out := atomicSyl 0x21 .and 4 h o s
/-- AOR, R260. -/
def execAor (h : Hdr) (o : FmtT) (s : State) : Out := atomicSyl 0x22 .or 4 h o s
/-- AXOR, R260. -/
def execAxor (h : Hdr) (o : FmtT) (s : State) : Out := atomicSyl 0x23 .xor 4 h o s
/-- AMIN, R260. -/
def execAmin (h : Hdr) (o : FmtT) (s : State) : Out := atomicSyl 0x24 .min 4 h o s
/-- AMAX, R260. -/
def execAmax (h : Hdr) (o : FmtT) (s : State) : Out := atomicSyl 0x25 .max 4 h o s
/-- AMINU, R260. -/
def execAminu (h : Hdr) (o : FmtT) (s : State) : Out := atomicSyl 0x26 .minu 4 h o s
/-- AMAXU, R260. -/
def execAmaxu (h : Hdr) (o : FmtT) (s : State) : Out := atomicSyl 0x27 .maxu 4 h o s
/-- AXCHG, R260. -/
def execAxchg (h : Hdr) (o : FmtT) (s : State) : Out := atomicSyl 0x28 .xchg 4 h o s
/-- AXCHG.x64, R260. -/
def execAxchgX64 (h : Hdr) (o : FmtT) (s : State) : Out := atomicSyl 0x28 .xchg 8 h o s
/-- ACAS, R260. -/
def execAcas (h : Hdr) (o : FmtT) (s : State) : Out := atomicSyl 0x29 .cas 4 h o s
/-- AFADD, R260. -/
def execAfadd (h : Hdr) (o : FmtT) (s : State) : Out := atomicSyl 0x2A .fadd 4 h o s
/-- AADD64, R260. -/
def execAadd64 (h : Hdr) (o : FmtT) (s : State) : Out := atomicSyl 0x2B .add 8 h o s
/-- ACAS64, R260. -/
def execAcas64 (h : Hdr) (o : FmtT) (s : State) : Out := atomicSyl 0x2C .cas 8 h o s
/-- ACAS64.x128, R260. -/
def execAcas64X128 (h : Hdr) (o : FmtT) (s : State) : Out := atomicSyl 0x2C .cas 16 h o s

end Sys2Proof.Machine
end

