-- ==== Sys2Proof/Machine/Sync.lean ====
section
/-! DEFINITION. Barriers, cohort barriers, timelines and the early-launch pair (R349 to R371), and the waits they make (R351). -/

namespace Sys2Proof.Machine

/-! ## Fields -/

/-- The scope of a command: SC, or its natural scope where SC is 0 (R350). -/
def syncScope (o : FmtE) (natural : Nat) : Nat :=
  let sc := (o.f.extractLsb' 0 3).toNat
  if sc = 0 then natural else sc

/-- ARR (R350). -/
def arrBit (o : FmtE) : Bool := o.f.getLsbD 3
/-- NXT. -/
def nxtBit (o : FmtE) : Bool := o.f.getLsbD 4
/-- INC. -/
def incBit (o : FmtE) : Bool := o.f.getLsbD 5
/-- COH. -/
def cohField (o : FmtE) : Nat := (o.f.extractLsb' 6 8).toNat

/-- The leader's value of an operand of an X command (R140). -/
def Env.lead (e : Env) (n : Spec) : Word := e.src n (leaderOf e.iu.lanes)
/-- The leader's pair. -/
def Env.lead64 (e : Env) (n : Spec) : DWord := e.src64 n (leaderOf e.iu.lanes)

/-- An X command that changes no state before its commit. -/
def xAct (h : Hdr) (s : State) (f : Env → Act) : Out := xSyl h s fun e => ([], f e)

/-- The issue set is not the wave's whole living population (R140, R354). -/
def Env.notConverged (e : Env) : Act := failWith 0 0x06 0 (popcount 128 e.iu.lanes.toNat) none e.y.pop

/-- sext(trunc(p - t, 32), 32) is at or above 0: the phase t has been reached (R356). -/
def phaseReached (p t : Word) : Bool := !(p - t).getLsbD 31

/-! ## Named barriers -/

/-- BARRIER_MISUSE on barrier n, at a stage. -/
def Env.misuse (e : Env) (stage n : Nat) : Act := failWith stage 0x18 0 n none (e.x.barrier n).phase.toNat

/-- The checks of an arrival (R354). -/
def Env.arrivalCheck (e : Env) (n : Nat) : Option Act :=
  let r := e.x.barrier n
  if !e.converged then some e.notConverged
  else if !r.part.getLsbD e.iu.wave || r.arrv.getLsbD e.iu.wave then some (e.misuse 0 n)
  else none

/-- BARV, R355. -/
def execBarv (h : Hdr) (o : FmtE) (s : State) : Out :=
  xAct h s fun e =>
    let n := o.t1.toNat
    match e.arrivalCheck n with
    | some a => a
    | none =>
      let v := e.lead o.s1
      if 2 ^ 32 ≤ (e.x.barrier n).expb.toNat + v.toNat then e.misuse 0 n else .eff [.barv n v (syncScope o 1)]

/-- BARW, R356: the target is read before the wave's own arrival. -/
def execBarw (h : Hdr) (o : FmtE) (s : State) : Out :=
  xAct h s fun e =>
    let n := o.t1.toNat
    let sc := syncScope o 1
    let wait := Eff.wait (.barw n sc (e.lead o.s1)) (nxtBit o)
    if arrBit o then (e.arrivalCheck n).getD (.eff [wait, .barArrive n sc]) else .eff [wait]

/-- BART, R357: a test that writes true acquires. -/
def execBart (h : Hdr) (o : FmtE) (s : State) : Out :=
  xAct h s fun e =>
    let r := phaseReached (e.x.barrier o.t1.toNat).phase (e.lead o.s1)
    .eff (.setC o.t3.toNat r :: if r then [.acquire (syncScope o 1)] else [])

/-- BARX, R358. -/
def execBarx (h : Hdr) (o : FmtE) (s : State) : Out :=
  xAct h s fun e =>
    let n := o.t1.toNat
    let r := e.x.barrier n
    let m := (e.lead o.s1).toNat
    if m = 0 ∨ 2 ^ e.x.var.waves ≤ m ∨ r.arrv ≠ 0 ∨ r.cred ≠ 0 ∨ r.expb ≠ r.ebase then e.misuse 1 n
    else .eff [.barx n (BitVec.ofNat 16 m) (e.lead o.s2)]

/-! ## Cohort barriers -/

/-- The cohort entry that a CBAR names, if it may (R362). -/
def Env.cohort? (e : Env) (k : Nat) : Option Cohort :=
  match (e.cohortsOf.find? fun p => p.1 = k) with
  | some p => if p.2.isBarrier then some p.2 else none
  | none => none

/-- CBAR, R362. -/
def execCbar (h : Hdr) (o : FmtE) (s : State) : Out :=
  xAct h s fun e =>
    let k := cohField o
    let sc := syncScope o 4
    match e.cohort? k with
    | none => failVal 0 0x1C k
    | some c =>
      let wait := Eff.wait (.cbar k sc (e.lead o.s1)) (nxtBit o)
      if !arrBit o then .eff [wait]
      else if !e.converged then e.notConverged
      else if c.warr.contains (e.x.blin, e.iu.wave) then failWith 0 0x18 0 k none c.cphase.toNat
      else .eff [wait, .cbarArrive k sc]

/-! ## Timelines -/

/-- KIND of a handle (R363). -/
def handleKind (h : Word) : Nat := h.toNat / 2 ^ 28

/-- The reserved bits of a handle are zero (R363). -/
def handleBitsOk (h : Word) : Bool :=
  let v := h.toNat % 2 ^ 28
  match handleKind h with
  | 1 => decide (v < 4)
  | 2 => decide (v < 2 ^ 12)
  | 3 => decide (v / 2 ^ 10 % 2 ^ 6 = 0 ∧ v < 2 ^ 18)
  | 4 => decide (v < 2 ^ 20)
  | 5 => decide (v < 2 ^ 26)
  | _ => false

/-- Core and ring of a handle of kind 3. -/
def handleRing (h : Word) : Nat × Nat := (h.toNat % 2 ^ 10, h.toNat / 2 ^ 16 % 4)

/-- The ring a handle of kind 3 names is VALID for a context, on a network tile (R365). -/
def State.ringFor (s : State) (ctx : Nat) (h : Word) : Bool :=
  let c := (handleRing h).1
  let r := (s.core c).ring (handleRing h).2
  coreExists c && isTile c && r.valid && decide (r.ctx = ctx)

/-- TLWAIT and TLRD accept a handle (R365, R367). -/
def Env.readable (e : Env) (h : Word) : Bool :=
  handleBitsOk h &&
  match handleKind h with
  | 1 => true
  | 2 => true
  | 3 => e.s.ringFor e.x.ctx h
  | 5 => !e.x.task && decide (h.toNat / 4 % 2 ^ 24 < e.ofLaunch fun l => l.gx * l.gy * l.gz)
  | _ => false

/-- The completed count of a copy context of block b of a launch: 0 before it starts, all ones after it exits (R363). -/
def State.ctxDone (s : State) (launch blin k : Nat) : Nat :=
  if ((s.launch? launch).map fun l => l.exited.contains blin).getD false then 2 ^ 64 - 1
  else match s.blockOf? launch blin with
    | some (_, x) => (x.copyCtx k).completed
    | none =>
      match s.images.find? fun i => decide (i.launch = launch ∧ i.blin = blin) && !i.task with
      | some i => i.done.getD k 0
      | none => 0

/-- The value of a handle for a block (R363). -/
def State.handleValue (s : State) (x : Block) (h : Word) : Nat :=
  match handleKind h with
  | 1 => (x.copyCtx (h.toNat % 4)).completed
  | 2 => (s.timeline x.ctx (h.toNat % 2 ^ 12)).toNat
  | 3 => ((s.core (handleRing h).1).ring (handleRing h).2).total.toNat
  | 5 => s.ctxDone x.launch (h.toNat / 4 % 2 ^ 24) (h.toNat % 4)
  | _ => 0

/-- TIMELINE_INVALID. -/
def badHandle (h : Word) : Act := failVal 0 0x19 h.toNat

/-- TLWAIT, R365. -/
def execTlwait (h : Hdr) (o : FmtE) (s : State) : Out :=
  xAct h s fun e =>
    let v := e.lead o.s1
    if e.readable v then .eff [.wait (.tlwait (syncScope o 4) v (e.lead64 o.s2)) false] else badHandle v

/-- TLSIG, R366: a signal to a peer module is of system scope. -/
def execTlsig (h : Hdr) (o : FmtE) (s : State) : Out :=
  xAct h s fun e =>
    let v := e.lead o.s1
    let k := handleKind v
    if (k = 2 ∨ k = 4) ∧ handleBitsOk v then .eff [.signal (if k = 4 then 5 else syncScope o 4) v (incBit o) (e.lead64 o.s2)]
    else badHandle v

/-- The handle names a shared timeline, and die 1, which holds those, is out of service (R364, R390). -/
def State.timelineLost (s : State) (h : Word) : Bool := handleKind h = 2 && !(s.die 1).inService

/-- TLRD, R367; the value is free where die 1 is out of service (R364, R390). -/
def execTlrd (h : Hdr) (o : FmtE) (s : State) : Out :=
  xAct h s fun e =>
    let v := e.lead o.s1
    if !e.readable v then badHandle v
    else if e.s.timelineLost v then
      .eff (setS64 o.s2 (Config.freeWord e.s.steps 1 ++ Config.freeWord e.s.steps 0) ++ [.dieLost 1 0])
    else .eff (setS64 o.s2 (BitVec.ofNat 64 (e.s.handleValue e.x v)))

/-- PEER_TIMELINE_SIGNAL, R347, R366. -/
def execPeerTimelineSignal (p : PeerSignal) (s : State) : Out := .next (s.signal p.ctx p.n.toNat p.inc p.value)

/-! ## Early launch -/

/-- TRIGGER, R370. -/
def execTrigger (h : Hdr) (_ : FmtY) (s : State) : Out := uSyl h s fun _ => .eff [.trigger]

/-- GRIDWAIT, R371. -/
def execGridwait (h : Hdr) (_ : FmtY) (s : State) : Out := uSyl h s fun _ => .eff [.wait .gridwait false]

/-! ## Waits -/

/-- The standing of the predecessors whose edges were satisfied early: every one complete, or the first that ended (R371). -/
inductive GridState where
  | passed
  | waiting
  | broken (node : Nat)
  deriving DecidableEq, Repr

/-- What a GRIDWAIT of a launch finds. -/
def State.gridState (s : State) (launch : Nat) : GridState :=
  let ps := ((s.launch? launch).map fun l => l.early).getD []
  match ps.findSome? fun p => match s.launch? p with
    | some l => if l.status = .ended then some l.node else none
    | none => none with
  | some n => .broken n
  | none =>
    if ps.all fun p => (s.launch? p).map (fun l => l.status) = some .completed then .passed else .waiting

/-- The scope of a wait's acquire. -/
def Wait.scope : Wait → Nat
  | .barw _ sc _ => sc
  | .cbar _ sc _ => sc
  | .tlwait sc _ _ => sc
  | .gridwait => 4

/-- WKIND (R397). -/
def Wait.kind : Wait → Nat
  | .barw .. => 1
  | .cbar .. => 2
  | .tlwait .. => 3
  | .gridwait => 4

/-- The condition of a wait holds (R351, R356, R362, R365, R371). -/
def State.waitHolds (s : State) (x : Block) (z : Wait) : Bool :=
  match z with
  | .barw n _ t => phaseReached (x.barrier n).phase t
  | .cbar k _ t =>
    match (s.launch? x.launch).bind fun l => l.cohorts[k]? with
    | some c => phaseReached c.cphase t
    | none => false
  | .tlwait _ h v => decide (v.toNat ≤ s.handleValue x h)
  | .gridwait => s.gridState x.launch = .passed

/-- A wait for a timeline of a die out of service (R364, R390). -/
def State.waitLost (s : State) : Wait → Bool
  | .tlwait _ h _ => s.timelineLost h
  | _ => false

/-- The wait of a wave ends. -/
def Wave.endWait (y : Wave) : Wave := { y with wait := none, since := none }

/-- WAIT_SATISFIED: the wave of a running block acquires and becomes ready; a GRIDWAIT on a launch that ended without completing stops it
instead, and so does a wait for a timeline of a die out of service (R351, R364, R371, R390, R426). A handle is read in the wave's context
(R141, R365). -/
def execWaitSatisfied (b w : Nat) (s : State) : Out :=
  match s.block? b, s.wave? b w with
  | some x, some y =>
    match y.wait with
    | some z =>
      if x.stop.isSome ∨ s.fw.training.isSome then .next s
      else if s.waitLost z then .next (s.asyncFault b w 0x23 0 0 (s.dieDet 1) 0)
      else if s.waitHolds (x.seenBy y) z then .next ((s.setWave b w y.endWait).acquire x.core z.scope)
      else match z, s.gridState x.launch with
        | .gridwait, .broken n => .next ((s.setWave b w y.endWait).asyncFault b w 0x26 0 0 (mkDet 0 none n) 0)
        | _, _ => .next s
    | none => .next s
  | _, _ => .next s

/-- WATCHDOG: a wave has waited or been held beyond the limit of its context (R386). -/
def execWatchdog (b w : Nat) (s : State) : Out :=
  match s.block? b, s.wave? b w with
  | some x, some y =>
    match y.since with
    | some t =>
      if t + (s.ctx (x.ctxOf y)).wdogMs * 1000000 < s.now ∧ x.stop.isNone then
        .next (s.asyncFault b w 0x20 0 0 (mkDet ((y.wait.map Wait.kind).getD 0) none 0) 0)
      else .next s
    | none => .next s
  | _, _ => .next s

end Sys2Proof.Machine
end

