-- ==== Sys2Proof/Machine/Tasks.lean ====
section
/-! DEFINITION. Task pushes and named queues (R64, R106, R107, R112, R373 to R377). -/

namespace Sys2Proof.Machine

/-! ## Engine commands -/

/-- A command with nothing but its issuer: the fields an opcode needs are set over it. -/
def Env.cmd (e : Env) (i : Instr) : EngCmd :=
  { instr := i, owner := .block e.iu.block e.iu.wave, ctx := e.iu.ctx, launch := e.x.launch, sid := 0, leader := leaderOf e.iu.lanes,
    lanes := e.iu.lanes, q1 := [], q2 := [], num := 0, o0 := 0, o1 := 0, inst := 0, fmt := 0, tsh := [], win := [], planes := [],
    cyc := 0, seeds := [], packet := [], target := 0, tc := 0, rows := [], stale := [] }

/-! ## Packets -/

/-- The checks of a 64-byte range of the allocation, MISALIGNED first (R373, R376); it answers the physical address. -/
def Env.packetPlace (e : Env) (off : Nat) : Except Act Nat :=
  if off % 64 ≠ 0 then .error (failWith 0 0x09 (BitVec.ofNat 64 off) 0 none 64)
  else if e.x.var.scratch < off + 64 then .error (failWith 0 0x0F (BitVec.ofNat 64 off) 0 none 64)
  else .ok (windowPa e.x.core (e.x.base + off))

/-- TENTRY of a packet (R63). -/
def tentryOf (bs : List Byte) : Nat := field bs 0 8
/-- Bits 5:0 and 63:52 are zero (R63, R64). -/
def tentryOk (n : Nat) : Bool := decide (n % 64 = 0 ∧ n < 2 ^ 52)

/-- The packet at a local offset, read as a load of the wave reads it, and checked (R248, R373). -/
def Env.packet (e : Env) (off : Nat) : Except Act (List Byte) :=
  if e.rawInSpan 1 64 (off, 0) then .error .hold
  else match e.packetPlace off with
    | .error a => .error a
    | .ok pa =>
      if e.atomicAhead 64 ⟨none, 1, off, ⟨pa, 1⟩⟩ then .error .hold
      else
        let bs := e.readBytes e.s false pa 64
        if tentryOk (tentryOf bs) then .ok bs else .error (failWith 0 0x1B (BitVec.ofNat 64 (tentryOf bs)) 0 none 0)

/-- A deque has no entry left to reserve (R106, R373). -/
def State.dequeFull (s : State) (core : Nat) : Bool :=
  let c := s.core core
  decide (4096 ≤ c.deque.length + c.dequeResv)

/-- A push of a packet to a core's deque: an entry is reserved, and the command enters the engine queue (R373); lost where the core's
die is out of service, with the address that named it (R386, R427). -/
def Env.push (e : Env) (i : Instr) (bs : List Byte) (core : Nat) (va : DWord) : Act :=
  if !(e.s.die (dieOf core)).inService then .eff [.dieLost (dieOf core) va]
  else if e.s.dequeFull core then .holdFull
  else .eff [.dequeResv core, .engine { e.cmd i with packet := bs, target := core } none]

/-- The error that reading the packet at a local offset finds, raised when its bundle commits (R265). -/
def Env.packetBad (e : Env) (off : Nat) : List Eff :=
  ((e.s.badData (windowPa e.x.core (e.x.base + off)) 64 0 none).map Eff.badRead).toList

/-- An act with effects beside its own. -/
def Act.beside (a : Act) (l : List Eff) : Act :=
  match a with
  | .eff k => .eff (k ++ l)
  | a => a

/-- What SPAWN does at issue (R373). -/
def Env.spawn (e : Env) (i : Instr) (o : FmtE) : List Nat × Act :=
  let off := (e.lead o.s1).toNat
  ([], match e.packet off with
    | .error a => a
    | .ok bs => (e.push i bs e.x.core 0).beside (e.packetBad off))

/-- SPAWN, R373. -/
def execSpawn (h : Hdr) (o : FmtE) (s : State) : Out := xSyl h s fun e => e.spawn (.spawn h o) o

/-- The home core of a translated address (R112). -/
def homeOf (core : Nat) (t : Xlat) : Nat :=
  match t.home with
  | 1 => windowCore t.pa
  | 3 => core
  | _ => homeCore t.pa

/-- What SPAWND does at issue: its address is translated as a load's (R112, R373). -/
def Env.spawnd (e : Env) (i : Instr) (o : FmtE) : List Nat × Act :=
  let off := (e.lead o.s1).toNat
  match e.packet off with
  | .error a => ([], a)
  | .ok bs =>
    let va := (e.lead64 o.s2).toNat
    match (e.bound.address e.x 0 va 0 1 1 .load).2 with
    | .error f => (if va < 2 ^ 52 then [va] else [], failWith 0 f.cause f.addr f.dinfo none f.dval)
    | .ok t => ([va], (e.push i bs (homeOf e.x.core t) (e.lead64 o.s2)).beside (e.packetBad off))

/-- SPAWND, R112, R373. -/
def execSpawnd (h : Hdr) (o : FmtE) (s : State) : Out := xSyl h s fun e => e.spawnd (.spawnd h o) o

/-! ## Named queues -/

/-- The queue of a name, if it is assigned to the context (R374). -/
def State.ownedQueue (s : State) (ctx q : Nat) : Option NamedQueue :=
  if q < 192 then (s.queue? q).bind fun n => if n.ctx = ctx then some n else none else none

/-- QUEUE_FAULT with a detail (R386). -/
def queueFault (detail q : Nat) : Act := failWith 0 0x1A 0 detail none q

/-- A comes before b in the order of R377: the time of the request, COREID, the wave slot. -/
def askBefore (a b : Nat × Nat × Nat) : Bool :=
  decide (a.1 < b.1 ∨ (a.1 = b.1 ∧ (a.2.1 < b.2.1 ∨ (a.2.1 = b.2.1 ∧ a.2.2 < b.2.2))))

/-- Held requests of one kind at a queue that come before that of the wave (R377). -/
def Env.asksAhead (e : Env) (q : Nat) (full : Bool) : Nat :=
  let mine := (e.y.askedAt q full e.s.now, e.x.core, 16 * e.iu.block + e.iu.wave)
  ((e.s.blocks.filter fun b => b.2.stop.isNone).flatMap fun b => b.2.waves.filter fun w =>
    w.2.ask.any fun a => decide (a.queue = q ∧ a.enq = full) && askBefore (a.since, b.2.core, 16 * b.1 + w.1) mine).length

/-- A packet for a named queue: an entry is reserved when it is the wave's turn (R375, R377); lost where the queue's die is out of
service (R427). -/
def Env.enqPush (e : Env) (i : Instr) (bs : List Byte) (q : Nat) : Act :=
  match e.s.ownedQueue e.x.ctx q with
  | none => queueFault 3 q
  | some n =>
    if !(e.s.die (q / 64)).inService then .eff [.dieLost (q / 64) 0]
    else if n.cap ≤ n.packets.length + n.resv + e.asksAhead q true then .holdQueue q true
    else .eff [.queueResv q, .engine { e.cmd i with packet := bs, target := q } none]

/-- What ENQ does at issue (R375). -/
def Env.enq (e : Env) (i : Instr) (o : FmtE) : List Nat × Act :=
  let off := (e.lead o.s1).toNat
  ([], match e.packet off with
    | .error a => a
    | .ok bs => (e.enqPush i bs (e.lead o.s2).toNat).beside (e.packetBad off))

/-- ENQ, R375. -/
def execEnq (h : Hdr) (o : FmtE) (s : State) : Out := xSyl h s fun e => e.enq (.enq h o) o

/-- A queued store or atomic of the wave still has to act on the buffer of a DEQ (R376; log entry 31). -/
def Env.bufferBusy (e : Env) (pa : Nat) : Bool :=
  e.atomicAhead 64 ⟨none, 1, 0, ⟨pa, 1⟩⟩ || e.y.storeq.any fun q => match q.kind with
    | .bytes _ _ a bs => meets pa 64 a bs.length
    | _ => false

/-- A DEQ whose buffer is checked: what it does with an entry, where there is none for it, and where the queue's die is out of service
(R376, R377, R427). See log entry 31. -/
def Env.take (e : Env) (o : FmtE) (got : List Eff) (empty : Nat → Act) (lost : List Eff) : Act :=
  let off := (e.lead o.s1).toNat
  let q := (e.lead o.s2).toNat
  if e.rawInSpan 1 64 (off, 0) then .hold
  else match e.packetPlace off with
    | .error a => a
    | .ok pa =>
      match e.s.ownedQueue e.x.ctx q with
      | none => queueFault 3 q
      | some n =>
        if !(e.s.die (q / 64)).inService then .eff (.dieLost (q / 64) 0 :: lost)
        else if n.packets.length ≤ e.asksAhead q false then empty q
        else if e.bufferBusy pa then .hold
        else .eff (.dequeue q off :: got)

/-- DEQ, R376: held while the queue holds no entry. -/
def execDeq (h : Hdr) (o : FmtE) (s : State) : Out := xAct h s fun e => e.take o [] (fun q => .holdQueue q false) []

/-- DEQ.nb, R376. -/
def execDeqNb (h : Hdr) (o : FmtE) (s : State) : Out :=
  xAct h s fun e =>
    e.take o [.setC o.t3.toNat true] (fun q => .eff [.setC o.t3.toNat false, .missed q]) [.setC o.t3.toNat (Config.freeBit e.s.steps 0)]

/-- NAMED_QUEUE_ASSIGN: a queue of 2^k packets for a context (R374). -/
def execNamedQueueAssign (p : QueueAssignment) (s : State) : Out :=
  .next (s.setQueue p.queue { ctx := p.ctx, cap := 2 ^ p.k, packets := [], resv := 0, missed := [] })

/-! ## The engine queue's head -/

/-- A command that stays in the queue while others run on: a copy command of a suspended context (R271), or any command of a block
that is being stopped (R393). -/
def State.cmdSuspended (s : State) (c : EngCmd) : Bool :=
  match c.owner with
  | .block b _ =>
    ((s.block? b).map fun x => (x.stop.isSome && !x.exited) || match c.instr.view with
      | some ⟨3, op, _, .e _⟩ => (decide (0x20 ≤ op.toNat ∧ op.toNat ≤ 0x26) || op = 0x29) && (x.copyCtx c.kctx).suspended
      | _ => false).getD false
  | .node _ _ => false

/-- The command that a core's engine queue lets out next; none during the change to full service (R426). -/
def State.engineHead (s : State) (core : Nat) : Option EngCmd :=
  if s.fw.training.isSome then none else (s.core core).engineq.find? fun c => !s.cmdSuspended c
/-- That command leaves the queue. -/
def State.popEngine (s : State) (core : Nat) : State :=
  s.modCore core fun c => { c with engineq := c.engineq.eraseP fun q => !s.cmdSuspended q }

/-- Every earlier access of the issuing wave is performed at device scope (R336, R373); a wave that is gone has none. -/
def State.cmdReleased (s : State) (core : Nat) (c : EngCmd) : Bool :=
  match c.owner with
  | .block b w =>
    match s.wave? b w with
    | some y => s.released core y c.sid 4
    | none => true
  | .node _ _ => true

/-- Every store that the issuing wave committed before the command has left its queue and the fabric (R307, R315, R328). -/
def State.storesOut (s : State) (core : Nat) (c : EngCmd) : Bool :=
  match c.owner with
  | .block b w =>
    ((s.wave? b w).map fun y => y.storeq.all fun q => decide (c.sid ≤ q.sid)).getD true &&
      (s.core core).fabric.all fun f => decide (f.block ≠ b ∨ f.wave ≠ w ∨ c.sid ≤ f.e.sid)
  | .node _ _ => true

/-- A packet breaks the idleness of a core's stacked pair: gating aborts, and a gated pair wakes (R105). -/
def State.breakIdle (s : State) (die : Nat) : State :=
  s.modDie die fun d => match d.gate with
    | .gating => { d with gate := .powered, gateSince := s.now }
    | .gated => { d with gate := .waking, gateSince := s.now }
    | _ => { d with gateSince := s.now }

/-- TASK_PUSH: a SPAWN or SPAWND at the head of the engine queue pushes its packet at the head of the target deque, as a release at
device scope (R106, R373). -/
def execTaskPush (core : Nat) (s : State) : Out :=
  match s.engineHead core with
  | none => .next s
  | some c =>
    let pushed := ((s.popEngine core).modCore c.target fun q =>
      { q with deque := ⟨c.packet, c.launch, none⟩ :: q.deque, dequeResv := q.dequeResv - 1 }).breakIdle (dieOf c.target)
    match c.instr with
    | .spawn _ _ => if s.cmdReleased core c then .next pushed else .next s
    | .spawnd _ _ => if s.cmdReleased core c then .next pushed else .next s
    | _ => .next s

/-- A DEQ.nb has found the queue without an entry in a cycle that still runs: an ENQ of that cycle would have come first (R377). -/
def State.queueMissed (s : State) (n : NamedQueue) : Bool := n.missed.any fun e => decide ((s.cluster e.1).cyc.toNat = e.2)

/-- ENQ_ARRIVE: an ENQ at the head of the engine queue is written at the tail of its queue (R344, R375, R377). -/
def execEnqArrive (core : Nat) (s : State) : Out :=
  match s.engineHead core with
  | some c =>
    match c.instr with
    | .enq _ _ =>
      match s.queue? c.target with
      | some n =>
        .next (if s.queueMissed n then s
          else (s.popEngine core).setQueue c.target { n with packets := n.packets ++ [c.packet], resv := n.resv - 1 })
      | none => .next (s.popEngine core)
    | _ => .next s
  | none => .next s

/-! ## Pushes held too long (R107, R375) -/

/-- The push in the bundle at the lowest PC of a wave: its instruction and operands, in the environment in which it would issue. -/
def State.heldPush (s : State) (b w : Nat) : Option (Env × Instr × FmtE) :=
  match s.block? b, s.wave? b w with
  | some x, some y =>
    match ascending ((lanesOf y.living).map fun l => (y.pcOf l).toNat) with
    | [] => none
    | n :: _ =>
      let pc : PC := BitVec.ofNat 53 n
      match s.fetchBundle (x.seenBy y) pc with
      | (_, .error _) => none
      | (s, .ok ws) =>
        match decodeBundle x.priv x.budget y.rotb.toNat ws with
        | .error _ => none
        | .ok is =>
          match (s.begin b w (x.ctxOf y) (y.lanesAt pc) pc ws.length).env with
          | none => none
          | some e => is.findSome? fun i => match i.view with
            | some ⟨3, op, h, .e o⟩ => if e.holds h ∧ 0x30 ≤ op.toNat ∧ op.toNat ≤ 0x32 then some (e, i, o) else none
            | _ => none
  | _, _ => none

/-- A wave has been held by a full deque or queue for 1 ms. -/
def State.heldFull (s : State) (b w : Nat) : Bool :=
  match s.block? b, s.wave? b w with
  | some x, some y =>
    match y.full with
    | some t => decide (t + 1000000 ≤ s.now) && x.stop.isNone
    | none => false
  | _, _ => false

/-- The push of a wave fails with QUEUE_FAULT at the bundle that holds it. -/
def State.pushFails (s : State) (e : Env) (detail q : Nat) : State :=
  s.raiseIssue e.iu ⟨0, 4, 0x1A, 0, BitVec.ofNat 16 detail, none, toWord q⟩ 0x10

/-- DEQUE_FULL_TIMEOUT, R107: no entry has been freed yet; the detail names no queue (log entry 12). -/
def execDequeFullTimeout (b w : Nat) (s : State) : Out :=
  if !s.heldFull b w then .next s
  else match s.heldPush b w with
    | some (e, .spawn h o, p) => .next (if (e.spawn (.spawn h o) p).2 = .holdFull then s.pushFails e 1 0 else s)
    | some (e, .spawnd h o, p) => .next (if (e.spawnd (.spawnd h o) p).2 = .holdFull then s.pushFails e 1 0 else s)
    | _ => .next s

/-- QUEUE_FULL_TIMEOUT, R375: the queue is still full. -/
def execQueueFullTimeout (b w : Nat) (s : State) : Out :=
  if !s.heldFull b w then .next s
  else match s.heldPush b w with
    | some (e, .enq h o, p) =>
      let q := (e.lead p.s2).toNat
      .next (if (e.enq (.enq h o) p).2 = .holdQueue q true then s.pushFails e 4 q else s)
    | _ => .next s

end Sys2Proof.Machine
end

