-- ==== Sys2Proof/Machine/CopyPlan.lean ====
section
/-! DEFINITION. The geometry of copies: layout records and their checks (R65 to R67, R267, R269), compressed records (R272), boxes,
spans and fragments (R66, R248, R271), and an engine's accesses to memory. -/

namespace Sys2Proof.Machine

/-! ## Who runs a command -/

/-- Core, context and block of a command; a graph node has no block and runs on the host DMA engine context (R77). -/
structure Runner where
  core : Nat
  ctx : Nat
  x : Option Block
  deriving DecidableEq, Repr

/-- The runner of a command; none when its block or replay is gone. -/
def State.runner (s : State) (c : EngCmd) : Option Runner :=
  match c.owner with
  | .block b _ => (s.block? b).map fun x => ⟨x.core, c.ctx, some { x with ctx := c.ctx }⟩
  | .node r _ => (s.replay? r).bind fun p => (s.graph? p.handle).map fun g => ⟨hostDma, g.ctx, none⟩

/-- The die whose walkers translate for a runner (R236). -/
def Runner.die (q : Runner) : Nat := if q.core = hostDma then 0 else dieOf q.core

/-! ## An engine's accesses -/

/-- Why an engine's access fails: an address check or bad data, or a die out of service, with the address. -/
inductive EngStop where
  | check (f : XFault)
  | die (addr : DWord) (d : Nat)
  deriving DecidableEq, Repr

/-- One address of an engine: range, translation, permission and bounds (R271). -/
def State.reach (s : State) (q : Runner) (space tile : Nat) (off : Int) (n : Nat) (k : XKind) : State × Except XFault Nat :=
  match q.x with
  | some x =>
    match s.address x space off tile n 1 k with
    | (s, .ok t) => (s, .ok t.pa)
    | (s, .error f) => (s, .error f)
  | none =>
    if off < 0 ∨ 2 ^ 52 < off + n then (s, .error ⟨0x0B, BitVec.ofInt 64 off, k.code, 0⟩)
    else match s.translate q.die none q.ctx off.toNat k with
      | (s, .ok t) => (s, .ok t.pa)
      | (s, .error f) => (s, .error f)

/-- A run of n bytes cut at 4 KiB boundaries; fuel bounds the number of pieces. -/
def pagePieces : Nat → Int → Nat → List (Int × Nat)
  | 0, _, _ => []
  | fuel + 1, off, n =>
    if n = 0 then []
    else
      let m := min n (4096 - (off % 4096).toNat)
      (off, m) :: pagePieces fuel (off + m) (n - m)

/-- The pieces of a list of runs. -/
def piecesOf (runs : List (Int × Nat)) : List (Int × Nat) := runs.flatMap fun r => pagePieces (r.2 / 4096 + 2) r.1 r.2

/-- An address of a space as FAULTADDR gives it (R226, R228). -/
def spaceAddr (space tile : Nat) (off : Int) : DWord :=
  BitVec.ofInt 64 (if space = 2 then (tile : Int) * 2 ^ 32 + off % 2 ^ 32 else off)

/-- The physical places of a list of pieces, each checked in turn. -/
def State.placeAll (s : State) (q : Runner) (space tile : Nat) (k : XKind) :
    List (Int × Nat) → State × Except EngStop (List (Nat × Nat))
  | [] => (s, .ok [])
  | (off, n) :: r =>
    match s.reach q space tile off n k with
    | (s, .error f) => (s, .error (.check f))
    | (s, .ok pa) =>
      match s.dieGone pa with
      | some d => (s, .error (.die (spaceAddr space tile off) d))
      | none =>
        match State.placeAll s q space tile k r with
        | (s, .ok l) => (s, .ok ((pa, n) :: l))
        | (s, .error e) => (s, .error e)

/-- Ranges of places. -/
def rangesOfPlaces (ps : List (Nat × Nat)) : List (Nat × Nat) := ps.map fun p => (p.1, p.1 + p.2)

/-- The lines of a list of ranges leave a core's data cache (R248; log entry 32). -/
def State.dropRanges (s : State) (core : Nat) (rs : List (Nat × Nat)) : State :=
  s.modCore core fun c => { c with dcache := c.dcache.filter fun d => !(rs.any fun r => decide (r.1 < d.pa + 128 ∧ d.pa < r.2)) }

/-- The bytes of a list of runs, with the places read; bad data fails with its sub-cause at the byte's address (R271, R387). What is read at
its home leaves the core's data cache, so that no later load of the thread reads an older value (R328). -/
def State.readRuns (s : State) (q : Runner) (space tile : Nat) (runs : List (Int × Nat)) :
    State × Except EngStop (List Byte × List (Nat × Nat)) :=
  let ps := piecesOf runs
  match s.placeAll q space tile .engine ps with
  | (s, .error e) => (s, .error e)
  | (s, .ok l) =>
    let t := l.foldl (fun s p => s.errorsFound p.1 p.2) s
    match (ps.zip l).findSome? fun r => (s.badData r.2.1 r.2.2 0 none).map fun d => (d, r.1.1, r.2.1) with
    | some (d, off, pa) =>
      let at' : Int := off + (max pa (d.pa / 64 * 64) - pa : Nat)
      (t, .error (.check ⟨d.cause, spaceAddr space tile at', 0, 0⟩))
    | none =>
      (if q.core = hostDma then t else t.dropRanges q.core (rangesOfPlaces l), .ok (l.flatMap fun p => s.bytes p.1 p.2, l))

/-- Bytes written over a list of places. -/
def State.writePlaces (s : State) (ctx : Nat) : List (Nat × Nat) → List Byte → State
  | [], _ => s
  | (pa, n) :: r, bs => State.writePlaces (s.write ctx pa (bs.take n)) ctx r (bs.drop n)

/-- The physical address an engine would reach, without effect: pages without a frame have none. -/
def State.peek (s : State) (q : Runner) (space tile : Nat) (p : Int × Nat) : Option (Nat × Nat) :=
  if space = 0 then
    if p.1 < 0 ∨ 2 ^ 52 < p.1 + p.2 then none
    else match s.walk q.die p.1.toNat 5 0 (rootOf (s.ctx q.ctx).ptbase) with
      | .leaf level e => some (leafPa e (leafSize level (pteG e)) p.1.toNat, p.2)
      | _ => none
  else match s.reach q space tile p.1 p.2 .engineW with
    | (_, .ok pa) => some (pa, p.2)
    | _ => none

/-! ## Layout records (R65, R67) -/

/-- A signed field. -/
def dInt (v : DWord) : Int := v.toInt

/-- A record of 64 bytes; none when it is invalid. WIDTH and HEIGHT do not bind a compressed side (R272; log entry 32). -/
def layoutOf (bs : List Byte) : Option Layout :=
  let n (lo k : Nat) := field bs lo k
  let l : Layout :=
    { base := BitVec.ofNat 64 (n 0 8), space := n 8 1, esize := n 9 1, compressed := decide (n 10 1 = 1), width := n 12 4,
      height := n 16 4, pitch := BitVec.ofNat 64 (n 24 8), op0 := BitVec.ofNat 64 (n 32 8), op1 := BitVec.ofNat 64 (n 40 8),
      boxw := n 48 4, boxh := n 52 4 }
  let dense := decide (1 ≤ l.width ∧ l.width ≤ 65536 ∧ 1 ≤ l.height ∧ l.height ≤ 65536 ∧ l.boxw ≤ l.width ∧ l.boxh ≤ l.height)
  if l.space ≤ 2 ∧ l.esize ≤ 4 ∧ n 10 1 ≤ 1 ∧ n 11 1 = 0 ∧ n 20 4 = 0 ∧ n 56 8 = 0 ∧ 1 ≤ l.boxw ∧ 1 ≤ l.boxh ∧ (l.compressed ∨ dense)
  then some l else none

/-- The stores under way, in queues and on fabric lanes, that write some of n bytes. -/
def State.racing (s : State) (pa n : Nat) : List (Nat × List Byte) :=
  let hit (k : StoreKind) : Option (Nat × List Byte) := match k with
    | .bytes _ _ p bs => if p < pa + n ∧ pa < p + bs.length then some (p, bs) else none
    | _ => none
  (s.blocks.values.flatMap fun x => x.waves.values.flatMap fun y => y.storeq.filterMap fun q => hit q.kind) ++
    s.cores.values.flatMap fun c => c.fabric.filterMap fun f => hit f.e.kind

/-- An 8-byte word read while stores to it are under way: as it was, or as one of them leaves it (R67; log entry 60). -/
def State.racedWord (s : State) (pa : Nat) : List Byte :=
  match s.racing pa 8 with
  | [] => s.bytes pa 8
  | l =>
    match l[(Config.freeWord s.steps pa).toNat % (l.length + 1)]? with
    | some (p, bs) => (List.range 8).map fun i => if p ≤ pa + i then bs.getD (pa + i - p) (s.byte (pa + i)) else s.byte (pa + i)
    | none => s.bytes pa 8

/-- The layout record at an address, as the copy engine reads it: eight words (R67); where it cannot be read the sub-cause, and 0 where
it is unaligned or invalid (R45; log entry 36). See log entry 60. -/
def State.readLayout (s : State) (q : Runner) (addr : DWord) : State × Except Nat Layout :=
  if addr.toNat % 64 ≠ 0 then (s, .error 0)
  else match s.readRuns { q with x := none } 0 0 [((addr.toNat : Int), 64)] with
    | (s, .ok r) =>
      let pa := (r.2.map Prod.fst).headD 0
      match layoutOf ((List.range 8).flatMap fun k => s.racedWord (pa + 8 * k)) with
      | some l => (s, .ok l)
      | none => (s, .error 0)
    | (s, .error (.check f)) => (s, .error f.cause)
    | (s, .error (.die _ _)) => (s, .error 0x23)

/-- Element bytes. -/
def Layout.esz (l : Layout) : Nat := 2 ^ l.esize
/-- Elements of the box. -/
def Layout.boxElems (l : Layout) : Nat := l.boxw * l.boxh
/-- Mask bytes of a compressed record (R272). -/
def Layout.maskBytes (l : Layout) : Nat := 8 * ((l.boxElems + 63) / 64)
/-- Bytes of a compressed record of count elements. -/
def Layout.recBytes (l : Layout) (count : Nat) : Nat := 8 + l.maskBytes + (count * l.esz + 15) / 16 * 16
/-- The tile of a peer side. -/
def Layout.tile (l : Layout) : Nat := if l.space = 2 then l.base.toNat / 2 ^ 32 else 0

/-- The address of the box's first element, or of its compressed record (R66, R272). -/
def Layout.origin (l : Layout) (x y : Nat) (o0 o1 : Word) : Int :=
  (if l.space = 2 then l.base.toNat % 2 ^ 32 else l.base.toNat : Nat) + (x * (if l.compressed then 16 else l.esz) : Nat) +
    y * dInt l.pitch + o0.toNat * dInt l.op0 + o1.toNat * dInt l.op1

/-- addr(i, j) of a dense side (R66). -/
def Layout.addr (l : Layout) (org : Int) (i j : Nat) : Int := org + (i * l.esz : Nat) + j * dInt l.pitch

/-- The element lies inside WIDTH and HEIGHT (R66). -/
def Layout.inbounds (l : Layout) (x y i j : Nat) : Bool := decide (x + i < l.width ∧ y + j < l.height)

/-- One side of a command: layout, coordinates and origin. -/
structure Side where
  l : Layout
  x : Nat
  y : Nat
  org : Int
  deriving DecidableEq, Repr

/-- The source of a planned command. -/
def Plan.srcSide (p : Plan) (c : EngCmd) : Side := ⟨p.src, p.x, p.y, p.src.origin p.x p.y c.o0 c.o1⟩
/-- Its destination. -/
def Plan.dstSide (p : Plan) (c : EngCmd) : Side := ⟨p.dst, p.dx, p.dy, p.dst.origin p.dx p.dy c.o0 c.o1⟩

/-- The place of element (i, j) on a side; on a compressed side, given which elements are present, that of its packed bytes. -/
def Side.elem (d : Side) (mask : List Bool) (i j : Nat) : Option Int :=
  if d.l.compressed then
    let p := j * d.l.boxw + i
    if mask.getD p false then
      some (d.org + (8 + d.l.maskBytes + ((mask.take p).filter id).length * d.l.esz : Nat))
    else none
  else if d.l.inbounds d.x d.y i j then some (d.l.addr d.org i j) else none

/-- The bytes of a side as one span: the least and the greatest address plus one (R248). -/
def Side.span (d : Side) : Int × Int :=
  if d.l.compressed then (d.org, d.org + d.l.recBytes d.l.boxElems)
  else
    let c := [d.l.addr d.org 0 0, d.l.addr d.org (d.l.boxw - 1) 0, d.l.addr d.org 0 (d.l.boxh - 1),
      d.l.addr d.org (d.l.boxw - 1) (d.l.boxh - 1)]
    (c.foldl min d.org, c.foldl max d.org + d.l.esz)

/-- A span as the scoreboard holds it: a global one by address in its context, another by physical place (R248). -/
def Side.entry (d : Side) (q : Runner) : Nat × Nat × Nat × Nat :=
  let s := d.span
  match d.l.space with
  | 0 => (0, q.ctx, s.1.toNat, s.2.toNat)
  | 1 =>
    let b := windowPa q.core ((q.x.map fun x => x.base).getD 0)
    (1, q.ctx, (b + s.1).toNat, (b + s.2).toNat)
  | _ =>
    let b := windowPa (q.core / 128 * 128 + d.l.tile) 0
    (1, q.ctx, (b + s.1).toNat, (b + s.2).toNat)

/-! ## Fragments (R271) -/

/-- The fragments of a row: first element and number of elements. a and b place an element on the two sides; st is the start of
the fragment so far, la and lb the 4 KiB blocks of its last placed elements. -/
def fragRow (esz : Nat) (a b : Nat → Option Int) : Nat → Nat → Nat → Option Int → Option Int → List (Nat × Nat)
  | 0, i, st, _, _ => if st < i then [(st, i - st)] else []
  | k + 1, i, st, la, lb =>
    let pa := (a i).map fun v => v / 4096
    let pb := (b i).map fun v => v / 4096
    let moved (l p : Option Int) := l.isSome && p.isSome && l != p
    if st < i ∧ (4096 ≤ (i - st) * esz ∨ moved la pa ∨ moved lb pb) then (st, i - st) :: fragRow esz a b k (i + 1) i pa pb
    else fragRow esz a b k (i + 1) st (pa.or la) (pb.or lb)

/-- A fragment: its row and its elements. -/
structure Frag where
  j : Nat
  i : Nat
  n : Nat
  deriving DecidableEq, Repr

/-- The fragments of a box whose elements stand at a and b. -/
def fragsOf (w h esz : Nat) (a b : Nat → Nat → Option Int) : List Frag :=
  (List.range h).flatMap fun j =>
    (fragRow esz (fun i => a i j) (fun i => b i j) w 0 0 none none).map fun r => ⟨j, r.1, r.2⟩

/-- Runs joined where they follow each other. -/
def joinRuns : List (Int × Nat) → List (Int × Nat)
  | [] => []
  | (a, n) :: r =>
    match joinRuns r with
    | (b, m) :: t => if a + n = b then (a, n + m) :: t else (a, n) :: (b, m) :: t
    | [] => [(a, n)]

/-- The runs of a fragment's placed elements. -/
def Frag.runs (f : Frag) (esz : Nat) (a : Nat → Nat → Option Int) : List (Int × Nat) :=
  joinRuns ((List.range f.n).filterMap fun k => (a (f.i + k) f.j).map fun v => (v, esz))

/-! ## Compressed records (R272) -/

/-- The presence of each element, when COUNT and the reserved field agree with the mask. -/
def maskOf (l : Layout) (hd : List Byte) : Option (List Bool) :=
  let m := (hd.drop 8).flatMap fun b => (List.range 8).map fun k => b.getLsbD k
  let present := m.take l.boxElems
  if field hd 0 4 = (m.filter id).length ∧ field hd 4 4 = 0 then some present else none

/-- The record of a list of elements: those whose bits are not all zero are present. -/
def compressed (l : Layout) (es : List (List Byte)) : List Byte :=
  let present := es.map fun e => e.any fun b => b ≠ 0
  let data := (es.filter fun e => e.any fun b => b ≠ 0).flatten
  let count := (present.filter id).length
  let mask := (List.range l.maskBytes).map fun k =>
    BitVec.ofNat 8 (packNat 1 ((List.range 8).map fun i => if present.getD (8 * k + i) false then 1 else 0))
  leBytes 4 count ++ leBytes 4 0 ++ mask ++ data ++ List.replicate (l.recBytes count - (8 + l.maskBytes + data.length)) 0

/-- Bytes cut into elements. -/
def chunks (n : Nat) : Nat → List Byte → List (List Byte)
  | 0, _ => []
  | k + 1, bs => bs.take n :: chunks n k (bs.drop n)

end Sys2Proof.Machine
end

