-- ==== Sys2Proof/Machine/Copies.lean ====
section
/-! DEFINITION. The copy commands and the copy engine: CPY, CPYS, CPYM and CPYT (R266 to R275), their entry into the copy table,
their fragments, faults and completion (R341, R342, R388, R389). -/

namespace Sys2Proof.Machine

/-! ## Issue -/

/-- TO, TC: the traffic class of a command (R291). -/
def Env.tclassOf (e : Env) (o : FmtE) : Nat := if o.f.getLsbD 13 then (o.f.extractLsb' 11 2).toNat else e.ofLaunch fun l => l.tclass
/-- The outer indices that OL selects (R268). -/
def Env.outer (e : Env) (o : FmtE) : Word × Word :=
  match (o.f.extractLsb' 4 2).toNat with
  | 0 => (0, 0)
  | 1 => (e.y.loopc, 0)
  | _ => (e.y.loopc, e.y.rotb.setWidth 32)
/-- The leader's quad. -/
def Env.leadQuad (e : Env) (n : Spec) : List Word := e.quad n (leaderOf e.iu.lanes)

/-- The instant of a CPYT: the value with the given low half nearest to the timer, in its window (R275). -/
def instantOf (now : Nat) (w : Word) : DWord :=
  let d := (w.toNat + 2 ^ 32 - now % 2 ^ 32) % 2 ^ 32
  BitVec.ofNat 64 (if d ≤ 2 ^ 31 then now + d else now + d - 2 ^ 32)

/-- A copy or base-die command issues (R266, R269): ol says whether it reads the outer indices. -/
def copySyl (i : Instr) (ol : Bool) (h : Hdr) (o : FmtE) (s : State) : Out :=
  xAct h s fun e =>
    let q2 := e.leadQuad o.s2
    let oo := if ol then e.outer o else (0, 0)
    .eff [.engine { e.cmd i with q1 := e.leadQuad o.s1, q2 := q2, o0 := oo.1, o1 := oo.2, tc := e.tclassOf o,
                                 inst := instantOf e.s.now (q2.getD 3 0) } (some .cp)]

/-- CPY, R270. -/
def execCpy (h : Hdr) (o : FmtE) (s : State) : Out := copySyl (.cpy h o) true h o s
/-- CPYS, R273. -/
def execCpys (h : Hdr) (o : FmtE) (s : State) : Out := copySyl (.cpys h o) true h o s
/-- CPYM, R274. -/
def execCpym (h : Hdr) (o : FmtE) (s : State) : Out := copySyl (.cpym h o) true h o s
/-- CPYT, R275. -/
def execCpyt (h : Hdr) (o : FmtE) (s : State) : Out := copySyl (.cpyt h o) true h o s

/-! ## The parts of a command -/

/-- The copy commands (R266). -/
inductive CopyKind where
  | cpy
  | cpys
  | cpym
  | gath
  | redc
  | cnvt
  | bsnd
  | cpyt
  deriving DecidableEq, Repr

/-- The kind and the fields of a copy command. -/
def EngCmd.copy? (c : EngCmd) : Option (CopyKind × FmtE) :=
  match c.instr with
  | .cpy _ o => some (.cpy, o)
  | .cpys _ o => some (.cpys, o)
  | .cpym _ o => some (.cpym, o)
  | .gath _ o => some (.gath, o)
  | .redc _ o => some (.redc, o)
  | .cnvt _ o => some (.cnvt, o)
  | .bsnd _ o => some (.bsnd, o)
  | .cpyt _ o => some (.cpyt, o)
  | _ => none

/-- A base-die command (R276). -/
def CopyKind.baseDie (k : CopyKind) : Bool := k = .gath || k = .redc || k = .cnvt
/-- Word k of S1, and of S2. -/
def EngCmd.w1 (c : EngCmd) (k : Nat) : Word := c.q1.getD k 0
@[inherit_doc EngCmd.w1] def EngCmd.w2 (c : EngCmd) (k : Nat) : Word := c.q2.getD k 0
/-- The addresses of the source and destination records. -/
def EngCmd.srec (c : EngCmd) : DWord := pair (c.w1 0) (c.w1 1)
@[inherit_doc EngCmd.srec] def EngCmd.drec (c : EngCmd) : DWord := pair (c.w1 2) (c.w1 3)
/-- The scope of completion (R268). -/
def copyScope (o : FmtE) : Nat := (o.f.extractLsb' 8 3).toNat
/-- BE, and ZF or RQ. -/
def beBit (o : FmtE) : Bool := o.f.getLsbD 7
@[inherit_doc beBit] def zfBit (o : FmtE) : Bool := o.f.getLsbD 6

/-! ## Faults of engines (R267, R271, R389, R445) -/

/-- The standing of a node in its replay. -/
def State.setNode (s : State) (r n : Nat) (st : NStatus) : State := s.modReplay r fun p => { p with nodes := setAt p.nodes n st }

/-- The graph of a replay. -/
def State.graphOf (s : State) (replay : Nat) : Option (Replay × Graph) :=
  (s.replay? replay).bind fun r => (s.graph? r.handle).map fun g => (r, g)

/-- The launch accepted for a node of a replay. -/
def State.launchOfNode (s : State) (replay node : Nat) : Option (Nat × Launch) :=
  List.find? (fun (e : Nat × Launch) => decide (e.2.replay = replay ∧ e.2.node = node)) s.launches

/-- Predecessors of a node. -/
def Graph.preds (g : Graph) (n : Nat) : List Nat := ((g.edges.filter fun e => e.2 = n).map fun e => e.1).eraseDups

/-- Every block of a launch with TRIGOK has triggered or exited (R81, R417). -/
def Launch.releasesEarly (l : Launch) : Bool :=
  l.lflags.getLsbD 1 && decide (l.status = .placed) &&
  (List.range l.total).all fun b => l.triggered.contains b || l.exited.contains b

/-- An edge to a node is satisfied: its predecessor is complete, or both are launches and the predecessor has triggered (R81). -/
def State.edgeMet (s : State) (replay : Nat) (r : Replay) (g : Graph) (n p : Nat) : Bool :=
  r.nodes[p]? = some .done ||
  ((g.nodes[n]?.map fun x => x.kind) = some 1 && r.nodes[n]? = some .waiting && match s.launchOfNode replay p with
    | some e => e.2.releasesEarly
    | none => false)

/-- The nodes of a replay that wait with every edge satisfied are ready from now on, whatever becomes of the edges (R81). -/
def State.freezeReady (s : State) (replay : Nat) : State :=
  match s.graphOf replay with
  | none => s
  | some (r, g) =>
    let ready (n : Nat) : Bool := (g.preds n).all fun k => s.edgeMet replay r g n k
    s.modReplay replay fun p => { p with nodes := p.nodes.mapIdx fun n st => if st = .waiting ∧ ready n then .ready else st }

/-- A replay is abandoned: a node that is not ready by now never runs; a skipped one is ready when its predecessors are complete
(R82). -/
def State.abandonReplay (s : State) (replay : Nat) : State :=
  match s.graphOf replay with
  | none => s
  | some (r, g) =>
    let complete (n : Nat) : Bool := (g.preds n).all fun k => r.nodes[k]? = some .done
    let left (n : Nat) (st : NStatus) : NStatus := if st = .waiting ∨ (st = .skipped ∧ !complete n) then .dead else st
    (s.freezeReady replay).modReplay replay fun p => { p with abandoned := true, nodes := p.nodes.mapIdx left }

/-- A node that is not a launch ends with a fault record, and its replay is abandoned (R81, R82). -/
def State.endNode (s : State) (r n cause : Nat) (flags : BitVec 4) (addr det : DWord) : State :=
  match s.replay? r with
  | none => s
  | some p =>
    let ctx := ((s.graph? p.handle).map fun g => g.ctx).getD 0
    let s := s.report { s.recordL cause ctx addr det (mkTag p.handle n) p.number with flags := flags }
    (s.setNode r n .dead).abandonReplay r

/-- The copy context of a command is suspended, or runs again. -/
def State.suspendCtx (s : State) (b k : Nat) (v : Bool) : State :=
  s.modBlock b fun x => x.setCopyCtx k { x.copyCtx k with suspended := v }

/-- An engine fault of a command: its context is suspended and its block stops; a block that has exited has no wave to stop; a
node ends. -/
def State.engineFault (s : State) (c : EngCmd) (cause : Nat) (flags : BitVec 4) (addr det : DWord) : State :=
  match c.owner with
  | .block b w =>
    let s := s.suspendCtx b c.kctx true
    if ((s.block? b).map fun x => x.exited).getD false then s.asyncBlock b cause (flags ||| 2) addr det c.num
    else s.asyncFault b w cause (flags ||| 2) addr det c.num
  | .node r n => s.endNode r n cause (flags ||| 3) addr det

/-- Entry k of a core's copy table changed. -/
def State.modCopy (s : State) (core k : Nat) (f : CopyEntry → CopyEntry) : State :=
  s.modCore core fun c => { c with copies := c.copies.mapIdx fun i e => if i = k then f e else e }

/-- Release-buffer space given back (R275). -/
def State.freeRelease (s : State) (core n : Nat) : State :=
  if n = 0 then s else s.modDie (if core = hostDma then 0 else dieOf core) fun d => { d with release := d.release - n }

/-- Entry k of a copy table gone, and with it its release-buffer space. -/
def State.dropCopy (s : State) (core k : Nat) : State :=
  let n := ((s.core core).copies[k]?.map fun e => e.reserved).getD 0
  (s.freeRelease core n).modCore core fun c => { c with copies := dropAt c.copies k }

/-- A running command fails: its entry is suspended at its resume point. A node keeps no entry. -/
def State.copyFails (s : State) (core k : Nat) (e : CopyEntry) (cause : Nat) (flags : BitVec 4) (addr det : DWord) : State :=
  let s := match e.cmd.owner with
    | .block _ _ => s.modCopy core k fun e => { e with phase := .suspended, cause := cause }
    | .node _ _ => s.dropCopy core k
  s.engineFault e.cmd cause flags addr det

/-- A fragment fails a check on a side (R271): k × 256 + sub-cause and the resume point. -/
def State.fragFails (s : State) (core k : Nat) (e : CopyEntry) (source : Bool) (resume : Nat) (w : EngStop) : State :=
  match w with
  | .check f => s.copyFails core k e (if source then 0x11 else 0x12) 0 f.addr (mkDet (e.cmd.kctx * 256 + f.cause) none resume)
  | .die a d => s.copyFails core k e 0x23 0 a (s.dieDet d)

/-! ## Value checks (R267 to R275) -/

/-- A failed value check: cause, address, DINFO, DVAL. -/
structure ValueFail where
  cause : Nat
  addr : DWord
  dinfo : Nat
  dval : Nat
  deriving DecidableEq, Repr

/-- LAYOUT_INVALID at a record, with the sub-cause of a failed read (R45, R386; log entry 36). See log entry 15. -/
def EngCmd.badLayout (c : EngCmd) (addr : DWord) (sub : Nat := 0) : ValueFail := ⟨0x13, addr, c.kctx, sub⟩

/-- A node's record is global (R77). -/
def nodeSpaceOk (c : EngCmd) (l : Layout) : Bool :=
  match c.owner with
  | .node _ _ => l.space = 0
  | .block _ _ => true

/-- What the two records of a copy must satisfy together (R270, R272 to R275). -/
def pairOk (k : CopyKind) (o : FmtE) (a b : Layout) : Bool :=
  decide (a.esize = b.esize ∧ a.boxw = b.boxw ∧ a.boxh = b.boxh) &&
  match k with
  | .cpys => a.compressed != b.compressed && decide (a.boxElems ≤ 4096) && !(b.compressed && zfBit o)
  | .cpym => !a.compressed && !b.compressed && decide (b.space = 1)
  | .cpyt => !a.compressed && !b.compressed && decide (a.boxElems * a.esz ≤ 2 ^ 22)
  | _ => !a.compressed && !b.compressed

/-- The alignment of a compressed record (R272). -/
def Side.aligned (d : Side) : Bool := !d.l.compressed || decide (d.org % 16 = 0)

/-- Destination bytes of a command in one destination, as its records fix it: in-bounds elements; unstated where the data decide
(R389; log entry 33). -/
def Plan.bytesFixed (p : Plan) (k : CopyKind) (o : FmtE) (step : Nat) : Nat :=
  let inside (x w bw : Nat) := min bw (w - x)
  let n := inside p.dx p.dst.width p.dst.boxw * inside p.dy p.dst.height p.dst.boxh * p.dst.esz
  if k = .cpys ∧ p.dst.compressed then (Config.freeWord step 0).toNat % (p.dst.recBytes p.dst.boxElems + 1)
  else if k = .cpys ∧ !zfBit o then (Config.freeWord step 0).toNat % (n + 1)
  else n

/-- The cohort of a CPYM and its resident members (R274). -/
def State.multicast (s : State) (c : EngCmd) : Except ValueFail (List Nat) :=
  let w := c.w2 2
  let k := w.toNat % 256
  if 256 ≤ w.toNat then .error (c.badLayout c.drec)
  else match (s.launch? c.launch).bind fun l => l.cohorts[k]? with
    | some h =>
      if h.isMulticast then
        .ok (h.members.filterMap fun m => (s.blockOf? c.launch m).bind fun r => if r.2.exited then none else some r.1)
      else .error ⟨0x1C, 0, 0, k⟩
    | none => .error ⟨0x1C, 0, 0, k⟩

/-- ROUTE of a copy: the peer module of a remote one (R269). -/
def State.route (s : State) (q : Runner) (c : EngCmd) : Except ValueFail (Option Nat) :=
  let w := c.w2 2
  if w.toNat / 2 ^ 8 % 2 ^ 23 ≠ 0 then .error (c.badLayout c.drec)
  else if !w.getLsbD 31 then .ok none
  else if s.peerReady q.ctx (w.toNat % 256) then .ok (some (w.toNat % 256))
  else .error ⟨0x22, 0, 0, w.toNat % 256⟩

/-- The records of a copy, read and checked. See log entry 15. -/
def State.planCopy (s : State) (q : Runner) (c : EngCmd) (k : CopyKind) (o : FmtE) : State × Except ValueFail Plan :=
  let where' : Except ValueFail (Option Nat × List Nat) :=
    if k = .cpym then (s.multicast c).map fun m => (none, m) else (s.route q c).map fun r => (r, [])
  match where' with
  | .error f => (s, .error f)
  | .ok (remote, members) =>
    match s.readLayout q c.srec with
    | (s, .error n) => (s, .error (c.badLayout c.srec n))
    | (s, .ok a) =>
      match s.readLayout q c.drec with
      | (s, .error n) => (s, .error (c.badLayout c.drec n))
      | (s, .ok b) =>
        let half (w : Word) (j : Nat) := w.toNat / 2 ^ (16 * j) % 2 ^ 16
        let p : Plan :=
          { src := a, dst := b, x := half (c.w2 0) 0, y := half (c.w2 0) 1, dx := half (c.w2 1) 0, dy := half (c.w2 1) 1,
            remote := remote, members := members, total := 0 }
        if !nodeSpaceOk c a ∨ (k ≠ .cpys ∧ a.compressed) then (s, .error (c.badLayout c.srec))
        else if !nodeSpaceOk c b ∨ !pairOk k o a b ∨ (remote.isSome ∧ b.space ≠ 0) then (s, .error (c.badLayout c.drec))
        else if !(p.srcSide c).aligned then (s, .error (c.badLayout c.srec))
        else if !(p.dstSide c).aligned then (s, .error (c.badLayout c.drec))
        else (s, .ok { p with total := p.bytesFixed k o s.steps })

/-! ## What a fragment reads and writes -/

/-- The runners that a command writes for: itself, or each member of a CPYM. -/
def State.writers (s : State) (q : Runner) (k : CopyKind) (p : Plan) : List Runner :=
  if k = .cpym then p.members.filterMap fun m => (s.block? m).map fun x => ⟨x.core, x.ctx, some x⟩ else [q]

/-- Presence in the compressed source of an expanding copy; for a dense source nothing is read. -/
def State.sourceMask (s : State) (q : Runner) (p : Plan) (c : EngCmd) : State × Except EngStop (List Bool) :=
  if !p.src.compressed then (s, .ok [])
  else
    let d := p.srcSide c
    match s.readRuns q p.src.space p.src.tile [(d.org, 8 + p.src.maskBytes)] with
    | (s, .error w) => (s, .error w)
    | (s, .ok r) =>
      match maskOf p.src r.1 with
      | some m => (s, .ok m)
      | none => (s, .error (.check ⟨0, BitVec.ofInt 64 d.org, 0, 0⟩))

/-- The command first reads the whole source into a buffer. -/
def Plan.buffered (p : Plan) (k : CopyKind) : Bool := k = .cpyt || k = .bsnd || p.dst.compressed

/-- The fragments of a command's box (R271). -/
def Plan.frags (p : Plan) (k : CopyKind) (c : EngCmd) (mask : List Bool) : List Frag :=
  let a := p.srcSide c
  let b := p.dstSide c
  fragsOf p.src.boxw p.src.boxh p.src.esz (a.elem mask) (if k = .bsnd ∨ p.dst.compressed then fun _ _ => none else b.elem [])

/-- The bytes of a fragment's elements, absent and out-of-bounds ones zero; n bytes an element. -/
def spread (n : Nat) : List Bool → List Byte → List Byte
  | [], _ => []
  | true :: r, bs => bs.take n ++ spread n r (bs.drop n)
  | false :: r, bs => List.replicate n 0 ++ spread n r bs

/-- Ranges that become unspecified. -/
def State.forgetAll (s : State) (rs : List (Nat × Nat)) : State := rs.foldl (fun s r => s.forget r.1 r.2) s

/-- Bytes become specified. -/
def State.reveal (s : State) (rs : List (Nat × Nat)) : State :=
  { s with unspec := rs.foldl (fun u r => u.flatMap (cutRange r.1 r.2)) s.unspec }

/-- What lies in ranges and in none of others. -/
def cutAll (others rs : List (Nat × Nat)) : List (Nat × Nat) := others.foldl (fun l o => l.flatMap (cutRange o.1 o.2)) rs

/-- A read by the engine of a command whose destination is unspecified to others: it sees its own source as it stands (R270). -/
def State.ownRead {α : Type} (s : State) (own : List (Nat × Nat)) (f : State → State × α) : State × α :=
  if own = [] then f s else let r := f (s.reveal own); (r.1.forgetAll own, r.2)

/-- A fragment's source read: its elements' bytes. own is what the command has made unspecified. -/
def State.readFrag (s : State) (q : Runner) (p : Plan) (c : EngCmd) (own : List (Nat × Nat)) (mask : List Bool) (f : Frag) :
    State × Except EngStop (List Byte × List (Nat × Nat)) :=
  let a := (p.srcSide c).elem mask
  match s.ownRead own fun s => s.readRuns q p.src.space p.src.tile (f.runs p.src.esz a) with
  | (s, .ok r) => (s, .ok (spread p.src.esz ((List.range f.n).map fun k => (a (f.i + k) f.j).isSome) r.1, r.2))
  | (s, .error w) => (s, .error w)

/-- The elements of a fragment that the command writes: in bounds, and present unless absent ones are written as zero (R273). -/
def Plan.dstElem (p : Plan) (o : FmtE) (c : EngCmd) (mask : List Bool) (i j : Nat) : Option Int :=
  if p.src.compressed ∧ !zfBit o ∧ !mask.getD (j * p.src.boxw + i) false then none else (p.dstSide c).elem [] i j

/-- The places of a list of runs for every writer, or the first failure. -/
def State.placeRuns (s : State) (l : Layout) (runs : List (Int × Nat)) : List Runner → State × Except EngStop (List (Nat × List (Nat × Nat)))
  | [] => (s, .ok [])
  | q :: qs =>
    match s.placeAll q l.space l.tile .engineW (piecesOf runs) with
    | (s, .error w) => (s, .error w)
    | (s, .ok ps) =>
      match State.placeRuns s l runs qs with
      | (s, .ok r) => (s, .ok ((q.ctx, ps) :: r))
      | (s, .error w) => (s, .error w)

/-- Bytes written over a list of places, but for those of given ranges. -/
def State.writeOutside (s : State) (ctx : Nat) (shared : List (Nat × Nat)) : List (Nat × Nat) → List Byte → State
  | [], _ => s
  | (pa, n) :: r, bs =>
    let t := (cutAll shared [(pa, pa + n)]).foldl (fun s q => s.write ctx q.1 ((bs.drop (q.1 - pa)).take (q.2 - q.1))) s
    State.writeOutside t ctx shared r (bs.drop n)

/-- Bytes of a copy written; they stay unspecified until it completes (R270). -/
def State.putFrag (s : State) (core k : Nat) (shared : List (Nat × Nat)) (ws : List (Nat × List (Nat × Nat))) (bs : List Byte) : State :=
  let s := ws.foldl (fun s w => s.writeOutside w.1 shared w.2 bs) s
  let rs := ws.flatMap fun w => rangesOfPlaces w.2
  (s.forgetAll rs).modCopy core k fun e => { e with wrote := e.wrote ++ rs, frag := e.frag + 1 }

/-- What the peer module finds at the addresses of a remote fragment: the first address that fails, and its sub-cause (R269, R271;
log entry 59). -/
def State.peerFails (s : State) (m : Nat) (runs : List (Int × Nat)) : Option XFault :=
  (piecesOf runs).findSome? fun (r : Int × Nat) =>
    let bad (n : Nat) : XFault := ⟨n, BitVec.ofInt 64 r.1, 0, 0⟩
    if r.1 < 0 ∨ 2 ^ 52 < r.1 + r.2 then some (bad 0x0B)
    else match Config.peerCheck s.steps m r.1.toNat with
      | 0 => none
      | n + 1 => [0x0B, 0x0C, 0x0D, 0x2F][n]?.map bad

/-- Bytes sent to a peer module, or the failure it answers (R269, R271). See log entry 59. -/
def State.sendFrag (s : State) (core k : Nat) (e : CopyEntry) (m : Nat) (runs : List (Int × Nat)) (resume : Nat) : State :=
  match s.peerFails m runs with
  | some f => s.fragFails core k e false resume (.check f)
  | none => s.modCopy core k fun e => { e with frag := e.frag + 1, out := e.out + (runs.map Prod.snd).sum }

/-- A fragment's elements written by every writer. -/
def State.writeFrag (s : State) (core k : Nat) (e : CopyEntry) (q : Runner) (kd : CopyKind) (o : FmtE) (p : Plan) (mask : List Bool)
    (f : Frag) (bs : List Byte) (resume : Nat) : State :=
  let d := p.dstElem o e.cmd mask
  let runs := f.runs p.dst.esz d
  match p.remote with
  | some m => s.sendFrag core k e m runs resume
  | none =>
    let out := ((List.range f.n).zip (chunks p.dst.esz f.n bs)).flatMap fun r => if (d (f.i + r.1) f.j).isSome then r.2 else []
    match s.placeRuns p.dst runs (s.writers q kd p) with
    | (s, .error w) => s.fragFails core k e false resume w
    | (s, .ok ws) => s.putFrag core k e.shared ws out

/-- The record fragments of a compressing copy: the record's own bytes in 4 KiB blocks. -/
def Plan.recordRuns (p : Plan) (c : EngCmd) (buf : List Byte) : List ((Int × Nat) × List Byte) :=
  let r := compressed p.dst (chunks p.dst.esz p.dst.boxElems buf)
  let ps := piecesOf [((p.dstSide c).org, r.length)]
  ps.zip (ps.foldl (fun (acc : List (List Byte) × List Byte) q => (acc.1 ++ [acc.2.take q.2], acc.2.drop q.2)) ([], r)).1

/-- Fragments of a whole command, both phases of a buffered one. -/
def Plan.fragCount (p : Plan) (k : CopyKind) (c : EngCmd) (mask : List Bool) (buf : List Byte) : Nat :=
  let n := (p.frags k c mask).length
  if k = .cpyt then 2 * n else if k = .cpys ∧ p.dst.compressed then n + (p.recordRuns c buf).length else n

/-! ## COPY_DEQUEUE -/

/-- Every span of the destination (R248). -/
def State.spansOf (s : State) (q : Runner) (k : CopyKind) (p : Plan) (c : EngCmd) : List (Nat × Nat × Nat × Nat) :=
  if p.remote.isSome ∨ k = .bsnd then [] else (s.writers q k p).map fun r => (p.dstSide c).entry r

/-- The places of runs of bytes that stand in memory now. -/
def State.rangesAt (s : State) (q : Runner) (l : Layout) (runs : List (Int × Nat)) : List (Nat × Nat) :=
  rangesOfPlaces ((piecesOf runs).filterMap (s.peek q l.space l.tile))

/-- The runs of a copy's destination bytes; for a compressed one those of the largest record it may hold. -/
def State.destRuns (s : State) (q : Runner) (k : CopyKind) (o : FmtE) (p : Plan) (c : EngCmd) : List (Int × Nat) :=
  if p.remote.isSome ∨ k = .bsnd then []
  else if p.dst.compressed then [((p.dstSide c).org, p.dst.recBytes p.dst.boxElems)]
  else match s.sourceMask q p c with
    | (_, .error _) => []
    | (_, .ok mask) => joinRuns ((List.range p.dst.boxh).flatMap fun j => (List.range p.dst.boxw).filterMap fun i =>
        (p.dstElem o c mask i j).map fun a => (a, p.dst.esz))

/-- The destination of a copy, which becomes unspecified as the command starts (R270, R341). -/
def State.destRanges (s : State) (q : Runner) (k : CopyKind) (o : FmtE) (p : Plan) (c : EngCmd) : List (Nat × Nat) :=
  let runs := s.destRuns q k o p c
  (s.writers q k p).flatMap fun r => s.rangesAt r p.dst runs

/-- The unbacked global pages that some runs lie in are bound, where they can be (R240; log entry 79). -/
def State.bindRuns (s : State) (q : Runner) (l : Layout) (runs : List (Int × Nat)) : State :=
  if l.space ≠ 0 then s
  else (piecesOf runs).foldl (fun s r =>
    if (s.peek q 0 0 r).isSome then s
    else match s.reach q 0 0 r.1 r.2 .engineW with
      | (t, .ok _) => t
      | (_, .error _) => s) s

/-- The unbacked pages of a copy's destination are bound as the command starts, so that all of it is unspecified from then on (R270, R341;
log entry 79). -/
def State.bindDest (s : State) (q : Runner) (k : CopyKind) (o : FmtE) (p : Plan) (c : EngCmd) : State :=
  let runs := s.destRuns q k o p c
  (s.writers q k p).foldl (fun s r => s.bindRuns r p.dst runs) s

/-- The source of a copy in memory. -/
def State.sourceRanges (s : State) (q : Runner) (p : Plan) (c : EngCmd) : List (Nat × Nat) :=
  let d := p.srcSide c
  s.rangesAt q p.src (if p.src.compressed then [(d.org, p.src.recBytes p.src.boxElems)]
    else joinRuns ((List.range p.src.boxh).flatMap fun j => (List.range p.src.boxw).filterMap fun i =>
      (d.elem [] i j).map fun a => (a, p.src.esz)))

/-- A new entry of the copy table. -/
def CopyEntry.new (c : EngCmd) (plan : Option Plan) (phase : CopyPhase) : CopyEntry :=
  { cmd := c, plan := plan, phase := phase, frag := 0, cause := 0, spans := [], sources := [], buf := [], mask := none, read := [], dest := [],
    wrote := [], opened := false, shared := [], out := 0, reserved := 0, late := 0, slot := none }

/-- What two lists of ranges share. -/
def overlaps (a b : List (Nat × Nat)) : List (Nat × Nat) :=
  a.flatMap fun r => b.filterMap fun q => if max r.1 q.1 < min r.2 q.2 then some (max r.1 q.1, min r.2 q.2) else none

/-- An entry starts: its destination becomes unspecified to others (R270, R342). -/
def State.openDest (s : State) (core j : Nat) (dst src : List (Nat × Nat)) : State :=
  (s.forgetAll dst).modCopy core j fun e => { e with opened := true, dest := cutAll s.unspec dst, shared := overlaps src dst }

/-- A command that has passed its checks holds its spans. -/
def State.startCopy (s : State) (core j : Nat) (q : Runner) (c : EngCmd) (k : CopyKind) (p : Plan) : State :=
  s.modCopy core j fun e =>
    { e with plan := some p, phase := if k = .cpyt then .gated else .running, spans := s.spansOf q k p c,
             sources := [(p.srcSide c).entry q] }

/-- A value check fails: the entry stays, suspended, with no span and resume point 0 (R267). -/
def State.valueFails (s : State) (core j : Nat) (c : EngCmd) (f : ValueFail) : State :=
  (s.modCopy core j fun e => CopyEntry.new e.cmd none .running).copyFails core j (CopyEntry.new c none .running) f.cause 0 f.addr
    (mkDet f.dinfo none f.dval)

/-- A wave's block may start engine work: it runs, or it has exited with copies in flight (R380, R445). -/
def State.mayStart (s : State) (c : EngCmd) : Bool :=
  match c.owner with
  | .block b _ => ((s.block? b).map fun x => x.exited || x.stop.isNone).getD false
  | .node _ _ => true

/-- The reply reservation that a command needs (R249): queue and lanes, and the wave. -/
def State.replyRoom (s : State) (c : EngCmd) : Bool :=
  match c.answers, c.owner with
  | some (q, m), .block b w =>
    ((s.wave? b w).map fun y => (lanesOf m).all fun l =>
      decide ((Table.get [] y.replies (128 * q + l)).length + Table.get 0 y.resv (128 * q + l) < 16)).getD true
  | _, _ => true

/-- The reservation taken (n = 1) or given back (n = -1). -/
def State.reserve (s : State) (c : EngCmd) (n : Int) : State :=
  match c.answers, c.owner with
  | some (q, m), .block b w =>
    s.modWave b w fun y => { y with resv := (lanesOf m).foldl (fun t l =>
      Table.set 0 t (128 * q + l) (((Table.get 0 t (128 * q + l) : Nat) : Int) + n).toNat) y.resv }
  | _, _ => s

end Sys2Proof.Machine
end

