-- ==== Sys2Proof/Machine/Special.lean ====
section
/-! DEFINITION. The special functions (R218) and the twiddle (R34, R219): exact results where the value is rational, and otherwise
a fixed-point enclosure of the real value, rounded at both ends. Where the ends round apart, the result is a free value (log entry 9);
no argument is known for which they do. -/

namespace Sys2Proof.Machine

/-- Fraction bits of the enclosures. -/
def fxBits : Nat := 512
/-- One. -/
def fxOne : Int := 2 ^ 512
/-- Half the width of an enclosure: every series below has fewer than 2^10 operations that lose less than 2^6 units each. -/
def fxErr : Int := 2 ^ 24

/-- Product of two fixed-point numbers, rounded down. -/
def fxMul (a b : Int) : Int := a * b / 2 ^ 512

/-- Sum of the odd powers of z over their exponents: arc tangent (alternating) or area tangent. -/
def atanSum (alternate : Bool) : Nat → Nat → Int → Int → Int
  | 0, _, _, _ => 0
  | fuel + 1, k, z2, p => p / (2 * k + 1) + atanSum alternate fuel (k + 1) z2 (if alternate then -(fxMul p z2) else fxMul p z2)

/-- arctan of 1/n. -/
def atanInv (n : Nat) : Int := atanSum true 130 0 (2 ^ 512 / (n * n : Nat)) (2 ^ 512 / (n : Int))

/-- π by Machin's formula. -/
def fxPi : Int := 16 * atanInv 5 - 4 * atanInv 239

/-- The natural logarithm of the quotient a/b of numbers with 1 ≤ a/b < 2. -/
def fxLn (a b : Nat) : Int :=
  let z : Int := ((a : Int) - b) * 2 ^ 512 / (a + b : Nat)
  2 * atanSum false 190 0 (fxMul z z) z

/-- ln 2. -/
def fxLn2 : Int := 2 * atanSum false 190 0 (2 ^ 512 / 9) (2 ^ 512 / 3)

/-- The exponential series. -/
def expSum : Nat → Nat → Int → Int → Int
  | 0, _, _, _ => 0
  | fuel + 1, k, y, p => p + expSum fuel (k + 1) y (fxMul p y / ((k : Int) + 1))

/-- The sine series from its k-th term. -/
def trigSum : Nat → Nat → Int → Int → Int
  | 0, _, _, _ => 0
  | fuel + 1, k, y2, p => p + trigSum fuel (k + 2) y2 (-(fxMul p y2 / (((k : Int) + 1) * (k + 2))))

/-- sin(π a/b) for 0 ≤ a/b ≤ 1/2. -/
def fxSin (a b : Nat) : Int :=
  let y := fxPi * a / b
  trigSum 80 1 (fxMul y y) y

/-- cos(π a/b) for 0 ≤ a/b ≤ 1/2. -/
def fxCos (a b : Nat) : Int :=
  let y := fxPi * a / b
  trigSum 80 0 (fxMul y y) fxOne

/-- The nearest-even rounding of a value enclosed around v, when both ends agree. -/
def encRound (f : Fmt) (neg : Bool) (v : Int) (shift : Int) : Option Nat :=
  let at' (x : Int) := let s := scaled 1 (shift - fxBits); f.round .rne (.fin neg (x.toNat * s.1) s.2)
  if at' (v - fxErr) = at' (v + fxErr) then some (at' v) else none

/-- The integer square root, one bit at a time from bit k down. -/
def isqrt : Nat → Nat → Nat → Nat
  | 0, n, r => if (r + 1) * (r + 1) ≤ n then r + 1 else r
  | k + 1, n, r => isqrt k n (if (r + 2 ^ (k + 1)) * (r + 2 ^ (k + 1)) ≤ n then r + 2 ^ (k + 1) else r)

/-- The square root of a positive quotient: 300 fraction bits, with a half unit added where it is not exact. -/
def sqrtVal (num den : Nat) : FVal :=
  let n := num * 4 ^ 300 / den
  let r := isqrt (Nat.log2 n / 2 + 1) n 0
  if r * r * den = num * 4 ^ 300 then .fin false r (2 ^ 300) else .fin false (2 * r + 1) (2 ^ 301)

/-- SFSQRT on a value, R218. -/
def sfSqrt : FVal → FVal
  | .nan => .nan
  | .inf n => if n then .nan else .inf false
  | .fin n a d => if a = 0 then .fin n 0 1 else if n then .nan else sqrtVal a d

/-- SFRSQ on a value, R218. -/
def sfRsq : FVal → FVal
  | .nan => .nan
  | .inf n => if n then .nan else .fin false 0 1
  | .fin n a d => if a = 0 then .inf n else if n then .nan else sqrtVal d a

/-- sin(π x) or cos(π x) of a finite value, as a pattern, R218. -/
def sfTrig (f : Fmt) (cosine : Bool) (neg : Bool) (a d : Nat) : Option Nat :=
  let r := a % (2 * d)
  if cosine then
    if 2 * r = d ∨ 2 * r = 3 * d then some 0
    else if r = 0 then some (f.round .rne (.fin false 1 1))
    else if r = d then some (f.round .rne (.fin true 1 1))
    else if 2 * r < d then encRound f false (fxCos r d) 0
    else if r < d then encRound f true (fxCos (d - r) d) 0
    else if 2 * r < 3 * d then encRound f true (fxCos (r - d) d) 0
    else encRound f false (fxCos (2 * d - r) d) 0
  else
    if r = 0 ∨ r = d then some (f.signed neg 0)
    else if 2 * r = d then some (f.round .rne (.fin neg 1 1))
    else if 2 * r = 3 * d then some (f.round .rne (.fin (!neg) 1 1))
    else if 2 * r < d then encRound f neg (fxSin r d) 0
    else if r < d then encRound f neg (fxSin (d - r) d) 0
    else if 2 * r < 3 * d then encRound f (!neg) (fxSin (r - d) d) 0
    else encRound f (!neg) (fxSin (2 * d - r) d) 0

/-- 2^x of a finite value, as a pattern, R218. Beyond 2^12 in magnitude the result is out of range in every format. -/
def sfExp2 (f : Fmt) (neg : Bool) (a d : Nat) : Option Nat :=
  if a = 0 then some (f.round .rne (.fin false 1 1))
  else if 4096 * d ≤ a then some (if neg then 0 else f.infPat)
  else
    let x := signedNum neg a
    let k := x / (d : Int)
    let fr := (x - k * d).toNat
    if fr = 0 then (let s := scaled 1 k; some (f.round .rne (.fin false s.1 s.2)))
    else encRound f false (expSum 120 0 (fxLn2 * fr / d) fxOne) k

/-- log2 x of a positive finite value, as a pattern, R218. -/
def sfLog2 (f : Fmt) (a d : Nat) : Option Nat :=
  let k := floorLog2 a d
  let s := scaled 1 k
  let n := a * s.2
  let m := d * s.1
  if n = m then some (f.round .rne (ofSigned k 1 false))
  else
    let v := k * fxOne + fxLn n m * 2 ^ 512 / fxLn2
    encRound f (decide (v < 0)) (v.natAbs : Int) 0

/-- One element of a special function: opcode, format, pattern (R218). -/
def sfElem (op : Nat) (f : Fmt) (x : Nat) : Option Nat :=
  match op, f.value x with
  | _, .nan => some (f.nan.getD 0)
  | 0x60, .inf _ => some (f.nan.getD 0)
  | 0x60, .fin n a d => sfTrig f false n a d
  | 0x61, .inf _ => some (f.nan.getD 0)
  | 0x61, .fin n a d => sfTrig f true n a d
  | 0x62, .inf n => some (if n then 0 else f.infPat)
  | 0x62, .fin n a d => sfExp2 f n a d
  | 0x63, .inf n => some (if n then f.nan.getD 0 else f.infPat)
  | 0x63, .fin n a d => if a = 0 then some (f.signed true f.infPat) else if n then some (f.nan.getD 0) else sfLog2 f a d
  | 0x64, v => some (f.round .rne v.recip)
  | 0x65, v => some (f.round .rne (sfRsq v))
  | _, v => some (f.round .rne (sfSqrt v))

/-- A special function of one element; where the enclosure does not decide, a free value of the element's width. See log entry 9. -/
def sfResult (op : Nat) (f : Fmt) (x : Nat) : Nat :=
  match sfElem op f x with
  | some r => r
  | none => Config.special op (toWord x) f.bits % 2 ^ f.bits

/-- One part of the twiddle before clipping: rne of cos or sin of 2πk/n times 2^17, for n ≥ 1 (R34). -/
def twiddleRaw (cosine : Bool) (k n : Nat) : Option Int :=
  let e := k % n
  -- the angle in units of π is 2e/n; reduce it to the first quadrant
  let (c, s, u) :=
    if 4 * e ≤ n then (false, false, e) else if 2 * e ≤ n then (true, false, n - 2 * e)
    else if 4 * e ≤ 3 * n then (true, true, 2 * e - n) else (false, true, n - e)
  -- u is in units of 2π/n in the first and last quadrants, of π/n in the others
  let a := if 4 * e ≤ n ∨ 3 * n < 4 * e then 2 * u else u
  let v := if cosine then fxCos a n else fxSin a n
  let neg := if cosine then c else s
  let r (x : Int) : Nat := roundQuot .rne false (x.toNat * 2 ^ 17) (2 ^ 512)
  if r (v - fxErr) = r (v + fxErr) then some (signedNum neg (r v)) else none

/-- A part of the generator's twiddle, clipped (R34); a free value where the enclosure does not decide. -/
def twiddle (cosine : Bool) (k n : Nat) : Int :=
  match twiddleRaw cosine k n with
  | some v => sat v (-(2 ^ 17 - 1)) (2 ^ 17 - 1)
  | none => sat (Config.special (if cosine then 0x100 else 0x101) (toWord k) n) 0 (2 ^ 17 - 1)

end Sys2Proof.Machine
end

