-- ==== Sys2Proof/Machine/FloatOps.lean ====
section
/-! DEFINITION. The floating-point, conversion and special-function instructions (R202 to R219): one meaning per instruction over the
exact values and the one rounding of Float.lean. -/

namespace Sys2Proof.Machine

/-! ## Rounding modes and stochastic draws (R203, R204) -/

/-- The generator state after n steps. -/
def rngAfter : Nat → Word → Word
  | 0, r => r
  | n + 1, r => rngAfter n (rngStep r)

/-- The mode code of a mode field (R203). -/
def modeCode (o : FmtA) : Nat := (o.s3.extractLsb' 0 3).toNat

/-- The mode of element i of lane l: in stochastic mode it holds the bits of the lane's draw number i + 1 (R204). -/
def Env.modeAt (e : Env) (o : FmtA) (l i : Nat) : Mode := modeOf e.s.dawn (modeCode o) (rngBits (rngAfter (i + 1) (e.rngOf l)))

/-- The steps that n elements of each lane of a set consume in stochastic mode (R204). -/
def Env.draws (e : Env) (o : FmtA) (m : Lanes) (n : Nat) : List Eff :=
  if (modeCode o) = 4 ∧ !e.s.dawn then (lanesOf m).map fun l => .setRng l (rngAfter n (e.rngOf l)) else []

/-- An operation on n elements with a mode field: each element from its index and mode; then the draws. -/
def fModeOp (h : Hdr) (o : FmtA) (s : State) (w n : Nat) (f : Env → Nat → Nat → Mode → Nat) : Out :=
  vSyl h s fun e m =>
    .eff (e.setVs o.d m (fun l => pack w ((List.range n).map fun i => f e l i (e.modeAt o l i))) ++ e.draws o m n)

/-- A floating-point source of the form as lane l reads it, its modifier applied (R202). -/
def Env.fsrc (e : Env) (o : FmtA) (m : BitVec 3) (n : Spec) (l : Nat) : Word := modify true (formWidth o.ew) m (e.src n l)

/-- The exact value of element i of a source of the form. -/
def Env.fval (e : Env) (o : FmtA) (m : BitVec 3) (n : Spec) (l i : Nat) : FVal :=
  (formFmt o.ew).value (elem (formWidth o.ew) (e.fsrc o m n l) i)

/-- An operation of two sources with a mode field (R205). -/
def fModeOp2 (h : Hdr) (o : FmtA) (s : State) (f : Mode → FVal → FVal → FVal) : Out :=
  fModeOp h o s (formWidth o.ew) (32 / formWidth o.ew) fun e l i md =>
    (formFmt o.ew).round md (f md (e.fval o o.m1 o.s1 l i) (e.fval o o.m2 o.s2 l i))

/-! ## Arithmetic -/

/-- FADD, R205. -/
def execFadd (h : Hdr) (o : FmtA) (s : State) : Out := fModeOp2 h o s FVal.add
/-- FSUB, R205. -/
def execFsub (h : Hdr) (o : FmtA) (s : State) : Out := fModeOp2 h o s fun md a b => a.add md b.negate
/-- FMUL, R205. -/
def execFmul (h : Hdr) (o : FmtA) (s : State) : Out := fModeOp2 h o s fun _ a b => a.mul b

/-- a × b + c of one element, rounded once to nearest even (R206). -/
def Fmt.fma (f : Fmt) (a b c : Nat) : Nat := f.round .rne (((f.value a).mul (f.value b)).add .rne (f.value c))

/-- FFMA, R206. -/
def execFfma (h : Hdr) (o : FmtA) (s : State) : Out := vOp3 true (formWidth o.ew) h o s (formFmt o.ew).fma
/-- FMIN, R207. -/
def execFmin (h : Hdr) (o : FmtA) (s : State) : Out := vOp2 true (formWidth o.ew) h o s ((formFmt o.ew).minMax false)
/-- FMAX, R207. -/
def execFmax (h : Hdr) (o : FmtA) (s : State) : Out := vOp2 true (formWidth o.ew) h o s ((formFmt o.ew).minMax true)

/-- FCMP, R208. -/
def execFcmp (h : Hdr) (o : FmtA) (s : State) : Out :=
  vSyl h s fun e m =>
    let f := formFmt o.ew
    .eff [e.setPs (Spec.idx o.d).toNat m fun l =>
      allPairs (formWidth o.ew) (fun a b => fcmpHolds o.cc (f.value a) (f.value b)) (e.fsrc o o.m1 o.s1 l) (e.fsrc o o.m2 o.s2 l)]

/-- FCLASS, R209. -/
def execFclass (h : Hdr) (o : FmtA) (s : State) : Out := vOp1 true (formWidth o.ew) h o s (formFmt o.ew).classify

/-- FDOT2 of two registers of two elements and an FP32 addend: one rounding of the exact sum (R210). -/
def opFdot2 (f : Fmt) (a b c : Word) : Word :=
  let p (i : Nat) := (f.value (elem 16 a i)).mul (f.value (elem 16 b i))
  toWord (fp32.round .rne (((fp32.value c.toNat).add .rne (p 0)).add .rne (p 1)))

/-- FDOT2, R210. -/
def execFdot2 (h : Hdr) (o : FmtA) (s : State) : Out :=
  vSyl h s fun e m =>
    .eff (e.setVs o.d m fun l =>
      opFdot2 (formFmt o.ew) (e.fsrc o o.m1 o.s1 l) (e.fsrc o o.m2 o.s2 l) (modify true 32 o.m3 (e.src o.s3 l)))

/-! ## Conversions -/

/-- A modifier on the containers of a conversion code: negation flips the element's sign bit (R134, R211). -/
def convModify (code : Nat) (m : BitVec 3) (x : Word) : List Nat :=
  modList (fun a => a ^^^ 2 ^ ((convFmt code).bits - 1)) m (elems (convWidth code) x)

/-- Element i of a list converted between two formats (R212). -/
def convElem (src dst : Nat) (md : Mode) (l : List Nat) (i : Nat) : Nat :=
  (convFmt dst).round md ((convFmt src).value (l.getD i 0))

/-- FCVT of one lane: x the source's elements, old the destination (R212). -/
def opFcvt (src dst part : Nat) (md : Nat → Mode) (x : List Nat) (old : Word) : Word :=
  let nS := 32 / convWidth src
  let nD := 32 / convWidth dst
  if nD ≤ nS then pack (convWidth dst) ((List.range nD).map fun i => convElem src dst (md i) x (part * nD + i))
  else
    pack (convWidth dst) ((List.range nD).map fun j =>
      if part * nS ≤ j ∧ j < part * nS + nS then convElem src dst (md (j - part * nS)) x (j - part * nS)
      else elem (convWidth dst) old j)

/-- FCVT, R212. -/
def execFcvt (h : Hdr) (o : FmtA) (s : State) : Out :=
  vSyl h s fun e m =>
    let src := (o.s2.extractLsb' 0 3).toNat
    let dst := (o.s2.extractLsb' 3 3).toNat
    let part := (o.s2.extractLsb' 6 3).toNat
    let k := min (32 / convWidth src) (32 / convWidth dst)
    .eff (e.setVs o.d m (fun l => opFcvt src dst part (e.modeAt o l) (convModify src o.m1 (e.src o.s1 l)) (e.src o.d l)) ++
      e.draws o m k)

/-- The lowest and highest integer of w bits, signed or unsigned. -/
def intRange (w : Nat) (u : Bool) : Int × Int := if u then (0, 2 ^ w - 1) else (-(2 ^ (w - 1)), 2 ^ (w - 1) - 1)

/-- A value as an integer of w bits (R213). -/
def toInt (w : Nat) (u : Bool) (md : Mode) (v : FVal) : Nat :=
  let r := intRange w u
  match v with
  | .nan => 0
  | .inf n => trunc w (if n then r.1 else r.2)
  | .fin n a d => trunc w (sat (roundInt md n a d) r.1 r.2)

/-- FCVTI, R213. -/
def execFcvti (h : Hdr) (o : FmtA) (s : State) : Out :=
  let w := formWidth o.ew
  fModeOp h o s w (32 / w) fun e l i md => toInt w (o.s2.getLsbD 0) md (e.fval o o.m1 o.s1 l i)

/-- An integer of w bits, signed or unsigned, as a value (R214). -/
def intValue (w : Nat) (u : Bool) (x : Nat) : FVal := ofSigned (if u then (x : Int) else sext w x) 1 false

/-- ICVTF, R214. -/
def execIcvtf (h : Hdr) (o : FmtA) (s : State) : Out :=
  let w := formWidth o.ew
  fModeOp h o s w (32 / w) fun e l i md =>
    (formFmt o.ew).round md (intValue w (o.s2.getLsbD 0) (elem w (modify false w o.m1 (e.src o.s1 l)) i))

/-- FMAXK, R215. -/
def execFmaxk (h : Hdr) (o : FmtA) (s : State) : Out :=
  vSyl h s fun e m =>
    .eff (e.setVs o.d m fun l =>
      toWord (sortable16 (formFmt o.ew) (elem 16 (e.fsrc o o.m1 o.s1 l) 0) * 2 ^ 16 + (0xFFFF - (e.src o.s2 l).toNat % 2 ^ 16)))

/-- emax of an element format (R216). -/
def convEmax (code : Nat) : Int :=
  match code with
  | 3 => 8
  | 4 => 15
  | 5 => 4
  | _ => 2

/-- The larger of two non-negative quotients. -/
def quotMax (p q : Nat × Nat) : Nat × Nat := if p.1 * q.2 < q.1 * p.2 then q else p

/-- The scale byte of an MX block of values (R216). -/
def mxScale (code : Nat) (vs : List FVal) : Nat :=
  if vs.any fun v => match v with
    | .fin .. => false
    | _ => true
  then 0xFF
  else
    let m := vs.foldl (fun acc v => match v with
      | .fin _ a d => quotMax acc (a, d)
      | _ => acc) (0, 1)
    if m.1 = 0 then 127 else (sat (floorLog2 m.1 m.2 - convEmax code + 127) 0 254).toNat

/-- One element of an MX block (R216). -/
def mxElem (code x : Nat) (md : Mode) (v : FVal) : Nat :=
  if x = 0xFF then 0 else (convFmt code).round md (v.scale (127 - (x : Int)))

/-- FMXQ, R216. -/
def execFmxq (h : Hdr) (o : FmtA) (s : State) : Out :=
  vSyl h s fun e m =>
    let code := (o.s2.extractLsb' 0 3).toNat
    let val (l : Nat) := fp32.value (modify true 32 o.m1 (e.src o.s1 l)).toNat
    let scale (l : Nat) := mxScale code (((lanesOf m).filter fun j => j / 32 = l / 32).map val)
    .eff (e.setVs o.d m (fun l => toWord (scale l * 2 ^ 8 + mxElem code (scale l) (e.modeAt o l 0) (val l))) ++ e.draws o m 1)

/-- FMXD of one lane (R217). -/
def opFmxd (code : Nat) (x : Word) : Word :=
  let sc : Nat := x.toNat / 2 ^ 8 % 2 ^ 8
  let v := (convFmt code).value (x.toNat % 2 ^ (convFmt code).bits)
  if sc = 0xFF ∨ v.isNan then 0x7FC00000 else toWord (fp32.round .rne (v.scale ((sc : Int) - 127)))

/-- FMXD, R217. -/
def execFmxd (h : Hdr) (o : FmtA) (s : State) : Out :=
  vSyl h s fun e m => .eff (e.setVs o.d m fun l => opFmxd (o.s2.extractLsb' 0 3).toNat (e.src o.s1 l))

/-! ## Special functions -/

/-- A special function by its opcode (R218). -/
def sfOp (op : Nat) (h : Hdr) (o : FmtA) (s : State) : Out := vOp1 true (formWidth o.ew) h o s (sfResult op (formFmt o.ew))

/-- SFSIN, R218. -/
def execSfsin (h : Hdr) (o : FmtA) (s : State) : Out := sfOp 0x60 h o s
/-- SFCOS, R218. -/
def execSfcos (h : Hdr) (o : FmtA) (s : State) : Out := sfOp 0x61 h o s
/-- SFEXP2, R218. -/
def execSfexp2 (h : Hdr) (o : FmtA) (s : State) : Out := sfOp 0x62 h o s
/-- SFLOG2, R218. -/
def execSflog2 (h : Hdr) (o : FmtA) (s : State) : Out := sfOp 0x63 h o s
/-- SFRCP, R218. -/
def execSfrcp (h : Hdr) (o : FmtA) (s : State) : Out := sfOp 0x64 h o s
/-- SFRSQ, R218. -/
def execSfrsq (h : Hdr) (o : FmtA) (s : State) : Out := sfOp 0x65 h o s
/-- SFSQRT, R218. -/
def execSfsqrt (h : Hdr) (o : FmtA) (s : State) : Out := sfOp 0x66 h o s

/-- The part of SFTWID's result for k and N (R219). -/
def twidWord (cosine : Bool) (k n : Word) : Word :=
  if n.toNat < 1 ∨ 4096 < n.toNat then 0 else toWord (trunc 32 (twiddle cosine (k.toNat % n.toNat) n.toNat))

/-- SFTWID, R219. -/
def execSftwid (h : Hdr) (o : FmtA) (s : State) : Out :=
  vSyl h s fun e m =>
    .eff (e.setVs64 o.d m fun l =>
      pair (twidWord true (e.src o.s1 l) (e.src o.s2 l)) (twidWord false (e.src o.s1 l) (e.src o.s2 l)))

end Sys2Proof.Machine
end

