-- ==== Sys2Proof/Machine/BaseDie.lean ====
section
/-! DEFINITION. The engines of the base dies: GATH, REDC and CNVT (R276 to R279). -/

namespace Sys2Proof.Machine

/-- GATH, R277. -/
def execGath (h : Hdr) (o : FmtE) (s : State) : Out := copySyl (.gath h o) false h o s
/-- REDC, R278. -/
def execRedc (h : Hdr) (o : FmtE) (s : State) : Out := copySyl (.redc h o) false h o s
/-- CNVT, R279. -/
def execCnvt (h : Hdr) (o : FmtE) (s : State) : Out := copySyl (.cnvt h o) false h o s

/-! ## Operands -/

/-- A run of n bytes as a layout of one row, for spans. -/
def flat (base : DWord) (n : Nat) : Layout :=
  { base := base, space := 0, esize := 0, compressed := false, width := n, height := 1, pitch := 0, op0 := 0, op1 := 0, boxw := n,
    boxh := 1 }

/-- The destination address. -/
def EngCmd.baseDst (c : EngCmd) (k : CopyKind) : DWord := if k = .gath then pair (c.w2 0) (c.w2 1) else c.drec
/-- Indices or elements. -/
def EngCmd.baseCount (c : EngCmd) (k : CopyKind) : Nat := (if k = .gath then c.w2 2 else c.w2 0).toNat
/-- Bytes of a row of GATH. -/
def EngCmd.rowBytes (c : EngCmd) : Nat := (c.w2 3).toNat
/-- The operation word of REDC and CNVT. -/
def EngCmd.opWord (c : EngCmd) : Nat := (c.w2 3).toNat
/-- Element bytes of a REDC (R278). -/
def EngCmd.redcBytes (c : EngCmd) : Nat := if c.opWord = 1 then 8 else 4
/-- SRC, DST, MODE and MX of a CNVT (R279). -/
def EngCmd.cvSrc (c : EngCmd) : Nat := c.opWord % 8
@[inherit_doc EngCmd.cvSrc] def EngCmd.cvDst (c : EngCmd) : Nat := c.opWord / 8 % 8
@[inherit_doc EngCmd.cvSrc] def EngCmd.cvMode (c : EngCmd) : Nat := c.opWord / 64 % 8
@[inherit_doc EngCmd.cvSrc] def EngCmd.cvMx (c : EngCmd) : Bool := c.opWord.testBit 9
/-- Elements of a CNVT converted together: a block with MX, a byte's worth with FP4, else one. -/
def EngCmd.cvGroup (c : EngCmd) : Nat := if c.cvMx then 32 else if c.cvSrc = 7 ∨ c.cvDst = 7 then 2 else 1
/-- Bytes of n elements of a conversion code. -/
def cvBytes (code n : Nat) : Nat := n * convWidth code / 8
/-- Where the scales of a CNVT with MX start, from its destination (R279). -/
def EngCmd.cvScales (c : EngCmd) : Nat := (cvBytes c.cvDst (c.baseCount .cnvt) + 63) / 64 * 64

/-- The limits of R277 to R279. -/
def EngCmd.baseOk (c : EngCmd) (k : CopyKind) : Bool :=
  let n := c.baseCount k
  let a (v : DWord) (m : Nat) := decide (v.toNat % m = 0)
  match k with
  | .gath =>
    decide (1 ≤ n ∧ n ≤ 65536 ∧ c.rowBytes % 16 = 0 ∧ 16 ≤ c.rowBytes ∧ c.rowBytes ≤ 4096) && a c.drec 4 && a c.srec 16 &&
      a (c.baseDst k) 16
  | .redc => decide (1 ≤ n ∧ n ≤ 2 ^ 24 ∧ c.opWord ≤ 6) && a c.srec c.redcBytes && a (c.baseDst k) c.redcBytes
  | _ =>
    decide (c.opWord < 2 ^ 10 ∧ c.cvMode ≤ 3) && (if c.cvMx then decide (3 ≤ c.cvDst ∧ n % 32 = 0) else c.cvSrc != c.cvDst) &&
      (decide (c.cvSrc ≠ 7 ∧ c.cvDst ≠ 7) || decide (n % 2 = 0))

/-- Destination bytes of a base-die command, and the length of its destination span. -/
def EngCmd.baseTotal (c : EngCmd) (k : CopyKind) : Nat × Nat :=
  let n := c.baseCount k
  match k with
  | .gath => (n * c.rowBytes, n * c.rowBytes)
  | .redc => (n * c.redcBytes, n * c.redcBytes)
  | _ => if c.cvMx then (cvBytes c.cvDst n + n / 32, c.cvScales + n / 32) else (cvBytes c.cvDst n, cvBytes c.cvDst n)

/-- Source bytes that the records of a command fix: a GATH's index array, or the source array. -/
def EngCmd.baseSource (c : EngCmd) (k : CopyKind) : DWord × Nat :=
  let n := c.baseCount k
  match k with
  | .gath => (c.drec, 4 * n)
  | .redc => (c.srec, n * c.redcBytes)
  | _ => (c.srec, cvBytes c.cvSrc n)

/-- A base-die command's plan: flat spans. -/
def EngCmd.planBase (c : EngCmd) (k : CopyKind) : Except ValueFail Plan :=
  if c.baseOk k then
    let t := c.baseTotal k
    let a := c.baseSource k
    .ok { src := flat a.1 a.2, dst := flat (c.baseDst k) t.2, x := 0, y := 0, dx := 0, dy := 0, remote := none, members := [],
          total := t.1 }
  else .error (c.badLayout 0)

/-- The base die that runs a command: that of the table's, or the destination's, first byte (R276); the core's own where that byte
is in no stack. -/
def State.baseDieOf (s : State) (q : Runner) (c : EngCmd) (k : CopyKind) : Nat :=
  let a := if k = .gath then c.srec else c.baseDst k
  match s.peek { q with x := none } 0 0 (a.toNat, 1) with
  | some p => if region p.1 = .hbm then stackDie (stackOf p.1) else q.die
  | none => q.die

/-! ## Execution -/

/-- A failure on the source side (true) or the destination side. -/
abbrev SideStop := Bool × EngStop

/-- n bytes read by an engine from the global space. -/
def State.engRead (s : State) (q : Runner) (a : Int) (n : Nat) (src : Bool) : State × Except SideStop (List Byte) :=
  match s.readRuns q 0 0 [(a, n)] with
  | (s, .ok r) => (s, .ok r.1)
  | (s, .error w) => (s, .error (src || (match w with
    | .check f => f.cause = 0x29 || f.cause = 0x2A
    | _ => false), w))

/-- Bytes written by an engine to the global space, but for those of given ranges; the places stand in the result. -/
def State.engWrite (s : State) (q : Runner) (shared : List (Nat × Nat)) (a : Int) (k : XKind) (bs : List Byte) :
    State × Except SideStop (List (Nat × Nat)) :=
  match s.placeAll q 0 0 k (piecesOf [(a, bs.length)]) with
  | (s, .ok ps) => (s.writeOutside q.ctx shared ps bs, .ok ps)
  | (s, .error w) => (s, .error (false, w))

/-- One update of REDC on numbers (R278): the destination's value and the source's. -/
def redcOp (op d v : Nat) : Nat :=
  let sg (x : Nat) : Int := sext 32 x
  match op with
  | 0 => (d + v) % 2 ^ 32
  | 1 => (d + v) % 2 ^ 64
  | 2 => addF32 d v
  | 3 => if sg d < sg v then v else d
  | 4 => max d v
  | 5 => if sg v < sg d then v else d
  | _ => min d v

/-- Row i of a GATH (R277). -/
def State.gathRow (s : State) (q : Runner) (c : EngCmd) (i : Nat) : State × Except SideStop (List (Nat × Nat)) :=
  match s.engRead q (c.drec.toNat + 4 * i : Nat) 4 true with
  | (s, .error w) => (s, .error w)
  | (s, .ok ix) =>
    match s.engRead q (c.srec.toNat + ofLe ix * c.rowBytes : Nat) c.rowBytes true with
    | (s, .error w) => (s, .error w)
    | (s, .ok bs) => s.engWrite q [] ((c.baseDst .gath).toNat + i * c.rowBytes : Nat) .engineW bs

/-- Element i of a REDC (R278). -/
def State.redcElem (s : State) (q : Runner) (c : EngCmd) (i : Nat) : State × Except SideStop (List (Nat × Nat)) :=
  let n := c.redcBytes
  let d : Int := (c.drec.toNat + i * n : Nat)
  match s.engRead q (c.srec.toNat + i * n : Nat) n true with
  | (s, .error w) => (s, .error w)
  | (s, .ok v) =>
    match s.engRead q d n false with
    | (s, .error w) => (s, .error w)
    | (s, .ok old) => s.engWrite q [] d .atomic (leBytes n (redcOp c.opWord (ofLe old) (ofLe v)))

/-- Group i of a CNVT (R279): its elements, and with MX its scale. -/
def State.cnvtGroup (s : State) (q : Runner) (c : EngCmd) (shared : List (Nat × Nat)) (i : Nat) : State × Except SideStop (List (Nat × Nat)) :=
  let g := c.cvGroup
  let d := c.drec.toNat
  let md := modeOf false c.cvMode 0
  match s.engRead q (c.srec.toNat + cvBytes c.cvSrc (i * g) : Nat) (cvBytes c.cvSrc g) true with
  | (s, .error w) => (s, .error w)
  | (s, .ok bs) =>
    let w := convWidth c.cvSrc
    let vs := (List.range g).map fun j => (convFmt c.cvSrc).value (ofLe bs / 2 ^ (w * j) % 2 ^ (convFmt c.cvSrc).bits)
    let x := mxScale c.cvDst vs
    let es := vs.map fun v => if c.cvMx then mxElem c.cvDst x md v else (convFmt c.cvDst).round md v
    let out := leBytes (cvBytes c.cvDst g) (packNat (convWidth c.cvDst) es)
    match s.engWrite q shared (d + cvBytes c.cvDst (i * g) : Nat) .engineW out with
    | (s, .error w) => (s, .error w)
    | (s, .ok ps) =>
      if !c.cvMx then (s, .ok ps)
      else match s.engWrite q shared (d + c.cvScales + i : Nat) .engineW (leBytes 1 x) with
        | (s, .ok r) => (s, .ok (ps ++ r))
        | (s, .error w) => (s, .error w)

/-- Unit i of a base-die command. -/
def State.baseUnit (s : State) (q : Runner) (c : EngCmd) (k : CopyKind) (shared : List (Nat × Nat)) (i : Nat) : State × Except SideStop (List (Nat × Nat)) :=
  match k with
  | .gath => s.gathRow q c i
  | .redc => s.redcElem q c i
  | _ => s.cnvtGroup q c shared i

/-- Elements of a unit, and units of a command. -/
def EngCmd.unitSize (c : EngCmd) (k : CopyKind) : Nat := if k = .cnvt then c.cvGroup else 1
@[inherit_doc EngCmd.unitSize] def EngCmd.units (c : EngCmd) (k : CopyKind) : Nat := c.baseCount k / c.unitSize k

/-- n units from unit i on, in ascending order: the state, the units done, the ranges written, and the first failure. -/
def State.baseRun (s : State) (q : Runner) (c : EngCmd) (k : CopyKind) (shared : List (Nat × Nat)) : Nat → Nat → State × Nat × List (Nat × Nat) × Option SideStop
  | 0, i => (s, i, [], none)
  | n + 1, i =>
    match s.baseUnit q c k shared i with
    | (s, .error w) => (s, i, [], some w)
    | (s, .ok ps) =>
      let r := State.baseRun s q c k shared n (i + 1)
      (r.1, r.2.1, rangesOfPlaces ps ++ r.2.2.1, r.2.2.2)

/-- One reply entry in each lane that a command answers, in place of its reservation (R249). -/
def State.answer (s : State) (c : EngCmd) (f : Nat → BitVec 128) : State :=
  match c.answers, c.owner with
  | some (q, m), .block b w =>
    (s.modWave b w fun y => { y with replies := (lanesOf m).foldl (fun t l =>
      Table.set [] t (128 * q + l) (Table.get [] t (128 * q + l) ++ [f l])) y.replies }).reserve c (-1)
  | _, _ => s

/-- The reply of a base-die command (R276). -/
def State.postReply (s : State) (c : EngCmd) (w0 : Nat) : State :=
  s.answer c fun _ => BitVec.ofNat 128 (w0 % 2 ^ 32 + c.num % 2 ^ 64 * 2 ^ 64)

/-- Two commands of one wave answer a common lane of one queue. -/
def EngCmd.sharesQueue (c d : EngCmd) : Bool :=
  decide (c.owner = d.owner) && match c.answers, d.answers with
    | some (q, m), some (p, n) => decide (q = p ∧ m &&& n ≠ 0)
    | _, _ => false

/-- No command that reserved before c in a queue and lane that c answers still owes its reply (R249). -/
def State.replyTurn (s : State) (core : Nat) (c : EngCmd) : Bool :=
  let q := s.core core
  (q.copies.map (fun e => e.cmd) ++ q.rays).all fun d => !(decide (d.sid < c.sid) && d.sharesQueue c)

end Sys2Proof.Machine
end

