-- ==== Sys2Proof/Machine/CopyEngine.lean ====
section
/-! DEFINITION. The copy engine's events: a command leaves the engine queue, moves its fragments and completes (R267, R271, R275,
R276, R281, R341, R342, R359, R389). -/

namespace Sys2Proof.Machine

/-- BSND issues, R281. -/
def execBsnd (h : Hdr) (o : FmtE) (s : State) : Out := copySyl (.bsnd h o) true h o s

/-! ## Completion -/

/-- A command of a copy context completes (R266). -/
def CopyCtx.complete (c : CopyCtx) (n : Nat) : CopyCtx :=
  let all := ascending (n :: c.early)
  let top := all.foldl (fun t m => if m = t + 1 then m else t) c.completed
  { c with completed := top, early := all.filter fun m => decide (top < m) }

/-- Bytes of a list of ranges. -/
def rangeBytes (rs : List (Nat × Nat)) : Nat := rs.foldl (fun n r => n + (r.2 - r.1)) 0

/-- The destination bytes of a finished command are specified, but for those that overlap its source, those an abandoned command
did not write, and those another command in the copy tables still holds (R270, R342, R389). -/
def State.revealCopy (s : State) (e : CopyEntry) (abandoned : Bool) : State :=
  let rs := if abandoned then e.wrote else e.dest ++ e.wrote
  let s := (s.reveal rs).forgetAll (e.shared ++ overlaps e.read e.wrote)
  s.cores.values.foldl (fun s c => c.copies.foldl (fun s f => s.forgetAll (overlaps rs (f.dest ++ f.wrote))) s) s

/-- A credit of n bytes to a barrier of block b; one that does not fit is not added, and is an engine fault of the command (R359,
R389). -/
def State.credit (s : State) (c : EngCmd) (b bar n : Nat) : State :=
  match s.block? b with
  | none => s
  | some x =>
    if x.exited then s
    else
      let r := x.barrier bar
      if 2 ^ 32 ≤ r.cred.toNat + n then s.engineFault c 0x18 0 0 (mkDet bar none r.phase.toNat)
      else s.setBlock b (x.setBarrier bar { r with cred := r.cred + toWord n })

/-- RELEASE_LATE: an event and its record (R90, R275). -/
def State.releaseLate (s : State) (core : Nat) (e : CopyEntry) : State :=
  if e.late = 0 then s
  else
    let t := match e.cmd.owner with
      | .block _ _ => s.tagOf e.cmd.launch
      | .node r n => match s.replay? r with
        | some p => (mkTag p.handle n, p.number)
        | none => (0, 0)
    let ctx := ((s.runner e.cmd).map fun q => q.ctx).getD 0
    let rec0 := s.recordL 0x3A ctx 0 (mkDet 0 none e.late) t.1 t.2
    (s.postEvent 4 0x3A (tagHandle t.1) t.2 (leBytes 8 e.late)).report
      { rec0 with core := if core = hostDma then rec0.core else toWord core, num := e.cmd.num }

/-- The bytes that a completing command credits to a barrier (R359, R389). -/
def CopyEntry.creditBytes (e : CopyEntry) (k : CopyKind) (abandoned : Bool) : Nat :=
  match e.plan with
  | none => 0
  | some p =>
    if abandoned then p.total
    else if p.remote.isSome then e.out
    else if k = .cpym then rangeBytes e.wrote / max 1 p.members.length
    else rangeBytes e.wrote

/-- RTAIL passes every slot number that has been written; fuel bounds the slots. -/
def Ring.advance : Nat → Ring → Ring
  | 0, r => r
  | n + 1, r =>
    if r.done.contains r.tail then
      Ring.advance n { r with tail := r.tail + 1, total := r.total + 1, done := r.done.erase r.tail }
    else r

/-- The slot of an abandoned send completes with unspecified bytes, so that RTAIL passes it (R281, R389). -/
def State.abandonSlot (s : State) (e : CopyEntry) : State :=
  match e.slot with
  | none => s
  | some j =>
    let core := (e.cmd.w2 1).toNat % 2 ^ 10
    let n := (e.cmd.w2 1).toNat / 2 ^ 16 % 4
    let r := (s.core core).ring n
    let pa := windowPa core (r.base * 4096 + j % r.slots * (r.slotsz * 256))
    (s.forget pa (pa + e.buf.length)).modCore core fun c => c.setRing n (Ring.advance 65 { r with done := toWord j :: r.done })

/-- A command ends, complete or abandoned: CP, the credit and the timeline are given once (R267, R389). -/
def State.finishCopy (s : State) (core k : Nat) (e : CopyEntry) (abandoned : Bool) : State :=
  let s := ((s.dropCopy core k).revealCopy e abandoned).dropRanges core e.wrote
  let s := if abandoned then s.abandonSlot e else s
  let s := s.releaseLate core e
  match e.cmd.owner, e.cmd.copy? with
  | .block b w, some (kd, o) =>
    let s := if kd.baseDie then
        s.postReply e.cmd (if abandoned then e.frag * e.cmd.unitSize kd else e.cmd.baseCount kd) else s
    let s := s.modWave b w fun y => y.perform e.cmd.sid
    let targets := if kd = .cpym then (e.plan.map fun p => p.members).getD [] else [b]
    let s := if beBit o then targets.foldl (fun s m => s.credit e.cmd m o.t2.toNat (e.creditBytes kd abandoned)) s else s
    let s := s.modBlock b fun x => x.setCopyCtx e.cmd.kctx ((x.copyCtx e.cmd.kctx).complete e.cmd.num)
    s.settle b
  | .node r n, _ => s.setNode r n .done
  | _, _ => s

/-! ## COPY_DEQUEUE -/

/-- The checks of a BSND on leaving the queue (R281). -/
def State.planSend (s : State) (q : Runner) (c : EngCmd) : State × Except ValueFail Plan :=
  match s.readLayout q c.srec with
  | (s, .ok l) =>
    let w := c.w2 0
    if l.compressed ∨ 4096 < l.boxElems ∨ c.w2 1 &&& 0xFFFCFC00 ≠ 0 then (s, .error (c.badLayout c.srec))
    else (s, .ok { src := l, dst := l, x := w.toNat % 2 ^ 16, y := w.toNat / 2 ^ 16, dx := 0, dy := 0, remote := none, members := [],
                   total := l.boxElems * l.esz })
  | (s, .error n) => (s, .error (c.badLayout c.srec n))

/-- Every value check of a command (R267). -/
def State.plan (s : State) (q : Runner) (c : EngCmd) (k : CopyKind) (o : FmtE) : State × Except ValueFail Plan :=
  match k with
  | .bsnd => s.planSend q c
  | .gath => (s, c.planBase k)
  | .redc => (s, c.planBase k)
  | .cnvt => (s, c.planBase k)
  | _ => s.planCopy q c k o

/-- A base-die command that has passed its checks holds its spans. -/
def State.startBase (s : State) (core j : Nat) (q : Runner) (p : Plan) : State :=
  s.modCopy core j fun e =>
    { e with plan := some p, phase := .running, spans := [(⟨p.dst, 0, 0, p.dst.base.toNat⟩ : Side).entry q],
             sources := [(⟨p.src, 0, 0, p.src.base.toNat⟩ : Side).entry q] }

/-! ## The start of an entry -/

/-- The block or the node that issued a command. -/
def EngCmd.ownerKey (c : EngCmd) : Nat × Nat :=
  match c.owner with
  | .block b _ => (0, b)
  | .node r n => (r + 1, n)

/-- Two spans meet. -/
def spanMeets (a b : Nat × Nat × Nat × Nat) : Bool :=
  decide (a.1 = b.1 ∧ (a.1 ≠ 0 ∨ a.2.1 = b.2.1) ∧ a.2.2.1 < b.2.2.2 ∧ b.2.2.1 < a.2.2.2)

/-- An earlier entry of the core's table holds entry k back: it overlaps the destination (R342), or it is a base-die command of the
same context on the same base die (R276), or a send of the same context to the same ring (R282). -/
def State.heldByEarlier (s : State) (core k : Nat) (e : CopyEntry) (q : Runner) (kd : CopyKind) : Bool :=
  ((s.core core).copies.take k).any fun f =>
    ((f.spans ++ f.sources).any fun a => e.spans.any fun b => spanMeets a b) ||
    (match f.cmd.copy? with
      | some (kf, _) =>
        decide (f.cmd.ownerKey = e.cmd.ownerKey ∧ f.cmd.kctx = e.cmd.kctx) && kf.baseDie && kd.baseDie &&
          decide (s.baseDieOf q f.cmd kf = s.baseDieOf q e.cmd kd)
      | none => false)

/-- A send that its ring has accepted holds a slot number and still completes. -/
def CopyEntry.holdsSlot (e : CopyEntry) : Bool :=
  match e.phase with
  | .accepted _ => true
  | _ => false

/-- Work that has begun: the entry has written a destination byte, or its ring has accepted it (R426). -/
def CopyEntry.begun (e : CopyEntry) : Bool := !e.wrote.isEmpty || decide (0 < e.out) || e.holdsSlot

/-- While the device waits to change to full service an entry that has not begun starts no transfer (R426). -/
def State.heldAtChange (s : State) (e : CopyEntry) : Bool := s.fw.training.isSome && !e.begun

/-- An entry may start (R271, R342, R426). -/
def State.mayBegin (s : State) (core k : Nat) (e : CopyEntry) (q : Runner) (kd : CopyKind) : Bool :=
  (decide (0 < e.frag) || e.buf ≠ [] || !s.cmdSuspended e.cmd) && !s.heldByEarlier core k e q kd && !s.heldAtChange e

/-- The place where a base-die command runs. -/
def State.baseRunner (s : State) (q : Runner) (c : EngCmd) (k : CopyKind) : Runner := ⟨s.baseDieOf q c k * 256, q.ctx, none⟩

/-- An entry that may begin starts: its destination becomes unspecified to others (R270, R342); the updates of a REDC are atomic (R278). -/
def State.openEntry (s : State) (core k : Nat) : State :=
  match (s.core core).copies[k]? with
  | some e =>
    match e.plan, s.runner e.cmd, e.cmd.copy? with
    | some p, some q, some (kd, o) =>
      if e.opened ∨ !s.mayBegin core k e q kd then s
      else if kd = .redc then s.openDest core k [] []
      else if kd.baseDie then
        let r : Runner := { q with x := none }
        let runs : List (Int × Nat) := [((p.dst.base.toNat : Int), p.dst.width)]
        let s := s.bindRuns (s.baseRunner q e.cmd kd) p.dst runs
        s.openDest core k (s.rangesAt r p.dst runs)
          (if kd = .cnvt then s.rangesAt r p.src [((p.src.base.toNat : Int), p.src.width)] else [])
      else
        let s := s.bindDest q kd o p e.cmd
        s.openDest core k (s.destRanges q kd o p e.cmd) (s.sourceRanges q p e.cmd)
    | _, _, _ => s
  | none => s

/-- The value checks of entry j of a core's copy table, and its start or its fault (R267). -/
def State.checkCopy (s : State) (core j : Nat) (c : EngCmd) : State :=
  match s.runner c, c.copy? with
  | some q, some (k, o) =>
    match s.plan q c k o with
    | (s, .error f) => s.valueFails core j c f
    | (s, .ok p) => (if k.baseDie then s.startBase core j q p else s.startCopy core j q c k p).openEntry core j
  | _, _ => s

/-- COPY_DEQUEUE: a copy or base-die command leaves the head of the engine queue, when the copy table has an entry and the reply
queue has room, and every access of its wave before it has been performed (R249, R267, R341). -/
def execCopyDequeue (core : Nat) (s : State) : Out :=
  match s.engineHead core with
  | some c =>
    if c.copy?.isNone ∨ 128 ≤ (s.core core).copies.length ∨ !s.mayStart c ∨ !s.cmdReleased core c ∨ !s.replyRoom c then .next s
    else
      let j := (s.core core).copies.length
      let s := ((s.popEngine core).modCore core fun x => { x with copies := x.copies ++ [CopyEntry.new c none .running] }).reserve c 1
      .next (s.checkCopy core j c)
  | none => .next s

/-! ## COPY_FRAGMENT -/

/-- An earlier send of the same context to the same ring has no slot yet (R282). -/
def State.sendBefore (s : State) (core k : Nat) (e : CopyEntry) : Bool :=
  ((s.core core).copies.take k).any fun f =>
    decide (f.cmd.copy?.map Prod.fst = some .bsnd ∧ f.cmd.ownerKey = e.cmd.ownerKey ∧ f.cmd.kctx = e.cmd.kctx ∧
      f.cmd.w2 1 = e.cmd.w2 1) && match f.phase with
      | .accepted _ => false
      | _ => true

/-- The target core and ring of a send (R281). -/
def EngCmd.ringOf (c : EngCmd) : Nat × Nat := ((c.w2 1).toNat % 2 ^ 10, (c.w2 1).toNat / 2 ^ 16 % 4)

/-- The receiving engine answers the header of a send: its value checks there (R267, R281), and a die out of service, with the physical
address of the ring. -/
def State.ringAnswer (s : State) (core k : Nat) (e : CopyEntry) (q : Runner) : State :=
  let t := e.cmd.ringOf
  let r := (s.core t.1).ring t.2
  if s.sendBefore core k e then s
  else if !coreExists t.1 ∨ !isTile t.1 ∨ !r.valid ∨ r.ctx ≠ q.ctx ∨ r.slotsz * 256 < e.buf.length then
    s.valueFails core k e.cmd ⟨0x1E, 0, 0, (e.cmd.w2 1).toNat⟩
  else if !(s.die (dieOf t.1)).inService then
    s.copyFails core k e 0x23 4 (BitVec.ofNat 64 (windowPa t.1 (r.base * 4096))) (s.dieDet (dieOf t.1))
  else s.modCopy core k fun e => { e with phase := .ringWait }

/-- The last source fragment of a timed copy is in the buffer: it waits for its instant, or is late (R275). -/
def State.gateCopy (s : State) (core k : Nat) (e : CopyEntry) : State :=
  s.modCopy core k fun f => { f with phase := .gated, late := s.now - e.cmd.inst.toNat }

/-- A compressing copy has read its whole source: of the largest record it might have written, the bytes beyond the one it writes are no
destination bytes (R270, R272; log entry 79). -/
def State.trimDest (s : State) (core k : Nat) (q : Runner) (p : Plan) : State :=
  match (s.core core).copies[k]? with
  | none => s
  | some e =>
    let real := s.rangesAt q p.dst ((p.recordRuns e.cmd e.buf).map Prod.fst)
    let extra := cutAll real e.dest
    let s := (s.reveal extra).modCopy core k fun g => { g with dest := overlaps e.dest real, shared := overlaps e.shared real }
    s.cores.values.foldl (fun s c => c.copies.foldl (fun s f => s.forgetAll (overlaps extra (f.dest ++ f.wrote))) s) s

/-- A fragment whose bytes go to a buffer first. -/
def State.bufferFrag (s : State) (core k : Nat) (e : CopyEntry) (q : Runner) (kd : CopyKind) (p : Plan) (fs : List Frag) (f : Frag) : State :=
  match s.readFrag q p e.cmd e.dest [] f with
  | (s, .error w) => s.fragFails core k e true e.frag w
  | (s, .ok r) =>
    let s := s.modCopy core k fun g => { g with frag := e.frag + 1, buf := g.buf ++ r.1, read := g.read ++ rangesOfPlaces r.2 }
    if e.frag + 1 ≠ fs.length then s
    else if kd = .cpyt then s.gateCopy core k e
    else if kd = .cpys ∧ p.remote.isNone then s.trimDest core k q p
    else s

/-- A fragment that is read and written. -/
def State.moveFrag (s : State) (core k : Nat) (e : CopyEntry) (q : Runner) (kd : CopyKind) (o : FmtE) (p : Plan) (mask : List Bool)
    (f : Frag) : State :=
  match s.readFrag q p e.cmd e.dest mask f with
  | (s, .error w) => s.fragFails core k e true e.frag w
  | (s, .ok r) =>
    let s := s.modCopy core k fun g => { g with read := g.read ++ rangesOfPlaces r.2 }
    s.writeFrag core k e q kd o p mask f r.1 e.frag

/-- Fragment n of the write phase of a compressing copy. -/
def State.recordFrag (s : State) (core k : Nat) (e : CopyEntry) (q : Runner) (p : Plan) (n : Nat) : State :=
  match (p.recordRuns e.cmd e.buf)[n]? with
  | none => s
  | some (run, bs) =>
    match p.remote with
    | some m => s.sendFrag core k e m [run] e.frag
    | none =>
      match s.placeAll q p.dst.space p.dst.tile .engineW [run] with
      | (s, .error w) => s.fragFails core k e false e.frag w
      | (s, .ok ps) => s.putFrag core k e.shared [(q.ctx, ps)] bs

/-- The bytes of fragment n within a buffered box. -/
def fragBytes (esz : Nat) (fs : List Frag) (n : Nat) (buf : List Byte) : List Byte :=
  let before := (fs.take n).foldl (fun a f => a + f.n * esz) 0
  (buf.drop before).take (((fs[n]?).map fun f => f.n * esz).getD 0)

/-- Presence in the compressed source of an entry, read once; for a dense source nothing is read. -/
def State.takeMask (s : State) (core k : Nat) (e : CopyEntry) (q : Runner) (p : Plan) : State × Except EngStop (List Bool) :=
  match e.mask with
  | some m => (s, .ok m)
  | none =>
    match s.ownRead e.dest fun s => s.sourceMask q p e.cmd with
    | (s, .ok m) => (s.modCopy core k fun e => { e with mask := some m }, .ok m)
    | (s, .error w) => (s, .error w)

/-- The next fragment of an entry that runs. -/
def State.nextFrag (s : State) (core k : Nat) (e : CopyEntry) (q : Runner) (kd : CopyKind) (o : FmtE) (p : Plan) : State :=
  match s.takeMask core k e q p with
  | (s, .error w) => s.fragFails core k e true e.frag w
  | (s, .ok mask) =>
    let fs := p.frags kd e.cmd mask
    match fs[e.frag]? with
    | some f => if p.buffered kd then s.bufferFrag core k e q kd p fs f else s.moveFrag core k e q kd o p mask f
    | none =>
      let n := e.frag - fs.length
      if kd = .bsnd then s.ringAnswer core k e q
      else if kd = .cpyt then
        match fs[n]? with
        | some f => s.writeFrag core k e q kd o p [] f (fragBytes p.src.esz fs n e.buf) n
        | none => s
      else if kd = .cpys ∧ p.dst.compressed then s.recordFrag core k e q p n
      else s

/-- What entry k of a core's copy table does next: its next fragment, or a timed copy takes its release-buffer space (R275). -/
def State.moveCopy (s : State) (core k : Nat) (e : CopyEntry) (q : Runner) (kd : CopyKind) (o : FmtE) (p : Plan) : State :=
  match e.phase with
  | .running => s.nextFrag core k e q kd o p
  | .gated =>
    let n := p.src.boxElems * p.src.esz
    if e.reserved = 0 ∧ (s.die q.die).release + n ≤ 2 ^ 23 then
      (s.modDie q.die fun d => { d with release := d.release + n }).modCopy core k fun e => { e with reserved := n, phase := .running }
    else s
  | _ => s

/-- COPY_FRAGMENT: entry k of a core's copy table moves its next fragment; a timed copy first takes its release-buffer space
(R271, R275). -/
def execCopyFragment (core k : Nat) (s : State) : Out :=
  let s := s.openEntry core k
  match (s.core core).copies[k]? with
  | some e =>
    match e.plan, s.runner e.cmd, e.cmd.copy? with
    | some p, some q, some (kd, o) =>
      .next (if kd.baseDie ∨ !s.mayBegin core k e q kd then s else s.moveCopy core k e q kd o p)
    | _, _, _ => .next s
  | none => .next s

/-- CPYT_RELEASE: the timer has reached the instant of a timed copy that has read its source; its writes begin (R275). -/
def execCpytRelease (core k : Nat) (s : State) : Out :=
  match (s.core core).copies[k]? with
  | some e =>
    if e.phase = .gated ∧ e.reserved ≠ 0 ∧ e.cmd.inst.toNat ≤ s.now ∧ !s.heldAtChange e then
      .next (s.modCopy core k fun e => { e with phase := .running })
    else .next s
  | none => .next s

/-- COPY_COMPLETE: every fragment of an entry has been written (R267). -/
def execCopyComplete (core k : Nat) (s : State) : Out :=
  match (s.core core).copies[k]? with
  | some e =>
    match e.plan, e.mask, e.cmd.copy? with
    | some p, some mask, some (kd, _) =>
      .next (if e.phase = .running ∧ !kd.baseDie ∧ kd ≠ .bsnd ∧ e.frag = p.fragCount kd e.cmd mask e.buf then
        s.finishCopy core k e false else s)
    | _, _, _ => .next s
  | none => .next s

/-! ## BASEDIE_EXECUTE -/

/-- What follows a run of units: completion, or a fault whose resume point is the element reached (R277; log entry 33). -/
def State.baseEnds (s : State) (core k : Nat) (e : CopyEntry) (kd : CopyKind) (r : Nat × List (Nat × Nat) × Option SideStop) : State :=
  let t := (s.forgetAll r.2.1).modCopy core k fun f => { f with frag := r.1, wrote := f.wrote ++ r.2.1 }
  match r.2.2 with
  | some w => t.fragFails core k e w.1 (r.1 * e.cmd.unitSize kd) w.2
  | none =>
    match (t.core core).copies[k]? with
    | some f => t.finishCopy core k f false
    | none => s

/-- BASEDIE_EXECUTE: a base-die command runs from its resume point (R276 to R279); it sees its own arrays as they stand. -/
def execBasedieExecute (core k : Nat) (s : State) : Out :=
  let s := s.openEntry core k
  match (s.core core).copies[k]? with
  | some e =>
    match s.runner e.cmd, e.cmd.copy? with
    | some q, some (kd, _) =>
      if e.phase = .running ∧ kd.baseDie ∧ e.plan.isSome ∧ s.mayBegin core k e q kd ∧ s.replyTurn core e.cmd then
        let d := s.baseDieOf q e.cmd kd
        if !(s.die d).inService then
          .next (s.copyFails core k e 0x23 0 (if kd = .gath then e.cmd.srec else e.cmd.baseDst kd) (s.dieDet d))
        else
          let r := s.ownRead e.dest fun s => s.baseRun (s.baseRunner q e.cmd kd) e.cmd kd e.shared (e.cmd.units kd - e.frag) e.frag
          .next (r.1.baseEnds core k e kd r.2)
      else .next s
    | _, _ => .next s
  | none => .next s

end Sys2Proof.Machine
end

