-- ==== Sys2Proof/Machine/Int.lean ====
section
/-! DEFINITION. The integer instructions (R184 to R201): element operations, and one meaning per instruction. -/

namespace Sys2Proof.Machine

/-! ## Element operations (R187, R188, R193, R194), on patterns of w bits -/

/-- Add. -/
def opAdd (w a b : Nat) : Nat := trunc w (sext w a + sext w b)
/-- Subtract. -/
def opSub (w a b : Nat) : Nat := trunc w (sext w a - sext w b)
/-- Multiply, low half. -/
def opMul (w a b : Nat) : Nat := trunc w (sext w a * sext w b)
/-- Multiply, high half, signed. -/
def opMulh (w a b : Nat) : Nat := trunc w ((sext w a * sext w b) / (2 ^ w : Nat))
/-- Multiply, high half, unsigned. -/
def opMulhu (w a b : Nat) : Nat := a * b / 2 ^ w
/-- And-not. -/
def opAndn (w a b : Nat) : Nat := a &&& (2 ^ w - 1 - b)
/-- Shift left by b modulo w. -/
def opShl (w a b : Nat) : Nat := trunc w ((a * 2 ^ (b % w) : Nat) : Int)
/-- Shift right, logical. -/
def opShr (w a b : Nat) : Nat := a / 2 ^ (b % w)
/-- Shift right, arithmetic. -/
def opSra (w a b : Nat) : Nat := trunc w (sext w a / (2 ^ (b % w) : Nat))
/-- Minimum, signed. -/
def opMin (w a b : Nat) : Nat := trunc w (min (sext w a) (sext w b))
/-- Maximum, signed. -/
def opMax (w a b : Nat) : Nat := trunc w (max (sext w a) (sext w b))
/-- Add, signed saturation. -/
def opAdds (w a b : Nat) : Nat := trunc w (sat (sext w a + sext w b) (-(2 ^ (w - 1) : Nat)) ((2 ^ (w - 1) : Nat) - 1))
/-- Add, unsigned saturation. -/
def opAddsu (w a b : Nat) : Nat := min (a + b) (2 ^ w - 1)
/-- Subtract, signed saturation. -/
def opSubs (w a b : Nat) : Nat := trunc w (sat (sext w a - sext w b) (-(2 ^ (w - 1) : Nat)) ((2 ^ (w - 1) : Nat) - 1))
/-- Subtract, unsigned saturation. -/
def opSubsu (_w a b : Nat) : Nat := a - b
/-- Absolute difference. -/
def opAbsd (w a b : Nat) : Nat := (sext w a - sext w b).natAbs
/-- Multiply-add. -/
def opMad (w a b c : Nat) : Nat := trunc w (sext w a * sext w b + sext w c)
/-- Signed division toward zero, with the results R188 gives for a zero divisor and for the overflow. -/
def opSdiv (a b : Nat) : Nat :=
  let sa := sext 32 a
  let sb := sext 32 b
  trunc 32 (if sb = 0 then (if 0 ≤ sa then -1 else 1) else Int.tdiv sa sb)
/-- Unsigned division. -/
def opSdivu (a b : Nat) : Nat := if b = 0 then 2 ^ 32 - 1 else a / b
/-- Bit-field extract with control word k (R194). -/
def opBfx (a k : Nat) : Nat :=
  let pos := k % 32
  let len := min (k / 2 ^ 8 % 64) (32 - pos)
  let f := a / 2 ^ pos % 2 ^ len
  if k.testBit 16 ∧ 0 < len then trunc 32 (sext len f) else f
/-- Bit-field insert of b into a with control word k (R194). -/
def opBfi (a b k : Nat) : Nat :=
  let pos := k % 32
  let len := min (k / 2 ^ 8 % 64) (32 - pos)
  let m := (2 ^ len - 1) * 2 ^ pos
  (a &&& (2 ^ 32 - 1 - m)) ||| ((b * 2 ^ pos) &&& m)
/-- The sign-extended immediate of R195 as an element. -/
def immSx (w imm : Nat) : Nat := trunc w (sext 24 imm)
/-- The immediate of a compare (R190). -/
def immCmp (w imm : Nat) : Nat := trunc w (sext 19 imm)
/-- Negation or identity on 64 bits. -/
def add64 (m1 m2 : BitVec 3) (a b : DWord) : DWord := modify64 m1 a + modify64 m2 b
/-- The second operand of a 64-bit addition by EW (R197). -/
def wide64 (ew : BitVec 2) (p : DWord) (x : Word) : DWord := if ew = 0 then p else if ew = 1 then x.signExtend 64 else x.setWidth 64
/-- VDOT4 (R198). -/
def opDot4 (w : Nat) (a b c : Word) : Word :=
  toWord (trunc 32 (sext 32 c.toNat + (List.zipWith (fun x y => sext w x * sext w y) (elems w a) (elems w b)).foldl (· + ·) 0))
/-- One element narrowed with signed saturation (R199). -/
def narrow (w x : Nat) : Nat := trunc w (sat (sext (2 * w) x) (-(2 ^ (w - 1) : Nat)) ((2 ^ (w - 1) : Nat) - 1))
/-- VPACK (R199). -/
def opPack (w : Nat) (a b : Word) : Word := pack w ((elems (2 * w) a ++ elems (2 * w) b).map (narrow w))
/-- VUNPK (R200). -/
def opUnpk (w : Nat) (hi sx : Bool) (a : Word) : Word :=
  let n := 32 / w
  pack (2 * w) ((List.range (n / 2)).map fun i =>
    let e := elem w a ((if hi then n / 2 else 0) + i)
    if sx then trunc (2 * w) (sext w e) else e)

/-! ## Meanings -/

/-- SADD, R187. -/
def execSadd (h : Hdr) (o : FmtA) (s : State) : Out :=
  uOp2 h o s (opAdd 32)

/-- SSUB, R187. -/
def execSsub (h : Hdr) (o : FmtA) (s : State) : Out :=
  uOp2 h o s (opSub 32)

/-- SMUL, R187. -/
def execSmul (h : Hdr) (o : FmtA) (s : State) : Out :=
  uOp2 h o s (opMul 32)

/-- SMULH, R187. -/
def execSmulh (h : Hdr) (o : FmtA) (s : State) : Out :=
  uOp2 h o s (opMulh 32)

/-- SMULHU, R187. -/
def execSmulhu (h : Hdr) (o : FmtA) (s : State) : Out :=
  uOp2 h o s (opMulhu 32)

/-- SAND, R187. -/
def execSand (h : Hdr) (o : FmtA) (s : State) : Out :=
  uOp2 h o s (fun a b => a &&& b)

/-- SOR, R187. -/
def execSor (h : Hdr) (o : FmtA) (s : State) : Out :=
  uOp2 h o s (fun a b => a ||| b)

/-- SXOR, R187. -/
def execSxor (h : Hdr) (o : FmtA) (s : State) : Out :=
  uOp2 h o s (fun a b => a ^^^ b)

/-- SANDN, R187. -/
def execSandn (h : Hdr) (o : FmtA) (s : State) : Out :=
  uOp2 h o s (opAndn 32)

/-- SSHL, R187. -/
def execSshl (h : Hdr) (o : FmtA) (s : State) : Out :=
  uOp2 h o s (opShl 32)

/-- SSHR, R187. -/
def execSshr (h : Hdr) (o : FmtA) (s : State) : Out :=
  uOp2 h o s (opShr 32)

/-- SSRA, R187. -/
def execSsra (h : Hdr) (o : FmtA) (s : State) : Out :=
  uOp2 h o s (opSra 32)

/-- SMIN, R187. -/
def execSmin (h : Hdr) (o : FmtA) (s : State) : Out :=
  uOp2 h o s (opMin 32)

/-- SMAX, R187. -/
def execSmax (h : Hdr) (o : FmtA) (s : State) : Out :=
  uOp2 h o s (opMax 32)

/-- SMINU, R187. -/
def execSminu (h : Hdr) (o : FmtA) (s : State) : Out :=
  uOp2 h o s (fun a b => min a b)

/-- SMAXU, R187. -/
def execSmaxu (h : Hdr) (o : FmtA) (s : State) : Out :=
  uOp2 h o s (fun a b => max a b)

/-- VADD, R187. -/
def execVadd (h : Hdr) (o : FmtA) (s : State) : Out :=
  vOp2 false (ewWidth o.ew) h o s (opAdd (ewWidth o.ew))

/-- VSUB, R187. -/
def execVsub (h : Hdr) (o : FmtA) (s : State) : Out :=
  vOp2 false (ewWidth o.ew) h o s (opSub (ewWidth o.ew))

/-- VMUL, R187. -/
def execVmul (h : Hdr) (o : FmtA) (s : State) : Out :=
  vOp2 false (ewWidth o.ew) h o s (opMul (ewWidth o.ew))

/-- VMULH, R187. -/
def execVmulh (h : Hdr) (o : FmtA) (s : State) : Out :=
  vOp2 false (ewWidth o.ew) h o s (opMulh (ewWidth o.ew))

/-- VMULHU, R187. -/
def execVmulhu (h : Hdr) (o : FmtA) (s : State) : Out :=
  vOp2 false (ewWidth o.ew) h o s (opMulhu (ewWidth o.ew))

/-- VAND, R187. -/
def execVand (h : Hdr) (o : FmtA) (s : State) : Out :=
  vOp2 false (ewWidth o.ew) h o s (fun a b => a &&& b)

/-- VOR, R187. -/
def execVor (h : Hdr) (o : FmtA) (s : State) : Out :=
  vOp2 false (ewWidth o.ew) h o s (fun a b => a ||| b)

/-- VXOR, R187. -/
def execVxor (h : Hdr) (o : FmtA) (s : State) : Out :=
  vOp2 false (ewWidth o.ew) h o s (fun a b => a ^^^ b)

/-- VANDN, R187. -/
def execVandn (h : Hdr) (o : FmtA) (s : State) : Out :=
  vOp2 false (ewWidth o.ew) h o s (opAndn (ewWidth o.ew))

/-- VSHL, R187. -/
def execVshl (h : Hdr) (o : FmtA) (s : State) : Out :=
  vOp2 false (ewWidth o.ew) h o s (opShl (ewWidth o.ew))

/-- VSHR, R187. -/
def execVshr (h : Hdr) (o : FmtA) (s : State) : Out :=
  vOp2 false (ewWidth o.ew) h o s (opShr (ewWidth o.ew))

/-- VSRA, R187. -/
def execVsra (h : Hdr) (o : FmtA) (s : State) : Out :=
  vOp2 false (ewWidth o.ew) h o s (opSra (ewWidth o.ew))

/-- VMIN, R187. -/
def execVmin (h : Hdr) (o : FmtA) (s : State) : Out :=
  vOp2 false (ewWidth o.ew) h o s (opMin (ewWidth o.ew))

/-- VMAX, R187. -/
def execVmax (h : Hdr) (o : FmtA) (s : State) : Out :=
  vOp2 false (ewWidth o.ew) h o s (opMax (ewWidth o.ew))

/-- VMINU, R187. -/
def execVminu (h : Hdr) (o : FmtA) (s : State) : Out :=
  vOp2 false (ewWidth o.ew) h o s (fun a b => min a b)

/-- VMAXU, R187. -/
def execVmaxu (h : Hdr) (o : FmtA) (s : State) : Out :=
  vOp2 false (ewWidth o.ew) h o s (fun a b => max a b)

/-- VADDS, R187. -/
def execVadds (h : Hdr) (o : FmtA) (s : State) : Out :=
  vOp2 false (ewWidth o.ew) h o s (opAdds (ewWidth o.ew))

/-- VADDSU, R187. -/
def execVaddsu (h : Hdr) (o : FmtA) (s : State) : Out :=
  vOp2 false (ewWidth o.ew) h o s (opAddsu (ewWidth o.ew))

/-- VSUBS, R187. -/
def execVsubs (h : Hdr) (o : FmtA) (s : State) : Out :=
  vOp2 false (ewWidth o.ew) h o s (opSubs (ewWidth o.ew))

/-- VSUBSU, R187. -/
def execVsubsu (h : Hdr) (o : FmtA) (s : State) : Out :=
  vOp2 false (ewWidth o.ew) h o s (opSubsu (ewWidth o.ew))

/-- VABSD, R187. -/
def execVabsd (h : Hdr) (o : FmtA) (s : State) : Out :=
  vOp2 false (ewWidth o.ew) h o s (opAbsd (ewWidth o.ew))

/-- VMAD, R187. -/
def execVmad (h : Hdr) (o : FmtA) (s : State) : Out :=
  vOp3 false (ewWidth o.ew) h o s (opMad (ewWidth o.ew))

/-- SDIV, R188. -/
def execSdiv (h : Hdr) (o : FmtA) (s : State) : Out :=
  uOp2 h o s opSdiv

/-- SDIVU, R188. -/
def execSdivu (h : Hdr) (o : FmtA) (s : State) : Out :=
  uOp2 h o s opSdivu

/-- SCMP, R189. -/
def execScmp (h : Hdr) (o : FmtA) (s : State) : Out :=
  uSyl h s fun e => .eff [.setC (Spec.idx o.d).toNat (icmpHolds o.cc 32 (e.sm o.m1 o.s1) (e.sm o.m2 o.s2))]

/-- VCMP, R189. -/
def execVcmp (h : Hdr) (o : FmtA) (s : State) : Out :=
  vSyl h s fun e m =>
    let w := ewWidth o.ew
    .eff [e.setPs (Spec.idx o.d).toNat m fun l =>
      allPairs w (icmpHolds o.cc w) (modify false w o.m1 (e.src o.s1 l)) (modify false w o.m2 (e.src o.s2 l))]

/-- SCMPI, R190. -/
def execScmpi (h : Hdr) (o : FmtB) (s : State) : Out :=
  uSyl h s fun e => .eff [.setC (Spec.idx o.d).toNat (icmpHolds o.cc 32 (e.sm o.m1 o.s1) (immCmp 32 o.imm.toNat))]

/-- VCMPI, R190. -/
def execVcmpi (h : Hdr) (o : FmtB) (s : State) : Out :=
  vSyl h s fun e m =>
    let w := ewWidth o.ew
    .eff [e.setPs (Spec.idx o.d).toNat m fun l =>
      (elems w (modify false w o.m1 (e.src o.s1 l))).all fun a => icmpHolds o.cc w a (immCmp w o.imm.toNat)]

/-- SSEL, R191. -/
def execSsel (h : Hdr) (o : FmtA) (s : State) : Out :=
  uSyl h s fun e =>
    .eff [setS o.d (toWord (if e.y.rdC (Spec.idx o.s3).toNat then e.sm o.m1 o.s1 else e.sm o.m2 o.s2))]

/-- VSEL, R191. -/
def execVsel (h : Hdr) (o : FmtA) (s : State) : Out :=
  vSyl h s fun e m =>
    let p := e.pred (Spec.idx o.s3).toNat
    .eff (e.setVs o.d m fun l =>
      if p.getLsbD l then modify false 32 o.m1 (e.src o.s1 l) else modify false 32 o.m2 (e.src o.s2 l))

/-- VMOV, R192. -/
def execVmov (h : Hdr) (o : FmtA) (s : State) : Out :=
  vOp1 false (ewWidth o.ew) h o s id

/-- SPOPC, R193. -/
def execSpopc (h : Hdr) (o : FmtA) (s : State) : Out :=
  uOp1 h o s (popcount 32)

/-- SCLZ, R193. -/
def execSclz (h : Hdr) (o : FmtA) (s : State) : Out :=
  uOp1 h o s (clz 32)

/-- VPOPC, R193. -/
def execVpopc (h : Hdr) (o : FmtA) (s : State) : Out :=
  vOp1 false (ewWidth o.ew) h o s (popcount (ewWidth o.ew))

/-- VCLZ, R193. -/
def execVclz (h : Hdr) (o : FmtA) (s : State) : Out :=
  vOp1 false (ewWidth o.ew) h o s (clz (ewWidth o.ew))

/-- SBFX, R194. -/
def execSbfx (h : Hdr) (o : FmtA) (s : State) : Out :=
  uOp2 h o s opBfx

/-- SBFI, R194. -/
def execSbfi (h : Hdr) (o : FmtA) (s : State) : Out :=
  uSyl h s fun e => .eff [setS o.d (toWord (opBfi (e.sm o.m1 o.s1) (e.sm o.m2 o.s2) (e.sm o.m3 o.s3)))]

/-- VBFX, R194. -/
def execVbfx (h : Hdr) (o : FmtA) (s : State) : Out :=
  vOp2 false 32 h o s opBfx

/-- VBFI, R194. -/
def execVbfi (h : Hdr) (o : FmtA) (s : State) : Out :=
  vOp3 false 32 h o s opBfi

/-- SADDI, R195. -/
def execSaddi (h : Hdr) (o : FmtB) (s : State) : Out :=
  uOpI h o s (fun a i => opAdd 32 a (immSx 32 i))

/-- SANDI, R195. -/
def execSandi (h : Hdr) (o : FmtB) (s : State) : Out :=
  uOpI h o s (fun a i => a &&& immSx 32 i)

/-- SORI, R195. -/
def execSori (h : Hdr) (o : FmtB) (s : State) : Out :=
  uOpI h o s (fun a i => a ||| immSx 32 i)

/-- SXORI, R195. -/
def execSxori (h : Hdr) (o : FmtB) (s : State) : Out :=
  uOpI h o s (fun a i => a ^^^ immSx 32 i)

/-- SSHLI, R195. -/
def execSshli (h : Hdr) (o : FmtB) (s : State) : Out :=
  uOpI h o s (opShl 32)

/-- SSHRI, R195. -/
def execSshri (h : Hdr) (o : FmtB) (s : State) : Out :=
  uOpI h o s (opShr 32)

/-- SSRAI, R195. -/
def execSsrai (h : Hdr) (o : FmtB) (s : State) : Out :=
  uOpI h o s (opSra 32)

/-- VADDI, R195. -/
def execVaddi (h : Hdr) (o : FmtB) (s : State) : Out :=
  vOpI h o s (fun a i => opAdd (ewWidth o.ew) a (immSx (ewWidth o.ew) i))

/-- VANDI, R195. -/
def execVandi (h : Hdr) (o : FmtB) (s : State) : Out :=
  vOpI h o s (fun a i => a &&& immSx (ewWidth o.ew) i)

/-- VSHLI, R195. -/
def execVshli (h : Hdr) (o : FmtB) (s : State) : Out :=
  vOpI h o s (opShl (ewWidth o.ew))

/-- VSHRI, R195. -/
def execVshri (h : Hdr) (o : FmtB) (s : State) : Out :=
  vOpI h o s (opShr (ewWidth o.ew))

/-- VSRAI, R195. -/
def execVsrai (h : Hdr) (o : FmtB) (s : State) : Out :=
  vOpI h o s (opSra (ewWidth o.ew))

/-- SLI, R196. -/
def execSli (h : Hdr) (o : FmtC) (s : State) : Out :=
  uSyl h s fun _ => .eff [setS o.d o.imm]

/-- SLI.hi, R196. -/
def execSliHi (h : Hdr) (o : FmtC) (s : State) : Out :=
  uSyl h s fun _ => .eff [.setS (o.d.toNat + 1 - 128) o.imm]

/-- SLI.sx, R196. -/
def execSliSx (h : Hdr) (o : FmtC) (s : State) : Out :=
  uSyl h s fun _ => .eff (setS64 o.d (o.imm.signExtend 64))

/-- VLI, R196. -/
def execVli (h : Hdr) (o : FmtC) (s : State) : Out :=
  vSyl h s fun e m => .eff (e.setVs o.d m fun _ => o.imm)

/-- VLI.hi, R196. -/
def execVliHi (h : Hdr) (o : FmtC) (s : State) : Out :=
  vSyl h s fun e m => .eff ((lanesOf m).map fun l => e.setV (o.d.toNat + 1) l o.imm)

/-- VLI.sx, R196. -/
def execVliSx (h : Hdr) (o : FmtC) (s : State) : Out :=
  vSyl h s fun e m => .eff (e.setVs64 o.d m fun _ => o.imm.signExtend 64)

/-- SADD64, R197. -/
def execSadd64 (h : Hdr) (o : FmtA) (s : State) : Out :=
  uSyl h s fun e => .eff (setS64 o.d (add64 o.m1 o.m2 (e.src64 o.s1 0) (wide64 o.ew (e.src64 o.s2 0) (e.src o.s2 0))))

/-- VADD64, R197. -/
def execVadd64 (h : Hdr) (o : FmtA) (s : State) : Out :=
  vSyl h s fun e m =>
    .eff (e.setVs64 o.d m fun l => add64 o.m1 o.m2 (e.src64 o.s1 l) (wide64 o.ew (e.src64 o.s2 l) (e.src o.s2 l)))

/-- VDOT4, R198. -/
def execVdot4 (h : Hdr) (o : FmtA) (s : State) : Out :=
  vSyl h s fun e m =>
    let w := ewWidth o.ew
    .eff (e.setVs o.d m fun l =>
      opDot4 w (modify false w o.m1 (e.src o.s1 l)) (modify false w o.m2 (e.src o.s2 l)) (modify false 32 o.m3 (e.src o.s3 l)))

/-- VPACK, R199. -/
def execVpack (h : Hdr) (o : FmtA) (s : State) : Out :=
  vSyl h s fun e m =>
    let w := ewWidth o.ew
    .eff (e.setVs o.d m fun l =>
      opPack w (modify false (2 * w) o.m1 (e.src o.s1 l)) (modify false (2 * w) o.m2 (e.src o.s2 l)))

/-- VUNPK, R200. -/
def execVunpk (h : Hdr) (o : FmtA) (s : State) : Out :=
  vSyl h s fun e m =>
    let w := ewWidth o.ew
    .eff (e.setVs o.d m fun l => opUnpk w (o.s3.getLsbD 0) (o.s3.getLsbD 1) (modify false w o.m1 (e.src o.s1 l)))

end Sys2Proof.Machine
end

