-- ==== Sys2Proof/Machine/Exchange.lean ====
section
/-! DEFINITION. The lane-exchange instructions (R220 to R224). Sources are the lanes of the issue set. -/

namespace Sys2Proof.Machine

/-- The segment width W of a control field (R220). -/
def segWidth (o : FmtA) : Nat := 2 ^ (o.s3.extractLsb' 0 3).toNat
/-- The operation or kind of a control field (R220). -/
def xOp (o : FmtA) : Nat := (o.s3.extractLsb' 3 4).toNat
/-- The first lane of a lane's segment (R220). -/
def segOf (w l : Nat) : Nat := l - l % w
/-- The lanes of a set that lie in the segment of lane l, ascending. -/
def segLanes (m : Lanes) (w l : Nat) : List Nat := (lanesOf m).filter fun j => segOf w j = segOf w l

/-! ## Movement (R221) -/

/-- The source lanes of R221, from W, l and d. -/
def srcShf (w l d : Nat) : Nat := segOf w l + d % w
@[inherit_doc srcShf] def srcBfly (w l d : Nat) : Nat := segOf w l + (l ^^^ d) % w
@[inherit_doc srcShf] def srcUp (w l d : Nat) : Nat := if d ≤ l % w then l - d else l
@[inherit_doc srcShf] def srcDn (w l d : Nat) : Nat := if l % w + d < w then l + d else l

/-- A movement: lane l takes its source lane's value where that lane supplies, else its own (R220, R221). -/
def moveSyl (h : Hdr) (o : FmtA) (s : State) (j : Env → Lanes → Nat → Nat) : Out :=
  vSyl h s fun e m =>
    .eff (e.setVs o.d m fun l => if m.getLsbD (j e m l) then e.src o.s1 (j e m l) else e.src o.s1 l)

/-- The distance or index operand of lane l (R221). -/
def Env.dist (e : Env) (o : FmtA) (l : Nat) : Nat := (modify false 32 o.m2 (e.src o.s2 l)).toNat

/-- XSHF, R221. -/
def execXshf (h : Hdr) (o : FmtA) (s : State) : Out := moveSyl h o s fun e _ l => srcShf (segWidth o) l (e.dist o l)
/-- XBFLY, R221. -/
def execXbfly (h : Hdr) (o : FmtA) (s : State) : Out := moveSyl h o s fun e _ l => srcBfly (segWidth o) l (e.dist o l)
/-- XUP, R221. -/
def execXup (h : Hdr) (o : FmtA) (s : State) : Out := moveSyl h o s fun e _ l => srcUp (segWidth o) l (e.dist o l)
/-- XDN, R221. -/
def execXdn (h : Hdr) (o : FmtA) (s : State) : Out := moveSyl h o s fun e _ l => srcDn (segWidth o) l (e.dist o l)
/-- XBCAST, R221. -/
def execXbcast (h : Hdr) (o : FmtA) (s : State) : Out := moveSyl h o s fun _ m l => (segLanes m (segWidth o) l).headD l

/-! ## Reductions and scans (R222) -/

/-- The sum of two elements of a format, rounded to nearest even. -/
def Fmt.sum (f : Fmt) (a b : Nat) : Nat := f.round .rne ((f.value a).add .rne (f.value b))

/-- The combination of two elements of w bits under an operation code; f is the form of fadd (R222). -/
def xCombine (op w : Nat) (f : Fmt) (a b : Nat) : Nat :=
  match op with
  | 0 => opAdd w a b
  | 1 => opMin w a b
  | 2 => opMax w a b
  | 3 => min a b
  | 4 => max a b
  | 5 => a &&& b
  | 6 => a ||| b
  | 7 => a ^^^ b
  | _ => f.sum a b

/-- The identity of an operation (R222). -/
def xIdentity (op w : Nat) : Nat :=
  match op with
  | 1 => 2 ^ (w - 1) - 1
  | 2 => 2 ^ (w - 1)
  | 3 => 2 ^ w - 1
  | 5 => 2 ^ w - 1
  | 8 => 2 ^ (w - 1)
  | _ => 0

/-- Two nodes of the reduction tree: an absent one contributes nothing (R222). -/
def treeNode (f : Nat → Nat → Nat) : Option Nat → Option Nat → Option Nat
  | some a, some b => some (f a b)
  | some a, none => some a
  | none, b => b

/-- One level of the reduction tree: neighbours combined. -/
def treeLevel (f : Nat → Nat → Nat) : List (Option Nat) → List (Option Nat)
  | a :: b :: r => treeNode f a b :: treeLevel f r
  | l => l

/-- The reduction tree of 2^g nodes (R222). See log entry 27. -/
def treeFold (f : Nat → Nat → Nat) : Nat → List (Option Nat) → Option Nat
  | 0, l => l.headD none
  | g + 1, l => treeFold f g (treeLevel f l)

/-- A serial accumulation; a value alone stands as it is (R222; log entry 27). -/
def serial (f : Nat → Nat → Nat) : List Nat → Option Nat
  | [] => none
  | a :: r => some (r.foldl f a)

/-- The element width of a reduction (R222). -/
def xWidth (o : FmtA) : Nat := if (xOp o) = 8 then formWidth o.ew else ewWidth o.ew

/-- The elements of lane j's source, its modifier applied. -/
def Env.xelem (e : Env) (o : FmtA) (i j : Nat) : Nat := elem (xWidth o) (modify ((xOp o) = 8) (xWidth o) o.m1 (e.src o.s1 j)) i

/-- XRED, R222. -/
def execXred (h : Hdr) (o : FmtA) (s : State) : Out :=
  vSyl h s fun e m =>
    let w := (xWidth o)
    .eff (e.setVs o.d m fun l =>
      pack w ((List.range (32 / w)).map fun i =>
        let nodes := (List.range (segWidth o)).map fun k =>
          let j := segOf (segWidth o) l + k
          if m.getLsbD j then some (e.xelem o i j) else none
        (treeFold (xCombine (xOp o) w (formFmt o.ew)) (o.s3.extractLsb' 0 3).toNat nodes).getD 0))

/-- XSCAN, R222. -/
def execXscan (h : Hdr) (o : FmtA) (s : State) : Out :=
  vSyl h s fun e m =>
    let w := (xWidth o)
    .eff (e.setVs o.d m fun l =>
      pack w ((List.range (32 / w)).map fun i =>
        let before := (segLanes m (segWidth o) l).filter fun j => if o.s3.getLsbD 7 then decide (j < l) else decide (j ≤ l)
        (serial (xCombine (xOp o) w (formFmt o.ew)) (before.map (e.xelem o i))).getD (xIdentity (xOp o) w)))

/-! ## Ballots and votes -/

/-- XBALLOT, R223. -/
def execXballot (h : Hdr) (o : FmtA) (s : State) : Out :=
  vSyl h s fun e m =>
    let mask := m &&& e.pred (Spec.idx o.s1).toNat
    .eff ((lanesOf m).flatMap fun l => (List.range 4).map fun k => e.setV (o.d.toNat + k) l (mask.extractLsb' (32 * k) 32))

/-- The vote of a segment's lanes, by kind (R224). -/
def voteOf (kind : Nat) (l : List Bool) : Bool :=
  match kind with
  | 0 => l.any id
  | 1 => l.all id
  | _ => l.all id || l.all not

/-- XVOTE, R224. -/
def execXvote (h : Hdr) (o : FmtA) (s : State) : Out :=
  vSyl h s fun e m =>
    let p := e.pred (Spec.idx o.s1).toNat
    .eff [e.setPs (Spec.idx o.d).toNat m fun l => voteOf (xOp o) ((segLanes m (segWidth o) l).map fun j => p.getLsbD j)]

end Sys2Proof.Machine
end

