-- ==== Sys2Proof/Machine/Render.lean ====
section
/-! DEFINITION. The render cores' raster slice and ray unit: RAST, RTILE and RAYQ (R285 to R290). -/

namespace Sys2Proof.Machine

/-! ## Issue (R268, R289) -/

/-- A render command issues: on a network tile it raises RENDER_INPUT_INVALID (R18, R289). -/
def renderSyl (h : Hdr) (s : State) (addr : Env → DWord) (c : Env → EngCmd) : Out :=
  xAct h s fun e => if isTile e.x.core then failWith 0 0x1F (addr e) 0 none 0 else .eff [.engine (c e) none]

/-- The leader's pair as two words. -/
def Env.leadPair (e : Env) (n : Spec) : List Word := [loWord (e.lead64 n), hiWord (e.lead64 n)]

/-- RAST, R285. -/
def execRast (h : Hdr) (o : FmtE) (s : State) : Out :=
  renderSyl h s (fun e => e.lead64 o.s1) fun e => { e.cmd (.rast h o) with q1 := e.leadPair o.s1 }
/-- RAYQ, R288. -/
def execRayq (h : Hdr) (o : FmtE) (s : State) : Out :=
  renderSyl h s (fun e => e.lead64 o.s1) fun e => { e.cmd (.rayq h o) with q1 := e.leadPair o.s1, q2 := [e.lead o.s2] }
/-- RTILE, R287. -/
def execRtile (h : Hdr) (o : FmtE) (s : State) : Out :=
  renderSyl h s (fun _ => 0) fun e => { e.cmd (.rtile h o) with q1 := [e.lead o.s1] }

/-! ## Reading records -/

/-- RENDER_INPUT_INVALID as an engine fault of the issuing block; no copy context is suspended (R285, R289). -/
def State.renderFault (s : State) (c : EngCmd) (addr : Nat) : State :=
  match c.owner with
  | .block b w => s.asyncFault b w 0x1F 2 (BitVec.ofNat 64 addr) (mkDet 0 none 0) 0
  | .node _ _ => s

/-- A failed access of a render engine: the input is invalid, or its die is out of service. -/
def State.renderStop (s : State) (c : EngCmd) (addr : Nat) (w : EngStop) : Out :=
  match w, c.owner with
  | .check _, _ => .next (s.renderFault c addr)
  | .die a d, .block b k => .next (s.asyncFault b k 0x23 2 a (s.dieDet d) 0)
  | .die _ _, .node _ _ => .next s

/-- n bytes of the global space as a render engine reads them. -/
def State.renderRead (s : State) (q : Runner) (a n : Nat) : State × Except EngStop (List Byte) :=
  match s.readRuns { q with x := none } 0 0 [((a : Int), n)] with
  | (s, .ok r) => (s, .ok r.1)
  | (s, .error w) => (s, .error w)

/-! ## Raster (R285, R286) -/

/-- A batch header. -/
structure Batch where
  frag : Nat
  nprim : Nat
  tx : Nat
  ty : Nat
  cols : Nat
  rows : Nat
  prims : Nat
  deriving DecidableEq, Repr

/-- A header that keeps R285. -/
def batchOf (bs : List Byte) : Option Batch :=
  let n (lo k : Nat) := field bs lo k
  let b : Batch := { frag := n 0 8, nprim := n 8 2, tx := n 12 2, ty := n 14 2, cols := n 16 2, rows := n 18 2, prims := n 24 8 }
  if tentryOk b.frag ∧ 1 ≤ b.nprim ∧ b.nprim ≤ 4096 ∧ n 10 2 = 0 ∧ 1 ≤ b.cols ∧ b.cols ≤ 64 ∧ 1 ≤ b.rows ∧ b.rows ≤ 64 ∧
      n 20 4 = 0 ∧ b.prims % 16 = 0 ∧ (bs.drop 32).all (· = 0) then some b else none

/-- A primitive. -/
structure Prim where
  x : List Int
  y : List Int
  z : List Nat
  objid : Nat
  deriving DecidableEq, Repr

/-- The primitive in 48 bytes; none when a reserved byte is not zero. -/
def primOf (bs : List Byte) : Option Prim :=
  let c (k : Nat) : Int := sext 32 (field bs (4 * k) 4)
  if (bs.drop 40).all (· = 0) then
    some { x := [c 0, c 2, c 4], y := [c 1, c 3, c 5], z := (List.range 3).map fun k => field bs (24 + 4 * k) 4, objid := field bs 36 4 }
  else none

/-- The edge function of vertices a and b at a point. -/
def edgeFn (ax ay bx by' px py : Int) : Int := (bx - ax) * (py - ay) - (by' - ay) * (px - ax)

/-- A sample on an edge belongs to a top or left edge (R286): y grows downward (log entry 34). -/
def edgeIn (e dx dy : Int) : Bool := decide (0 < e ∨ (e = 0 ∧ (dy < 0 ∨ (dy = 0 ∧ 0 < dx))))

/-- The weights of the three vertices at a sample, over their common denominator, when the sample is covered. -/
def Prim.cover (p : Prim) (sx sy : Int) : Option (List Int × Nat) :=
  let x (k : Nat) := p.x.getD k 0
  let y (k : Nat) := p.y.getD k 0
  let e (a b : Nat) := edgeFn (x a) (y a) (x b) (y b) sx sy
  let area := edgeFn (x 0) (y 0) (x 1) (y 1) (x 2) (y 2)
  let sg := Int.sign area
  let inside (a b : Nat) := edgeIn (sg * e a b) (sg * (x b - x a)) (sg * (y b - y a))
  if area = 0 ∨ (p.z.any fun z => (fp32.value z).isNan) then none
  else if inside 0 1 && inside 1 2 && inside 2 0 then some ([sg * e 1 2, sg * e 2 0, sg * e 0 1], area.natAbs) else none

/-- The depth of a sample (R286): weights of zero take no part; infinities of both signs give no stated value (log entry 34). -/
def Prim.depth (p : Prim) (w : List Int × Nat) : Nat :=
  let v := (w.1.zip p.z).foldl (fun (acc : FVal) r =>
    if r.1 = 0 then acc else acc.add .rne ((ofSigned r.1 w.2 false).mul (fp32.value r.2))) (.fin false 0 1)
  match v with
  | .nan => Config.special 0x200 (toWord (p.z.getD 0 0)) (p.z.getD 1 0) % 2 ^ 32
  | v => fp32.round .rne v

/-- One pattern is below another. -/
def depthBelow (a b : Nat) : Bool := (fp32.value a).cmp (fp32.value b) = some (-1)

/-- A covered sample: primitive index, depth, weights. -/
structure Hit where
  idx : Nat
  depth : Nat
  w : List Int × Nat
  objid : Nat
  deriving DecidableEq, Repr

/-- The winner at a pixel (R286). -/
def winner (ps : List Prim) (px py : Nat) : Option Hit :=
  ps.zipIdx.foldl (fun (best : Option Hit) q =>
    match q.1.cover (256 * px + 128) (256 * py + 128) with
    | none => best
    | some w =>
      let h : Hit := ⟨q.2, q.1.depth w, w, q.1.objid⟩
      match best with
      | some b => if depthBelow h.depth b.depth then some h else some b
      | none => some h) none

/-- The packet of a fragment (R286). -/
def fragPacket (b : Batch) (batch core launch px py col row : Nat) (h : Hit) : Packet :=
  let wt (k : Nat) : Nat := fp32.round .rne (ofSigned (h.w.1.getD k 0) h.w.2 false)
  { bytes := leBytes 8 b.frag ++ ([px % 2 ^ 16 + py % 2 ^ 16 * 2 ^ 16, h.objid, h.depth, wt 1, wt 2, h.idx, col % 2 ^ 16 + row * 2 ^ 16,
      batch] ++ List.replicate 6 0).flatMap (leBytes 4)
    launch := launch, frag := some (core, col, row) }

/-- The open tile of a slice. -/
def Raster.tile? (r : Raster) (col row : Nat) : Option GuideTile := r.tiles.find? fun t => decide (t.col = col ∧ t.row = row)
/-- An open tile replaced. -/
def Raster.putTile (r : Raster) (t : GuideTile) : Raster :=
  { r with tiles := r.tiles.map fun u => if u.col = t.col ∧ u.row = t.row then t else u }

/-- One pixel of a tile binned (R286): the tile opens at its first covered pixel; a winner below the stored depth spawns. -/
def Raster.pixel (r : Raster) (b : Batch) (ps : List Prim) (core launch col row k : Nat) : Raster :=
  let px := 8 * col + k % 8
  let py := 8 * row + k / 8
  match winner ps px py with
  | none => r
  | some h =>
    let r := if (r.tile? col row).isSome then r else { r with tiles := r.tiles ++ [⟨col, row, [], 0, 0, 0⟩] }
    match r.tile? col row with
    | none => r
    | some t =>
      if depthBelow h.depth (Table.get (0x7F800000 : Word) t.depth k).toNat then
        let r := r.putTile { t with
          depth := Table.put t.depth k (toWord h.depth), mask := t.mask ||| ((1 : BitVec 64) <<< k), frags := t.frags + 1, live := t.live + 1 }
        { r with pend := r.pend ++ [fragPacket b r.batches core launch px py col row h] }
      else r

/-- A whole batch binned: tiles in row-major order and pixels in row-major order within each. -/
def Raster.bin (r : Raster) (b : Batch) (ps : List Prim) (core launch : Nat) : Raster :=
  (List.range b.rows).foldl (fun r j => (List.range b.cols).foldl (fun r i => (List.range 64).foldl (fun r k =>
    r.pixel b ps core launch (b.tx + i) (b.ty + j) k) r) r) { r with batches := r.batches + 1 }

/-- The primitives of a batch; none when one is invalid. -/
def primsOf (n : Nat) (bs : List Byte) : Option (List Prim) := (chunks 48 n bs).mapM primOf

/-- Waiting fragments are pushed while the deque has room. -/
def State.pushFrags (s : State) (core : Nat) : Nat → State
  | 0 => s
  | n + 1 =>
    match (s.core core).raster.pend with
    | [] => s
    | p :: ps =>
      if s.dequeFull core then s
      else
        let s := s.modCore core fun c => { c with deque := p :: c.deque, raster := { c.raster with pend := ps } }
        State.pushFrags (s.breakIdle (dieOf core)) core n

/-- A batch runs: its records are read and checked, it is binned, and its fragments are pushed (R285, R286). -/
def State.runBatch (s : State) (core : Nat) (c : EngCmd) (q : Runner) : Out :=
  let a := (pair (c.w1 0) (c.w1 1)).toNat
  if a % 64 ≠ 0 then .next (s.renderFault c a)
  else match s.renderRead q a 64 with
    | (s, .error w) => s.renderStop c a w
    | (s, .ok hd) =>
      match batchOf hd with
      | none => .next (s.renderFault c a)
      | some b =>
        match s.renderRead q b.prims (48 * b.nprim) with
        | (s, .error w) => s.renderStop c a w
        | (s, .ok bs) =>
          match primsOf b.nprim bs with
          | none => .next (s.renderFault c a)
          | some ps =>
            let r := (s.core core).raster.bin b ps core c.launch
            if 256 < r.tiles.length then .next (s.renderFault c a)
            else
              let s := s.modLaunch c.launch fun l => { l with tasksOpen := l.tasksOpen + r.pend.length }
              .next ((s.modCore core fun x => { x with raster := r }).pushFrags core r.pend.length)

/-- RASTER_BATCH: the slice pushes the fragments that wait, or takes the next batch from the head of the engine queue (R285, R286). -/
def execRasterBatch (core : Nat) (s : State) : Out :=
  if (s.core core).raster.pend ≠ [] then .next (s.pushFrags core (s.core core).raster.pend.length)
  else match s.engineHead core with
    | some c =>
      match c.instr, s.runner c with
      | .rast _ _, some q => if s.mayStart c ∧ s.storesOut core c then (s.popEngine core).runBatch core c q else .next s
      | _, _ => .next s
    | none => .next s

/-! ## RTILE (R287) -/

/-- A render command leaves the engine queue with its reply entries reserved (R249). -/
def State.leaveRender (s : State) (core : Nat) (c : EngCmd) : State :=
  ((s.popEngine core).reserve c 1).modCore core fun x => { x with rays := x.rays ++ [c] }

/-- The k-th render command in flight has ended. -/
def State.dropRay (s : State) (core k : Nat) : State := s.modCore core fun x => { x with rays := dropAt x.rays k }

/-- The tile that an RTILE names. -/
def EngCmd.tileName (c : EngCmd) : Nat × Nat := ((c.w1 0).toNat % 2 ^ 16, (c.w1 0).toNat / 2 ^ 16)

/-- The answer of an RTILE: zeros for a tile that is not open. -/
def tileAnswer (c : EngCmd) (t : Option GuideTile) : BitVec 128 :=
  match t with
  | some t => BitVec.ofNat 128 (t.mask.toNat + (c.w1 0).toNat * 2 ^ 64 + t.frags % 2 ^ 32 * 2 ^ 96)
  | none => 0

/-- RTILE_COMPLETE: an RTILE leaves the engine queue, or the k-th command in flight, an RTILE whose tile is binned and whose fragment
tasks have exited, answers and closes its tile (R287). -/
def execRtileComplete (core : Nat) (act : EngineAct) (s : State) : Out :=
  match act with
  | .leave =>
    match s.engineHead core with
    | some c =>
      match c.instr with
      | .rtile _ _ => if s.mayStart c ∧ s.replyRoom c then .next (s.leaveRender core c) else .next s
      | _ => .next s
    | none => .next s
  | .finish k =>
    match (s.core core).rays[k]? with
    | some c =>
      match c.instr with
      | .rtile _ _ =>
        let r := (s.core core).raster
        let n := c.tileName
        let t := r.tile? n.1 n.2
        if r.pend = [] ∧ (t.map fun t => t.live).getD 0 = 0 ∧ s.replyTurn core c then
          let s := s.modCore core fun x => { x with raster := { r with tiles := r.tiles.filter fun u => !(decide (u.col = n.1 ∧ u.row = n.2)) } }
          .next ((s.dropRay core k).answer c fun _ => tileAnswer c t)
        else .next s
      | _ => .next s
    | none => .next s

/-! ## RAYQ (R288, R289) -/

/-- A finite FP32 pattern as an integer of units of 2^-149. -/
def fxInt (x : Nat) : Int :=
  match fp32.value x with
  | .fin n a d => signedNum n (a * 2 ^ 149 / d)
  | _ => 0
/-- A pattern is finite, or infinite. -/
def isFin (x : Nat) : Bool :=
  match fp32.value x with
  | .fin .. => true
  | _ => false
@[inherit_doc isFin] def isInf (x : Nat) : Bool :=
  match fp32.value x with
  | .inf _ => true
  | _ => false

/-- A point or direction. -/
structure V3 where
  x : Int
  y : Int
  z : Int
  deriving DecidableEq, Repr

/-- Three patterns as a vector. -/
def v3 (l : List Nat) : V3 := ⟨fxInt (l.getD 0 0), fxInt (l.getD 1 0), fxInt (l.getD 2 0)⟩
/-- Difference, product and cross product. -/
def V3.sub (a b : V3) : V3 := ⟨a.x - b.x, a.y - b.y, a.z - b.z⟩
@[inherit_doc V3.sub] def V3.dot (a b : V3) : Int := a.x * b.x + a.y * b.y + a.z * b.z
@[inherit_doc V3.sub] def V3.cross (a b : V3) : V3 := ⟨a.y * b.z - a.z * b.y, a.z * b.x - a.x * b.z, a.x * b.y - a.y * b.x⟩

/-- A ray: origin, direction, tmin and tmax as patterns. -/
structure Ray where
  o : List Nat
  d : List Nat
  lo : Nat
  hi : Nat
  deriving DecidableEq, Repr

/-- The ray in 32 bytes (R288). -/
def rayOf (bs : List Byte) : Ray :=
  let f (k : Nat) := field bs (4 * k) 4
  ⟨[f 0, f 1, f 2], [f 4, f 5, f 6], f 3, f 7⟩

/-- A NaN, or a direction of zero: the ray hits nothing (R289). -/
def Ray.void (r : Ray) : Bool := ((r.lo :: r.hi :: r.o ++ r.d).any fun x => (fp32.value x).isNan) || r.d.all fun x => isFin x && fxInt x = 0
/-- An infinite origin or direction, for which no exact intersection is stated (log entry 34). -/
def Ray.open' (r : Ray) : Bool := (r.o ++ r.d).any isInf

/-- num/den, den positive, is at or above a bound, or at or below it; the bound is a pattern and may be infinite. -/
def atLeast (num den : Int) (b : Nat) : Bool :=
  match fp32.value b with
  | .inf n => n
  | _ => decide (fxInt b * den ≤ num * 2 ^ 149)
@[inherit_doc atLeast] def atMost (num den : Int) (b : Nat) : Bool :=
  match fp32.value b with
  | .inf n => !n
  | _ => decide (num * 2 ^ 149 ≤ fxInt b * den)

/-- A bound of a slab interval: a quotient with positive denominator. -/
abbrev Quot := Int × Int

/-- One quotient is at or below another. -/
def quotLe (a b : Quot) : Bool := decide (a.1 * b.2 ≤ b.1 * a.2)

/-- The interval of t inside one slab: bounds absent where infinite; none when the ray misses it. -/
def slab (o d : Int) (lo hi : Nat) : Option (Option Quot × Option Quot) :=
  let q (b : Nat) : Option Quot := if isInf b then none else
    some (if 0 < d then (fxInt b - o, d) else (o - fxInt b, -d))
  let neg (b : Nat) := (fp32.value b).neg?
  if (isInf lo && !neg lo) || (isInf hi && neg hi) then none
  else if d = 0 then
    (if (isInf lo || decide (fxInt lo ≤ o)) && (isInf hi || decide (o ≤ fxInt hi)) then some (none, none) else none)
  else if 0 < d then some (q lo, q hi) else some (q hi, q lo)

/-- The ray enters a box within tmin and tmax (R289; log entry 34). -/
def Ray.enters (r : Ray) (box : List Nat) : Bool :=
  if box.any fun x => (fp32.value x).isNan then false
  else
    let o := v3 r.o
    let d := v3 r.d
    let g (k : Nat) := box.getD k 0
    match slab o.x d.x (g 0) (g 3), slab o.y d.y (g 1) (g 4), slab o.z d.z (g 2) (g 5) with
    | some a, some b, some c =>
      let fin (x : Nat) : Option Quot := if isInf x then none else some (fxInt x, 2 ^ 149)
      let los := [a.1, b.1, c.1, fin r.lo].filterMap id
      let his := [a.2, b.2, c.2, fin r.hi].filterMap id
      (los.all fun l => his.all fun h => quotLe l h) && !(isInf r.lo && !(fp32.value r.lo).neg?) && !(isInf r.hi && (fp32.value r.hi).neg?)
    | _, _, _ => false

/-- A hit: t, u and v over a common positive denominator, and the primitive index. -/
structure RayHit where
  t : Int
  u : Int
  v : Int
  den : Int
  idx : Nat
  deriving DecidableEq, Repr

/-- The intersection of a ray with a triangle (R289). -/
def Ray.meet (r : Ray) (tri : List Nat) (idx : Nat) : Option RayHit :=
  if tri.any fun x => !isFin x then none
  else
    let a := v3 tri
    let e1 := (v3 (tri.drop 3)).sub a
    let e2 := (v3 (tri.drop 6)).sub a
    let d := v3 r.d
    let p := d.cross e2
    let det := e1.dot p
    let sg := Int.sign det
    let w := (v3 r.o).sub a
    let q := w.cross e1
    let h : RayHit := ⟨sg * e2.dot q, sg * w.dot p, sg * d.dot q, sg * det, idx⟩
    if det = 0 then none
    else if 0 ≤ h.u ∧ 0 ≤ h.v ∧ h.u + h.v ≤ h.den ∧ atLeast h.t h.den r.lo ∧ atMost h.t h.den r.hi then some h else none

/-- The better of two hits: least t, then least index. -/
def RayHit.better (a b : RayHit) : Bool :=
  decide (a.t * b.den < b.t * a.den ∨ (a.t * b.den = b.t * a.den ∧ a.idx < b.idx))

/-- What a traversal has found: the best hit, and whether a triangle had no stated intersection. -/
abbrev Found := Option RayHit × Bool

/-- A hit taken into what has been found. -/
def takeHit (f : Found) (h : Option RayHit) : Found :=
  match h, f.1 with
  | some h, some b => (if h.better b then some h else some b, f.2)
  | some h, none => (some h, f.2)
  | none, _ => f

/-- A failed traversal: the node's address, and why. -/
abbrev NodeStop := Nat × EngStop

/-- A leaf's triangles against a ray (R288). -/
def leafHits (r : Ray) (n : Nat) (bs : List Byte) (f : Found) : Option Found :=
  (chunks 48 n bs).foldl (fun (acc : Option Found) t => acc.bind fun f =>
    if (t.drop 40).any (· ≠ 0) then none
    else
      let v := (List.range 9).map fun k => field t (4 * k) 4
      some (takeHit (if v.any isInf ∧ !(v.any fun x => (fp32.value x).isNan) then (f.1, true) else f) (r.meet v (field t 36 4)))) (some f)

/-- The address in a reference, and whether its reserved bits are zero. -/
def refAddr (r : Nat) : Nat := r % 2 ^ 52 / 64 * 64
@[inherit_doc refAddr] def refOk (r : Nat) : Bool :=
  decide (r / 2 ^ 52 % 2 ^ 11 = 0) && (r.testBit 63 || decide (r % 64 = 0))

/-- Traversal from a node, at most `fuel` nodes deep (R288, R289). -/
def State.traverse (s : State) (q : Runner) (r : Ray) : Nat → Nat → Found → State × Except NodeStop Found
  | 0, a, _ => (s, .error (a, .check ⟨0, 0, 0, 0⟩))
  | fuel + 1, a, f =>
    match s.renderRead q a 64 with
    | (s, .error w) => (s, .error (a, w))
    | (s, .ok bs) =>
      let child (s : State) (k : Nat) (f : Found) : State × Except NodeStop Found :=
        let ref := field bs (48 + 8 * k) 8
        let box := (List.range 6).map fun i => field bs (24 * k + 4 * i) 4
        if ref = 0 then (s, .ok f)
        else if !refOk ref then (s, .error (a, .check ⟨0, 0, 0, 0⟩))
        else if !r.enters box then (s, .ok f)
        else if !ref.testBit 63 then State.traverse s q r fuel (refAddr ref) f
        else
          let n := ref % 64 + 1
          match s.renderRead q (refAddr ref) (48 * n) with
          | (s, .error w) => (s, .error (refAddr ref, w))
          | (s, .ok ts) =>
            match leafHits r n ts f with
            | some f => (s, .ok f)
            | none => (s, .error (refAddr ref, .check ⟨0, 0, 0, 0⟩))
      match child s 0 f with
      | (s, .error e) => (s, .error e)
      | (s, .ok f) => child s 1 f

/-- The reply of a lane (R288): a miss, a hit, or free values where no intersection is stated. -/
def rayReply (step lane : Nat) (r : Ray) (f : Found) : BitVec 128 :=
  if (r.open' && !r.void) || f.2 then
    Config.freeWord step (4 * lane + 3) ++ Config.freeWord step (4 * lane + 2) ++ Config.freeWord step (4 * lane + 1) ++
      Config.freeWord step (4 * lane)
  else match f.1 with
    | some h =>
      let w (n : Int) : Nat := fp32.round .rne (ofSigned n h.den.toNat false)
      BitVec.ofNat 128 (w h.t + h.idx * 2 ^ 32 + w h.u * 2 ^ 64 + w h.v * 2 ^ 96)
    | none => BitVec.ofNat 128 (0x7F800000 + 0xFFFFFFFF * 2 ^ 32)

/-- The rays of a list of lanes traversed one after another. -/
def State.rayLanes (s : State) (q : Runner) (root : Nat) (rays : List Byte) : List Nat → State × Except NodeStop (List (Nat × BitVec 128))
  | [] => (s, .ok [])
  | l :: ls =>
    let r := rayOf (rays.drop (32 * l))
    let go := if r.void ∨ r.open' then (s, .ok (none, false)) else s.traverse q r 64 root (none, false)
    match go with
    | (s, .error e) => (s, .error e)
    | (s, .ok f) =>
      match State.rayLanes s q root rays ls with
      | (s, .error e) => (s, .error e)
      | (s, .ok rs) => (s, .ok ((l, rayReply s.steps l r f) :: rs))

/-- The ray array of a RAYQ, when it lies in the block's allocation (R288, R289). -/
def State.rayArray (s : State) (c : EngCmd) (x : Block) : Option (List Byte) :=
  let off := (c.q2.getD 0 0).toNat
  let top := ((lanesOf c.lanes).foldl max 0 + 1) * 32
  if off % 32 = 0 ∧ off + top ≤ x.var.scratch then some (s.bytes (windowPa x.core (x.base + off)) top) else none

/-- The first error in a ray array (R265). -/
def State.rayError (s : State) (c : EngCmd) (x : Block) : Option BadData :=
  s.badData (windowPa x.core (x.base + (c.q2.getD 0 0).toNat)) (((lanesOf c.lanes).foldl max 0 + 1) * 32) 0 none

/-- A RAYQ leaves the engine queue with its rays (R288). -/
def State.leaveRayq (s : State) (core : Nat) (c : EngCmd) (x : Block) : State :=
  let root := (pair (c.w1 0) (c.w1 1)).toNat
  match s.rayArray c x, s.rayError c x, c.owner with
  | some bs, none, _ => if root % 64 = 0 then s.leaveRender core { c with packet := bs } else (s.popEngine core).renderFault c root
  | some _, some d, .block b w => ((s.popEngine core).errorFound d).badFault b w d
  | _, _, _ => (s.popEngine core).renderFault c root

/-- A RAYQ in flight is answered in every lane, or faults (R288, R289). -/
def State.finishRayq (s : State) (core k : Nat) (c : EngCmd) (q : Runner) : Out :=
  match s.rayLanes q (pair (c.w1 0) (c.w1 1)).toNat c.packet (lanesOf c.lanes) with
  | (s, .error (a, w)) => ((s.dropRay core k).reserve c (-1)).renderStop c a w
  | (s, .ok rs) => .next ((s.dropRay core k).answer c fun l => ((rs.find? fun r => r.1 = l).map Prod.snd).getD 0)

/-- RAYQ_COMPLETE: a RAYQ leaves the engine queue, or the k-th command in flight is one that ends (R288 to R290). -/
def execRayqComplete (core : Nat) (act : EngineAct) (s : State) : Out :=
  match act with
  | .leave =>
    match s.engineHead core with
    | some c =>
      match c.instr, s.runner c with
      | .rayq _ _, some ⟨_, _, some x⟩ => if s.mayStart c ∧ s.storesOut core c ∧ s.replyRoom c then .next (s.leaveRayq core c x) else .next s
      | _, _ => .next s
    | none => .next s
  | .finish k =>
    match (s.core core).rays[k]? with
    | some c =>
      match c.instr, s.runner c with
      | .rayq _ _, some q => if s.replyTurn core c then s.finishRayq core k c q else .next s
      | _, _ => .next s
    | none => .next s

end Sys2Proof.Machine
end

