-- ==== Sys2Proof/Machine/Tiles.lean ====
section
/-! DEFINITION. The data of the matrix engine: tile registers and their elements (R294 to R297), format slots (R58 to R60), exact
products and the accumulation window (R35 to R40), and readout (R42). -/

namespace Sys2Proof.Machine

/-! ## Tiles -/

/-- The floating-point format of a code. -/
def codeFmt (c : Nat) : Fmt :=
  convFmt (if c = 2 then 0 else if c = 3 then 1 else if c = 4 then 2 else if codeMx c then c - 7 else c - 2)

/-- Byte n of tile t. -/
def Matrix.byte (m : Matrix) (t n : Nat) : Byte := Table.get 0 m.tile (65536 * t + n)
/-- Bytes of tile t replaced from byte n on. -/
def Matrix.putBytes (m : Matrix) (t n : Nat) (bs : List Byte) : Matrix :=
  { m with tile := Sys2Proof.Machine.putBytes m.tile (65536 * t + n) bs }
/-- n bytes of tile t. -/
def Matrix.bytes (m : Matrix) (t lo n : Nat) : List Byte := (List.range n).map fun i => m.byte t (lo + i)
/-- Element (i, j) of tile t read with a shape (R294). -/
def Matrix.elem (m : Matrix) (t : Nat) (sh : Word) (i j : Nat) : Nat :=
  let b := codeBits (tshCode sh)
  let at' := i * tshRb sh + j * b / 8
  ofLe (m.bytes t at' ((j * b % 8 + b + 7) / 8)) / 2 ^ (j * b % 8) % 2 ^ b
/-- Element (i, j) of tile t written. -/
def Matrix.setElem (m : Matrix) (t : Nat) (sh : Word) (i j v : Nat) : Matrix :=
  let b := codeBits (tshCode sh)
  let at' := i * tshRb sh + j * b / 8
  let n := (j * b % 8 + b + 7) / 8
  let old := ofLe (m.bytes t at' n)
  let k := j * b % 8
  m.putBytes t at' (leBytes n (old % 2 ^ k + v % 2 ^ b * 2 ^ k + old / 2 ^ (k + b) * 2 ^ (k + b)))
/-- The scale byte of element (i, k) of an MX tile (R294). -/
def Matrix.scale (m : Matrix) (t : Nat) (sh : Word) (i k : Nat) : Nat :=
  (m.byte t (i * tshRb sh + tshCols sh * codeBits (tshCode sh) / 8 + k / 32)).toNat
/-- Every element of a shape written: the places of all rows and columns. -/
def Matrix.setAll (m : Matrix) (t : Nat) (sh : Word) (f : Nat → Nat → Option Nat) : Matrix :=
  (List.range (tshRows sh)).foldl (fun m i => (List.range (tshCols sh)).foldl (fun m j =>
    match f i j with
    | some v => m.setElem t sh i j v
    | none => m) m) m
/-- Row exponent i of tile t. -/
def Matrix.rexp (m : Matrix) (t i : Nat) : Byte := Table.get 0 m.rowExp (128 * t + i)
/-- Row exponent i of tile t set. -/
def Matrix.setRexp (m : Matrix) (t i : Nat) (v : Byte) : Matrix := { m with rowExp := Table.set 0 m.rowExp (128 * t + i) v }
/-- Every row exponent of tile t zero (R297). -/
def Matrix.clearRexp (m : Matrix) (t : Nat) : Matrix := { m with rowExp := Table.clear (128 * t) (128 * t + 128) m.rowExp }
/-- The row exponents of tile t copied to tile d. -/
def Matrix.copyRexp (m : Matrix) (d t : Nat) : Matrix :=
  (List.range 128).foldl (fun x i => x.setRexp d i (m.rexp t i)) m
/-- The shape word of tile t. -/
def Matrix.shape (m : Matrix) (t : Nat) : Word := Table.get 0 m.tsh t

/-! ## Format slots (R58 to R60) -/

/-- ACODE, BCODE and DCODE. -/
def slotA (w : Word) : Nat := w.toNat % 32
@[inherit_doc slotA] def slotB (w : Word) : Nat := w.toNat / 2 ^ 5 % 32
@[inherit_doc slotA] def slotD (w : Word) : Nat := w.toNat / 2 ^ 10 % 32
/-- SRND. -/
def slotSrnd (w : Word) : Bool := w.getLsbD 15

/-- The group of an operand code (R60), 0 for none. -/
def codeGroup (c : Nat) : Nat := if c = 0 then 1 else if c = 4 then 2 else if c = 0xF then 3 else if 5 ≤ c ∧ c ≤ 0xE then 4 else 0

/-- The slot is valid. -/
def slotOk (w : Word) : Bool :=
  decide (w.toNat < 2 ^ 16 ∧ codeGroup (slotA w) ≠ 0 ∧ codeGroup (slotA w) = codeGroup (slotB w) ∧ (slotD w ≤ 9 ∨ slotD w = 0xF))

/-! ## Products (R35, R36) -/

/-- The real part, and the imaginary part, of an element of a code; the scale of an MX element. -/
def partValue (c : Nat) (imag : Bool) (x scale : Nat) : FVal :=
  if c = 0 then ofSigned (sext 8 x) 1 false
  else if c = 0xF then ofSigned (sext 16 (if imag then x / 2 ^ 16 else x)) (2 ^ 15) false
  else if codeMx c then (if scale = 0xFF then .nan else ((codeFmt c).value x).scale ((scale : Int) - 127))
  else (codeFmt c).value x

/-- A part of element (i, k) of tile t. -/
def Matrix.part (m : Matrix) (t : Nat) (sh : Word) (imag : Bool) (i k : Nat) : FVal :=
  partValue (tshCode sh) imag (m.elem t sh i k) (if codeMx (tshCode sh) then m.scale t sh i k else 0)

/-- Entry n of latch e. -/
def Matrix.latchAt (m : Matrix) (e n : Nat) : Nat := (Table.get 0x7F m.latch (128 * e + n)).toNat

/-- A product scaled by the edge latches of a bank (R303). -/
def Matrix.edge (m : Matrix) (eb i j : Nat) (p : FVal) : FVal :=
  if eb = 0 then p
  else
    let l := m.latchAt (2 * (eb - 1)) i
    let t := m.latchAt (2 * (eb - 1) + 1) j
    if l = 0xFF ∨ t = 0xFF then .nan else p.scale ((l : Int) - 127 + t - 127)

/-! ## The window (R37, R38) -/

/-- The limit of W, and the mark of a NaN cell. -/
def wMax : Int := 2 ^ 55 - 1
/-- A NaN cell. -/
def wNan : Int := -(2 ^ 55)

/-- acc (R38): the new W, and whether the add saturated. For an infinite product of the opposite sign on a saturated cell R38's text and its
pseudocode differ; the model takes the pseudocode, which leaves 0 (log entry 74). -/
def accW (f : Int) (w : Int) (p : FVal) : Int × Bool :=
  if w = wNan then (w, false)
  else
    let add (c : Int) := (sat (w + c) (-wMax) wMax, decide (wMax < w + c ∨ w + c < -wMax))
    match p with
    | .nan => (wNan, false)
    | .inf n => add (if n then -wMax else wMax)
    | .fin n a d =>
      let s := scaled 1 (-f)
      add (signedNum n (a * s.1) / (d * s.2 : Nat))

/-- W of cell (i, j) of plane p. -/
def Matrix.w (m : Matrix) (p i j : Nat) : Int := Table.get 0 m.cell (16384 * p + 128 * i + j)
/-- W of a cell set. -/
def Matrix.setW (m : Matrix) (p i j : Nat) (v : Int) : Matrix := { m with cell := Table.set 0 m.cell (16384 * p + 128 * i + j) v }
/-- An unspecified W number k of a step (R6). -/
def freeCell (step k : Nat) : Int := sext 56 ((Config.freeWord step (2 * k)).toNat * 2 ^ 32 + (Config.freeWord step (2 * k + 1)).toNat)
/-- The word of plane p. -/
def Matrix.planeW (m : Matrix) (p : Nat) : Word := Table.get 0 m.plane p
/-- The word of plane p set. -/
def Matrix.setPlaneW (m : Matrix) (p : Nat) (v : Word) : Matrix := { m with plane := Table.set 0 m.plane p v }

/-- Products added to a cell in their order, under a floor exponent; SAT is set by an add that saturates (R38, R39). -/
def Matrix.accumulate (m : Matrix) (f : Int) (p i j : Nat) (ps : List FVal) : Matrix :=
  let r := ps.foldl (fun (a : Int × Bool) q => let b := accW f a.1 q; (b.1, a.2 || b.2)) (m.w p i j, false)
  let m := m.setW p i j r.1
  if r.2 then m.setPlaneW p (m.planeW p ||| 0x200) else m

/-- Cells of a region cleared. -/
def Matrix.clearCells (m : Matrix) (p rows cols : Nat) : Matrix :=
  (List.range rows).foldl (fun m i => (List.range cols).foldl (fun m j => m.setW p i j 0) m) m

/-- The products of elements k of A and B that enter the cells of a command, per plane offset (R308, R309). a and b give the parts
of an element. -/
def productsAt (complex : Bool) (a b : Bool → FVal) : List (Nat × FVal) :=
  if complex then
    [(0, (a false).mul (b false)), (0, ((a true).mul (b true)).negate), (1, (a false).mul (b true)), (1, (a true).mul (b false))]
  else [(0, (a false).mul (b false))]

/-- K indices lo to hi - 1 of a multiplication into plane p: the floor exponents, rows of A and of B, their parts, the latch bank (R308). -/
def Matrix.multiply (m : Matrix) (f : Nat → Int) (p rows cols eb : Nat) (complex : Bool) (a b : Bool → Nat → Nat → FVal) (lo hi : Nat) : Matrix :=
  (List.range rows).foldl (fun m i => (List.range cols).foldl (fun m j =>
    let ps := (List.range (hi - lo)).flatMap fun k => productsAt complex (fun im => a im i (lo + k)) (fun im => b im j (lo + k))
    let plane (q : Nat) := ps.filterMap fun r => if r.1 = q then some (m.edge eb i j r.2) else none
    let m' := m.accumulate (f p) p i j (plane 0)
    if complex then m'.accumulate (f (p + 1)) (p + 1) i j (plane 1) else m') m) m

/-! ## Readout (R42) -/

/-- W × 2^F. -/
def cellValue (f w : Int) : FVal :=
  let s := scaled 1 f
  ofSigned (w * s.1) s.2 false

/-- A value rounded to an integer of n signed bits after scaling by 2^k; 0 for a NaN cell. -/
def readInt (n k : Nat) (md : Mode) (f w : Int) : Nat :=
  if w = wNan then 0
  else match (cellValue f w).scale k with
    | .fin neg a d => trunc n (sat (roundInt md neg a d) (-(2 ^ (n - 1))) (2 ^ (n - 1) - 1))
    | _ => 0

/-- A cell converted to a code other than Q1.15. -/
def readCell (c : Nat) (md : Mode) (f w : Int) : Nat :=
  if c = 0 then readInt 8 0 md f w
  else if c = 1 then readInt 32 0 md f w
  else if w = wNan then (codeFmt c).nan.getD 0
  else (codeFmt c).round md (cellValue f w)

end Sys2Proof.Machine
end

