-- ==== Sys2Proof/Machine/Matrix.lean ====
section
/-! DEFINITION. The matrix commands at issue: ownership, checks and what they take with them (R296 to R324), and TSCL (R304). -/

namespace Sys2Proof.Machine

/-! ## Registers of the engine -/

/-- The write of a matrix register whose value is checked. -/
def mtsTo (o : FmtY) (v : Word) : Act := .eff [.setSr o.sr.toNat (wide v)]

/-- MTS to TSH, R296: the reserved bits 11:5 are dropped. -/
def execMtsTsh (h : Hdr) (o : FmtY) (s : State) : Out :=
  mtsSyl h o s fun _ v =>
    let v := v &&& 0xFFFFF01F
    if tshOk v then mtsTo o v else failVal 1 0x14 ((o.sr.toNat - 0x020) * 256)

/-- MTS to PLANE, R298: one that sets SAT under TRAP raises ACCUMULATOR_SATURATED (R40). -/
def execMtsPlane (h : Hdr) (o : FmtY) (s : State) : Out :=
  mtsSyl h o s fun e v =>
    let v := v &&& 0x000707FF
    let p := o.sr.toNat - 0x030
    let old := (e.x.mtx.map fun m => m.planeW p).getD 0
    if -160 ≤ planeFloor v ∧ planeFloor v ≤ 127 ∧ v.toNat / 2 ^ 16 < 4 then
      .eff (.setSr o.sr.toNat (wide v) :: if !old.getLsbD 9 && v.getLsbD 9 && v.getLsbD 10 then [.saturated p] else [])
    else mtsBad o

/-- MTS to SPLIT, R299. -/
def execMtsSplit (h : Hdr) (o : FmtY) (s : State) : Out :=
  mtsSyl h o s fun _ v =>
    let v := v &&& 0xF
    if v.toNat % 4 = 3 ∨ v.toNat / 4 = 3 then mtsBad o else mtsTo o v

/-- TSCL, R304: once, as a load of the wave reads. -/
def execTscl (h : Hdr) (o : FmtM) (s : State) : Out :=
  mSyl h s fun e _ =>
    let off : Int := (e.src o.b 0).toNat + offOf o
    ([],
      if !e.x.owner then failVal 0 0x15 0x38
      else if e.rawInSpan 1 128 (off, 0) then .hold
      else match (e.s.address e.x 1 off 0 128 128 .load).2 with
        | .error f => failAddr f none
        | .ok t =>
          if e.atomicAhead 128 ⟨none, 1, off, t⟩ then .hold else .eff [.tscl (o.d.toNat % 4) (e.readBytes e.s false t.pa 128)])

/-! ## Issue -/

/-- A matrix command at issue: converged (R300), of an owner (R302), then its own checks. -/
def mtxSyl (op : Nat) (h : Hdr) (s : State) (f : Env → Matrix → List Nat × Act) : Out :=
  xSyl h s fun e =>
    if !e.converged then ([], e.notConverged)
    else match e.x.mtx with
      | none => ([], failVal 0 0x15 op)
      | some m => f e m

/-- A matrix command that translates no address. -/
def mtxAct (op : Nat) (h : Hdr) (s : State) (f : Env → Matrix → Act) : Out := mtxSyl op h s fun e m => ([], f e m)

/-- TILE_SHAPE_INVALID. -/
def badShape (o : FmtE) : Act := failVal 0 0x14 (o.t1.toNat * 256 + o.t2.toNat * 16 + o.t3.toNat)

/-- FORMAT_SLOT_INVALID. -/
def badSlot (o : FmtE) : Act := failVal 0 0x16 o.fs.toNat

/-- The format slot word that a command names (R57). -/
def Env.slot (e : Env) (o : FmtE) : Word := (e.launch.bind fun l => l.fmt[o.fs.toNat]?).getD 0

/-- A command with what is read at issue: shapes, WIN, the slot word (R300), and the plane words as its bundle finds them (R121). -/
def Env.mtxCmd (e : Env) (i : Instr) (o : FmtE) (m : Matrix) (fmt : Word) : EngCmd :=
  { e.cmd i with
    tsh := [m.shape o.t1.toNat, m.shape o.t2.toNat, m.shape o.t3.toNat], fmt := fmt,
    win := (List.range 8).map fun k => Table.get 0 m.win k, planes := (List.range 4).map m.planeW }

/-- The command enters the engine queue and counts in TL. -/
def mtxEff (c : EngCmd) : List Eff := [.engine c (some .tl)]

/-! ## TLD and TST (R306) -/

/-- Pieces of a row translated one after another. -/
def State.reachAll (s : State) (q : Runner) (k : XKind) : List (Int × Nat) → State × Except XFault (List (Nat × Nat))
  | [] => (s, .ok [])
  | (off, n) :: r =>
    match s.reach q 0 0 off n k with
    | (s, .error f) => (s, .error f)
    | (s, .ok pa) =>
      match State.reachAll s q k r with
      | (s, .ok l) => (s, .ok ((pa, n) :: l))
      | (s, .error f) => (s, .error f)

/-- The physical pieces of one row: range, alignment, then translation of every byte. -/
def State.rowPlaces (s : State) (x : Block) (sp tile : Nat) (off : Int) (rb : Nat) (k : XKind) : State × Except XFault (List (Nat × Nat)) :=
  match s.address x sp off tile rb 16 k with
  | (s, .error f) => (s, .error f)
  | (s, .ok t) =>
    if sp ≠ 0 then (s, .ok [(t.pa, rb)])
    else match s.reachAll ⟨x.core, x.ctx, some x⟩ k (piecesOf [(off, rb)]) with
      | (s, .error f) => (s, .error { f with addr := BitVec.ofInt 64 off })
      | r => r

/-- The rows of a tile, the lowest first, until one fails, and the global addresses translated (R240). -/
def State.tileRows (s : State) (x : Block) (sp tile : Nat) (base pitch : Int) (rb : Nat) (k : XKind) :
    Nat → Nat → List Nat × Except XFault (List (List (Nat × Nat)))
  | 0, _ => ([], .ok [])
  | n + 1, i =>
    let off := base + i * pitch
    let seen := if sp = 0 ∧ 0 ≤ off ∧ off + rb ≤ 2 ^ 52 then (piecesOf [(off, rb)]).map fun r => r.1.toNat else []
    match s.rowPlaces x sp tile off rb k with
    | (_, .error f) => (seen, .error f)
    | (s, .ok p) =>
      let r := State.tileRows s x sp tile base pitch rb k n (i + 1)
      (seen ++ r.1, r.2.map fun l => p :: l)

/-- TLD or TST at issue. -/
def tileMem (i : Instr) (op : Nat) (k : XKind) (h : Hdr) (o : FmtE) (s : State) : Out :=
  mtxSyl op h s fun e m =>
    let sp := (o.f.extractLsb' 0 2).toNat
    let sh := m.shape o.t1.toNat
    let b := e.lead o.s1
    let at' : Int × Nat := if sp = 0 then ((e.lead64 o.s1).toNat, 0) else if sp = 1 then (b.toNat, 0) else (b.toNat % 2 ^ 24, b.toNat / 2 ^ 24)
    let pitch : Int := sext 32 (e.lead o.s2).toNat
    let r := e.bound.tileRows e.x sp at'.2 at'.1 pitch (tshRb sh) k (tshRows sh) 0
    (r.1, match r.2 with
      | .error f => failWith 0 f.cause f.addr f.dinfo none f.dval
      | .ok rows => .eff (mtxEff { e.mtxCmd i o m 0 with
          rows := rows, q1 := if sp = 0 then [loWord (e.lead64 o.s1), hiWord (e.lead64 o.s1)] else [b], q2 := [e.lead o.s2] }))

/-- TLD, R306. -/
def execTld (h : Hdr) (o : FmtE) (s : State) : Out := tileMem (.tld h o) 0x00 .load h o s
/-- TST, R306. -/
def execTst (h : Hdr) (o : FmtE) (s : State) : Out := tileMem (.tst h o) 0x01 .store h o s

/-! ## Arithmetic -/

/-- A Q1.15 command names plane a0 or a2 (R309, R311). -/
def evenPlane (p : Nat) : Bool := p = 0 || p = 2

/-- TMMA, R308, R309. -/
def execTmma (h : Hdr) (o : FmtE) (s : State) : Out :=
  mtxAct 0x02 h s fun e m =>
    let w := e.slot o
    let a := m.shape o.t2.toNat
    let b := m.shape o.t3.toNat
    if !slotOk w then badSlot o
    else if tshCode a ≠ slotA w ∨ tshCode b ≠ slotB w ∨ tshCols a ≠ tshCols b ∨ (slotA w = 0xF ∧ !evenPlane o.t1.toNat) then badShape o
    else .eff (mtxEff (e.mtxCmd (.tmma h o) o m w))

/-- TRND, R311, R312: a stochastic readout takes its steps at commit. -/
def execTrnd (h : Hdr) (o : FmtE) (s : State) : Out :=
  mtxAct 0x03 h s fun e m =>
    let w := e.slot o
    let sh := m.shape o.t1.toNat
    if !slotOk w then badSlot o
    else if tshCode sh ≠ slotD w ∨ 128 < tshCols sh ∨ (slotD w = 0xF ∧ !evenPlane o.t2.toNat) then badShape o
    else
      let c := e.mtxCmd (.trnd h o) o m w
      if slotSrnd w ∧ !e.s.dawn then
        .eff (mtxEff { c with seeds := (List.range 128).map e.rngOf } ++
          [.trndDraw (tshRows sh) (tshCols sh) (if slotD w = 0xF then 2 else 1)])
      else .eff (mtxEff c)

/-- TZERO of a plane, R313. -/
def execTzeroPlane (h : Hdr) (o : FmtE) (s : State) : Out :=
  mtxAct 0x04 h s fun e m => .eff (mtxEff (e.mtxCmd (.tzeroPlane h o) o m 0))
/-- TZERO of a tile, R313. -/
def execTzeroTile (h : Hdr) (o : FmtE) (s : State) : Out :=
  mtxAct 0x04 h s fun e m => .eff (mtxEff (e.mtxCmd (.tzeroTile h o) o m 0))

/-! ## TWIN (R314 to R316) -/

/-- The window-replay descriptor. -/
structure Win where
  ibase : Nat
  ih : Nat
  iw : Nat
  ipitch : Nat
  ch : Nat
  dy : Nat
  dx : Nat
  sy : Nat
  sx : Nat
  kh : Nat
  kw : Nat
  obase : Nat
  py : Nat
  px : Nat
  ow : Nat
  mw : Nat
  deriving DecidableEq, Repr

/-- The descriptor in the eight registers (R314). -/
def winOf (l : List Word) : Win :=
  let f (n lo k : Nat) := (l.getD n 0).toNat / 2 ^ lo % 2 ^ k
  { ibase := f 0 0 22, ih := f 1 16 16, iw := f 1 0 16, ipitch := f 2 0 22, ch := f 3 0 12, dy := f 4 28 4, dx := f 4 24 4,
    sy := f 4 20 4, sx := f 4 16 4, kh := f 4 8 8, kw := f 4 0 8, obase := f 5 0 32, py := f 6 24 8, px := f 6 16 8, ow := f 6 0 16,
    mw := f 7 0 8 }

/-- Every field is in its range (R314). -/
def Win.ok (d : Win) : Bool :=
  let r (v lo hi : Nat) := decide (lo ≤ v ∧ v ≤ hi)
  decide (d.ibase % 16 = 0 ∧ d.ipitch % 16 = 0) && r d.ih 1 4096 && r d.iw 1 4096 && r d.ch 1 4095 && r d.dy 1 15 && r d.dx 1 15 &&
    r d.sy 1 15 && r d.sx 1 15 && r d.kh 1 16 && r d.kw 1 16 && r d.ow 1 65535 && r d.mw 1 128

/-- TWIN, R315, R316. -/
def execTwin (h : Hdr) (o : FmtE) (s : State) : Out :=
  mtxAct 0x05 h s fun e m =>
    let w := e.slot o
    let b := m.shape o.t2.toNat
    let c := e.mtxCmd (.twin h o) o m w
    let d := winOf c.win
    let top := d.ibase + (d.ih - 1) * d.ipitch + d.iw * d.ch * (codeBits (slotA w) / 8)
    if !slotOk w ∨ (slotA w ≠ 0 ∧ slotA w ≠ 4 ∧ slotA w ≠ 5 ∧ slotA w ≠ 6) then badSlot o
    else if !d.ok ∨ tshCode b ≠ slotB w ∨ tshCols b ≠ d.kh * d.kw * d.ch then badShape o
    else if e.x.var.scratch < top then failWith 0 0x0F (BitVec.ofNat 64 d.ibase) 0 none (top - d.ibase)
    else .eff (mtxEff c)

/-! ## Moves -/

/-- TTRN, R317. -/
def execTtrn (h : Hdr) (o : FmtE) (s : State) : Out :=
  mtxAct 0x09 h s fun e m =>
    let a := m.shape o.t1.toNat
    let b := m.shape o.t2.toNat
    if codeMx (tshCode b) ∨ tshCode a ≠ tshCode b ∨ tshRows a ≠ tshCols b ∨ tshCols a ≠ tshRows b then badShape o
    else .eff (mtxEff (e.mtxCmd (.ttrn h o) o m 0))

/-- TMERGE, R319. -/
def execTmerge (h : Hdr) (o : FmtE) (s : State) : Out :=
  mtxAct 0x0B h s fun e m =>
    let a := m.shape o.t1.toNat
    let b := m.shape o.t2.toNat
    let c := m.shape o.t3.toNat
    if tshShape a ≠ tshShape b ∨ codeMx (tshCode a) ∨ tshCode c ≠ 0 ∨ tshRows c ≠ tshRows a ∨ tshCols c ≠ tshCols a then badShape o
    else .eff (mtxEff (e.mtxCmd (.tmerge h o) o m 0))

/-- TMOVV in a data form: its row and chunk are checked (R318). -/
def tmovvData (h : Hdr) (o : FmtE) (s : State) (f : Env → EngCmd → EngCmd) (i : Instr) : Out :=
  mtxAct 0x0A h s fun e m =>
    let v := (e.lead o.s1).toNat
    let sh := m.shape o.t1.toNat
    if tshRows sh ≤ v % 2 ^ 16 ∨ tshRb sh ≤ 512 * (v / 2 ^ 16) then badShape o
    else .eff (mtxEff (f e { e.mtxCmd i o m 0 with q1 := [e.lead o.s1] }))

/-- TMOVV in an exponent form (R318). -/
def tmovvExp (h : Hdr) (o : FmtE) (s : State) (f : Env → EngCmd → EngCmd) (i : Instr) : Out :=
  mtxAct 0x0A h s fun e m =>
    if e.lead o.s1 ≠ 0 then badShape o else .eff (mtxEff (f e { e.mtxCmd i o m 0 with q1 := [e.lead o.s1] }))

/-- The destination register of a move from a tile, as the command keeps it. -/
def Env.toVector (e : Env) (o : FmtE) (c : EngCmd) : EngCmd := { c with target := e.phys o.s2.toNat }
/-- The source register of a move to a tile, read at issue. -/
def Env.fromVector (e : Env) (o : FmtE) (c : EngCmd) : EngCmd := { c with seeds := (List.range 128).map fun l => e.src o.s2 l }

/-- TMOVV.tv, R318. -/
def execTmovvTv (h : Hdr) (o : FmtE) (s : State) : Out := tmovvData h o s (fun e => e.toVector o) (.tmovvTv h o)
/-- TMOVV.vt, R318. -/
def execTmovvVt (h : Hdr) (o : FmtE) (s : State) : Out := tmovvData h o s (fun e => e.fromVector o) (.tmovvVt h o)
/-- TMOVV.tv.rx, R318. -/
def execTmovvTvRx (h : Hdr) (o : FmtE) (s : State) : Out := tmovvExp h o s (fun e => e.toVector o) (.tmovvTvRx h o)
/-- TMOVV.vt.rx, R318. -/
def execTmovvVtRx (h : Hdr) (o : FmtE) (s : State) : Out := tmovvExp h o s (fun e => e.fromVector o) (.tmovvVtRx h o)

/-! ## Butterfly mode at issue -/

/-- The radices of a radix word: the codes up to the first 0, of at most ten (R320). -/
def radices (w : Word) : List Nat :=
  ((List.range 10).map fun s => w.toNat / 8 ^ s % 8).takeWhile (· ≠ 0) |>.map fun c => if c = 5 then 8 else c + 1

/-- The radix word and N form a descriptor (R320). -/
def descOk (n w : Word) : Bool :=
  let codes := (List.range 10).map fun s => w.toNat / 8 ^ s % 8
  let k := (codes.takeWhile (· ≠ 0)).length
  decide (2 ≤ n.toNat ∧ n.toNat ≤ 4096 ∧ w.toNat < 2 ^ 30) && (codes.all fun c => decide (c < 6)) && (codes.drop k).all (· = 0) &&
    decide ((radices w).foldl (· * ·) 1 = n.toNat)

/-- TTWG, R320. -/
def execTtwg (h : Hdr) (o : FmtE) (s : State) : Out :=
  mtxAct 0x08 h s fun e m =>
    let n := e.lead o.s1
    let w := e.lead o.s2
    if descOk n w then .eff (.ttwg n.toNat w :: mtxEff { e.mtxCmd (.ttwg h o) o m 0 with q1 := [n], q2 := [w] }) else badShape o

/-- TBFLY, R322. -/
def execTbfly (h : Hdr) (o : FmtE) (s : State) : Out :=
  mtxAct 0x06 h s fun e m =>
    let b := m.shape o.t2.toNat
    match m.committed with
    | none => badShape o
    | some (n, w) =>
      if (radices w).length ≤ (e.lead o.s1).toNat ∨ tshCode b ≠ 0xF ∨ tshCols b ≠ n ∨ tshShape (m.shape o.t1.toNat) ≠ tshShape b then badShape o
      else .eff (mtxEff { e.mtxCmd (.tbfly h o) o m 0 with q1 := [e.lead o.s1] })

/-- TBREV, R324. -/
def execTbrev (h : Hdr) (o : FmtE) (s : State) : Out :=
  mtxAct 0x07 h s fun e m =>
    let b := m.shape o.t2.toNat
    match m.committed with
    | none => badShape o
    | some (n, _) =>
      if tshCols b ≠ n ∨ codeMx (tshCode b) ∨ codeBits (tshCode b) < 8 ∨ tshShape (m.shape o.t1.toNat) ≠ tshShape b then badShape o
      else .eff (mtxEff (e.mtxCmd (.tbrev h o) o m 0))

end Sys2Proof.Machine
end

