-- ==== Sys2Proof/Machine/MemEvents.lean ====
section
/-! DEFINITION. What the memory system does after commit: loads return (R253), stores leave their queues and are performed (R329,
R332), atomics run at their executing points (R261, R262), requests from the host and from peers (R71, R346, R347), and errors
found in memory (R334, R387, R386). -/

namespace Sys2Proof.Machine

/-! ## Loads return -/

/-- The word belongs to a lane of a load, or to a uniform load (R253, R255). -/
def RegW.inLane : RegW → Option Nat → Bool
  | .s _ _, d => d.isNone
  | .v _ l _, d => d = some l

/-- The register words of a return: the data, or free values in the lanes whose data were bad (R387; log entry 6). -/
def returnWrites (step : Nat) (o : OutLoad) : List RegW :=
  o.writes.zipIdx.map fun p =>
    if o.bad.any fun d => p.1.inLane d.lane then
      match p.1 with
      | .s r _ => .s r (Config.freeWord step p.2)
      | .v r l _ => .v r l (Config.freeWord step p.2)
    else p.1

/-- LOAD_RETURN: the k-th outstanding return of a wave writes its registers and leaves LD; what was wrong with its data is raised once the
last lane of its syllable has returned (R163, R253, R265, R381). -/
def execLoadReturn (b w k : Nat) (s : State) : Out :=
  match s.wave? b w with
  | none => .next s
  | some y =>
    match y.outs[k]? with
    | none => .next s
    | some o =>
      let y := { (returnWrites s.steps o).foldl Wave.wrReg y with outs := dropAt y.outs k }
      .next (((s.setWave b w (y.perform o.sid)).noteBad b w o.sid o.bad).settle b)

/-! ## Stores leave and arrive -/

/-- The unit that a request to a physical address goes to: a core's home slice or scratchpad, the device registers, the host. -/
def fabricDest (pa : Nat) : Nat :=
  match region pa with
  | .hbm => homeCore pa
  | .scratch => 1024 + windowCore pa
  | .host => 2049
  | _ => 2048

/-- The physical address of an entry that moves data. -/
def StoreKind.pa? : StoreKind → Option Nat
  | .bytes _ _ p _ => some p
  | .atomic _ _ p _ _ _ _ _ _ => some p
  | _ => none

/-- An operation whose order among atomics of its own kind does not change what they leave. -/
def AOp.commutes : AOp → Bool
  | .xchg => false
  | .cas => false
  | .fadd => false
  | _ => true

/-- Two lanes of one atomic syllable that returns nothing act on one location, in either order (R260, R436; log entry 53). -/
def FabricEntry.either (f g : FabricEntry) : Bool :=
  match f.e.kind, g.e.kind with
  | .atomic _ _ p n op _ _ _ none, .atomic _ _ q m op' _ _ _ none =>
    decide (f.block = g.block ∧ f.wave = g.wave ∧ f.e.sid = g.e.sid ∧ p = q ∧ n = m ∧ op = op') && op.commutes
  | _, _ => false

/-- Entry k of a core's fabric, when no earlier one that it must follow stands in its lane: one source, destination and hash (R332).
See log entry 53. -/
def State.laneHead (s : State) (core k : Nat) : Option FabricEntry :=
  let l := (s.core core).fabric
  match l[k]? with
  | none => none
  | some f =>
    let key (g : FabricEntry) := g.e.kind.pa?.map fun p => (fabricDest p, g.lane)
    if (l.take k).any fun g => key g = key f && !f.either g then none else some f

/-- The line of an address held in a core's data cache takes the bytes of a store, its writer's tag, and clear poison in the granules that
its syllable has written whole (R244, R387). -/
def State.updateLine (s : State) (core ctx pa : Nat) (bs : List Byte) (clears : List Nat) : State :=
  s.modCore core fun c => { c with dcache := c.dcache.map fun d =>
    if d.pa ≤ pa ∧ pa < d.pa + 128 then
      { d with
        bytes := d.bytes.take (pa - d.pa) ++ bs ++ d.bytes.drop (pa - d.pa + bs.length)
        ctx := ctx
        poison := d.poison &&& BitVec.ofNat 2
          ((if clears.contains (d.pa / 64) then 0 else 1) + if clears.contains (d.pa / 64 + 1) then 0 else 2) }
    else d }

/-- Granules that are written whole are no longer poisoned (R387). -/
def State.clearPoison (s : State) (l : List Nat) : State := { s with poison := l.foldl (fun t g => Table.set false t g false) s.poison }

/-- An entry leaves a wave's queue for the fabric. -/
def State.sendFabric (s : State) (b w : Nat) (x : Block) (q : StoreEntry) (pa : Nat) : State :=
  s.modCore x.core fun c => { c with fabric := c.fabric ++ [⟨b, w, q.ctx, fabricLane pa, q⟩] }

/-- A store to the core's own scratchpad is written as it leaves, unless an earlier request to its line is on its way. -/
def State.writesHere (s : State) (core pa : Nat) : Bool :=
  region pa = .scratch && windowCore pa = core && (s.core core).fabric.all fun f => !f.e.kind.writesLine pa

/-- The primary's store that an entry of its partner must follow out of the core still stands in its queue (R161). -/
def State.primaryAhead (s : State) (q : StoreEntry) : Bool :=
  q.after.any fun e => (s.wave? e.1 e.2.1).any fun y => y.storeq.any fun r => r.sid = e.2.2

/-- The head of a wave's store queue leaves it (R161, R329, R330). See log entry 53. -/
def State.leaveQueue (s : State) (b w : Nat) (x : Block) (y : Wave) (q : StoreEntry) : State :=
  let popped := s.setWave b w { y with storeq := y.storeq.drop 1 }
  match q.kind with
  | .bytes _ _ pa bs =>
    if (q.rel && !s.released x.core y q.sid q.scope) || s.primaryAhead q then s
    else if s.writesHere x.core pa then
      ((popped.write q.ctx pa bs).modWave b w fun z => z.perform q.sid).settleCore x.core
    else
      let t := (popped.updateLine x.core q.ctx pa bs q.clears).sendFabric b w x q pa
      (if q.scope ≤ 1 then t.modWave b w fun z => z.perform q.sid else t).settleCore x.core
  | .atomic _ _ pa _ _ _ _ _ _ =>
    if (q.rel && !s.released x.core y q.sid q.scope) || s.primaryAhead q then s
    else ((popped.dropLines x.core [pa]).sendFabric b w x q pa).settleCore x.core
  | _ => if s.headReady x y q then (s.leaveHead b w x q).settleCore x.core else s

/-- Entry k of a core's fabric gone. -/
def State.dropFabric (s : State) (core k : Nat) : State := s.modCore core fun c => { c with fabric := dropAt c.fabric k }

/-- A store performed at its executing point; one whose die is out of service stops its block (R388, R390). See log entry 55. -/
def State.storeArrives (s : State) (core k : Nat) (f : FabricEntry) (pa : Nat) (bs : List Byte) : State :=
  let s := s.dropFabric core k
  let s := match s.dieGone pa with
    | some d => s.noteBad f.block f.wave f.e.sid [⟨0x23, pa, f.e.va, some f.e.place, 0, d⟩]
    | none => (s.write f.ctx pa bs).clearPoison f.e.clears
  (if 2 ≤ f.e.scope then s.modWave f.block f.wave fun y => y.perform f.e.sid else s).settleCore core

/-- STORE_PERFORM: the head of a wave's queue leaves it, or a store on the fabric reaches its executing point (R329, R332). -/
def execStorePerform (site : StoreSite) (s : State) : Out :=
  match site with
  | .leave b w =>
    match s.block? b, s.wave? b w with
    | some x, some y =>
      match y.storeq with
      | q :: _ => .next (s.leaveQueue b w x y q)
      | [] => .next s
    | _, _ => .next s
  | .arrive core k =>
    match s.laneHead core k with
    | some f =>
      match f.e.kind with
      | .bytes _ _ pa bs => if region pa = .none then .fault (.unbackedAddress pa) else .next (s.storeArrives core k f pa bs)
      | _ => .next s
    | none => .next s

/-! ## Atomics -/

/-- The register words of a returned old value of n bytes. -/
def oldWrites (rotv p n lane old : Nat) : List RegW :=
  (physRun rotv p (n / 4)).zipIdx.map fun q => .v q.1 lane (toWord (old / 2 ^ (32 * q.2)))

/-- An atomic's answer goes back to its wave: data that will return, or the end of a store (R163, R263). -/
def State.answerAtomic (s : State) (f : FabricEntry) (n lane old : Nat) (dst : Option Nat) (bad : List BadData) : State :=
  match dst with
  | some p =>
    let rotv := ((s.block? f.block).map fun x => x.var.rotv).getD 0
    s.modWave f.block f.wave fun y => { y with outs := y.outs ++ [⟨f.e.sid, oldWrites rotv p n lane old, [], bad⟩] }
  | none => (s.noteBad f.block f.wave f.e.sid bad).modWave f.block f.wave fun y => y.perform f.e.sid

/-- A free number of 128 bits. -/
def freeQuad (step : Nat) : Nat :=
  (Config.freeWord step 0 ++ Config.freeWord step 1 ++ Config.freeWord step 2 ++ Config.freeWord step 3).toNat

/-- The old value that an atomic reads: a free value where a TST of its block may still write the bytes (R307). -/
def State.atomicOld (s : State) (core : Nat) (f : FabricEntry) (pa n : Nat) : Nat :=
  if (List.range n).any fun i => s.tstOpen core f.block (pa + i) (some (f.wave, f.e.sid)) then freeQuad s.steps % 2 ^ (8 * n)
  else s.num pa n

/-- One atomic lane at its executing point: it reads and writes its location indivisibly (R260, R261). -/
def State.runAtomic (s : State) (core k : Nat) (f : FabricEntry) (pa n : Nat) (op : AOp) (a b : BitVec 128) (lane : Nat)
    (dst : Option Nat) : State :=
  let t := (s.dropFabric core k).dropLines core [pa]
  match t.dieGone pa with
  | some d => (t.answerAtomic f n lane 0 dst [⟨0x23, pa, f.e.va, some lane, 0, d⟩]).settleCore core
  | none =>
    let bad := (t.badData pa n f.e.va (some lane)).toList
    let old := t.atomicOld core f pa n
    let t := (t.errorsFound pa n).writeNum f.ctx pa n (atomicNew op n old a.toNat b.toNat)
    (t.answerAtomic f n lane old dst bad).settleCore core

/-- ATOMIC_PERFORM: entry k of a core's fabric, an atomic of device memory, runs (R261). -/
def execAtomicPerform (core k : Nat) (s : State) : Out :=
  match s.laneHead core k with
  | some f =>
    match f.e.kind with
    | .atomic _ _ pa n op a b lane dst =>
      match region pa with
      | .host => .next s
      | .none => .fault (.unbackedAddress pa)
      | _ => .next (s.runAtomic core k f pa n op a b lane dst)
    | _ => .next s
  | none => .next s

/-- A host AtomicOp that ends in an error: the destination is a free value and the block stops (R262, R386). -/
def State.hostAtomicFails (s : State) (core k : Nat) (f : FabricEntry) (pa n lane : Nat) (dst : Option Nat) (status : Nat) : State :=
  ((s.dropFabric core k).answerAtomic f n lane 0 dst [⟨0x21, pa, f.e.va, some lane, status, 0⟩]).settleCore core

/-- The atomic of the host aperture that entry k of a core's fabric is, its lane's turn come. -/
def State.hostAtomic? (s : State) (core k : Nat) : Option (FabricEntry × Nat × Nat × AOp × BitVec 128 × BitVec 128 × Nat × Option Nat) :=
  match s.laneHead core k with
  | some f =>
    match f.e.kind with
    | .atomic _ _ pa n op a b lane dst => if region pa = .host then some (f, pa, n, op, a, b, lane, dst) else none
    | _ => none
  | none => none

/-- HOST_ATOMICOP_COMPLETION: status 0 is Successful Completion, after which the host has performed the operation (R262). -/
def execHostAtomicopCompletion (core k : Nat) (status : BitVec 16) (s : State) : Out :=
  match s.hostAtomic? core k with
  | some (f, pa, n, op, a, b, lane, dst) =>
    if status = 0 then .next (s.runAtomic core k f pa n op a b lane dst)
    else .next (s.hostAtomicFails core k f pa n lane dst status.toNat)
  | none => .next s

/-- HOST_COMPLETION_TIMEOUT: no completion came; the status detail is a free value (R262; log entry 12). -/
def execHostCompletionTimeout (core k : Nat) (s : State) : Out :=
  match s.hostAtomic? core k with
  | some (f, pa, n, _, _, _, lane, dst) =>
    .next (s.hostAtomicFails core k f pa n lane dst ((Config.freeWord s.steps 4).toNat % 2 ^ 16))
  | none => .next s

/-- STALE_LINE_EXPIRE: a line leaves a core data cache (R334). -/
def execStaleLineExpire (core line : Nat) (s : State) : Out := .next (s.dropLines core [128 * line])

/-! ## Requests from outside -/

/-- The old value of an AtomicOp from outside and the location's new one (R71). -/
def memRmw (s : State) (pa : Nat) : MemOp → Option (Nat × Nat × Nat)
  | .fetchAdd n v => some (n, s.num pa n, atomicNew .add n (s.num pa n) v.toNat 0)
  | .swap n v => some (n, s.num pa n, atomicNew .xchg n (s.num pa n) v.toNat 0 % 2 ^ (8 * n))
  | .cas n c v => some (n, s.num pa n, atomicNew .cas n (s.num pa n) c.toNat v.toNat)
  | _ => none

/-- A request performed at a physical address of this module's memory, and the bytes it answers (R71, R346, R347). -/
def State.performAt (s : State) (ctx pa : Nat) (op : MemOp) : State × List Byte :=
  match op with
  | .read n => (s, s.bytes pa n)
  | .write bs => (s.write ctx pa bs, [])
  | op =>
    match memRmw s pa op with
    | some (n, old, new) => (s.writeNum ctx pa n new, leBytes n old)
    | none => (s, [])

/-- Bytes that a request touches. -/
def opSize : MemOp → Nat
  | .read n => n
  | .write bs => bs.length
  | .fetchAdd n _ => n
  | .swap n _ => n
  | .cas n _ _ => n

/-- The physical address behind an offset of BAR2: the ranges that the Daylight runtime has set follow each other in the window
(R69; log entry 58). See log entry 61. -/
def windowAt : List (Nat × Nat) → Nat → Nat → Option Nat
  | [], _, _ => none
  | (pa, len) :: r, off, n => if off + n ≤ len then some (pa + off) else if off < len then none else windowAt r (off - len) n

/-- HOST_BAR2_ACCESS: a read, a write or an AtomicOp of the host on device memory behind the window (R69, R71, R346).
See log entries 29 and 61. -/
def execHostBar2Access (a : MemRequest) (s : State) : Out :=
  match windowAt s.host.bar2 a.addr (opSize a.op) with
  | some pa => let r := s.performAt 0 pa a.op; .next { r.1 with host := { r.1.host with readData := some r.2 } }
  | none => .next { s with host := { s.host with readData := none } }

/-- The kind of access that a request makes. -/
def opKind : MemOp → XKind
  | .read _ => .load
  | .write _ => .store
  | _ => .atomic

/-- PEER_LINK_REQUEST: a request of a peer module to an address of the context that is paired with its own: it is translated here, and
one whose translation fails changes nothing here; the answer goes back over the link (R269, R347; log entry 59).
See log entry 29. -/
def execPeerLinkRequest (a : PeerRequest) (s : State) : Out :=
  let l := piecesOf [((a.va.toNat : Int), (opSize a.op))]
  match s.placeAll ⟨256, a.ctx, none⟩ 0 0 (opKind a.op) l with
  | (s, .ok ps) =>
    match a.op with
    | .write bs => .next (s.writePlaces a.ctx ps bs)
    | op => .next (s.performAt a.ctx ((ps.map Prod.fst).headD 0) op).1
  | (s, .error _) => .next s

/-! ## Errors (R386, R387) -/

/-- Both granules of a 128-byte line poisoned. -/
def State.poisonLine (s : State) (line : Nat) : State :=
  { s with poison := Table.set false (Table.set false s.poison (2 * line) true) (2 * line + 1) true }

/-- EVICT_UNCORRECTABLE: a dirty line is written poisoned, and the context of its tag is charged; no block stops (R387). -/
def execEvictUncorrectable (line : Nat) (s : State) : Out :=
  let ctx := Table.get 0 s.tags line
  .next ((s.poisonLine line).charge 0x2B 4 ctx (homeCore (128 * line)) (BitVec.ofNat 64 (128 * line)) 0 0 0)

/-- SCRUB_ERROR: the granule is poisoned without a record (R387). -/
def execScrubError (granule : Nat) (s : State) : Out :=
  .next { s with poison := Table.set false s.poison granule true, memErr := Table.set false s.memErr granule false }

/-- Damaged storage holds free values (R265, R302): a register, a tile or a plane (R386).
See log entry 62. -/
def State.damage (s : State) (e : SramError) : State :=
  let n := e.index.toNat
  match e.structureCode.toNat with
  | 0 => s.modWave e.b e.w fun y => (List.range 128).foldl (fun y l => y.wrV n l (Config.freeWord s.steps l)) y
  | 1 => s.modWave e.b e.w fun y => y.wrS n (Config.freeWord s.steps 0)
  | 3 =>
    let free (m : Matrix) := m.putBytes n 0 ((List.range 65536).map fun k => Config.freeByte s.steps (2 ^ 60 + 65536 * n + k))
    s.modBlock e.b fun x => { x with mtx := x.mtx.map free }
  | 4 =>
    let free (m : Matrix) := (List.range 16384).foldl (fun m k => m.setW n (k / 128) (k % 128) (freeCell s.steps k)) m
    s.modBlock e.b fun x => { x with mtx := x.mtx.map free }
  | _ => s

/-- An outstanding load that has read some of the granule at pa returns an error (R265). -/
def OutLoad.spoil (pa : Nat) (o : OutLoad) : OutLoad :=
  { o with bad := o.bad ++ (o.src.filter fun r => decide (r.pa < pa + 64 ∧ pa < r.pa + r.n)).map fun r => foundError (pa / 64) r.va r.lane }

/-- An error in the 64 bytes of a scratchpad at pa: the outstanding loads that have read them find it, or else the next read (R265;
log entry 62). -/
def State.scratchError (s : State) (pa : Nat) : State :=
  let s := s.forget pa (pa + 64)
  let t := { s with blocks := Table.map (fun _ x =>
    { x with waves := Table.map (fun _ y => { y with outs := y.outs.map (OutLoad.spoil pa) }) x.waves }) s.blocks }
  if t.blocks = s.blocks then { s with memErr := Table.set false s.memErr (pa / 64) true } else t

/-- SRAM_UNCORRECTABLE: an error in a register file, scratchpad, tile or plane of a block (R386). One in a register is found by the wave's
next read of its operands, which stops the wave, or, once the block is stopping, by its save (R381); one in a scratchpad by the loads that
have read there and not returned, or by the next read (R265); one in a tile or plane by the next command that reads it (R302).
See log entry 62. -/
def execSramUncorrectable (e : SramError) (s : State) : Out :=
  match s.block? e.b with
  | none => .next s
  | some x =>
    let n := e.index.toNat
    if e.structureCode.toNat = 2 then .next (if n < scratchSize x.core then s.scratchError (windowPa x.core n / 64 * 64) else s)
    else if 2 < e.structureCode.toNat ∨ x.stop.isSome then .next { s with sramErr := s.sramErr ++ [e] }
    else .next ((s.damage e).asyncFault e.b e.w 0x28 0 0 (sramFault e).2.2.2 0)

end Sys2Proof.Machine
end

