-- ==== Sys2Proof/Machine/MatrixRun.lean ====
section
/-! DEFINITION. The matrix engine runs (R300 to R324): the effects of its commands, K-blocks, latches, butterfly stages, and what
follows when a command completes (R302). -/

namespace Sys2Proof.Machine

/-! ## Commands on tiles and planes -/

/-- The shapes of a command's T1, T2, T3. -/
def EngCmd.sh (c : EngCmd) (k : Nat) : Word := c.tsh.getD k 0

/-- The mode and the generator draws of a readout (R42, R312): n is the number of the draw in lane j. -/
def EngCmd.readMode (c : EngCmd) (plane : Word) (j n : Nat) : Mode :=
  match c.seeds with
  | [] => modeOf false (plane.toNat / 2 ^ 16 % 8) 0
  | l => .rs (rngBits (rngAfter n (l.getD j 1)))

/-- The word of plane p as the bundle of the command read it (R121). -/
def EngCmd.planeAt (c : EngCmd) (p : Nat) : Word := c.planes.getD p 0

/-- TRND, R311: the readout of plane p into tile t. -/
def Matrix.readout (m : Matrix) (c : EngCmd) (t p : Nat) (clr : Bool) : Matrix :=
  let sh := c.sh 0
  let code := tshCode sh
  let f (k : Nat) := planeFloor (c.planeAt (p + k))
  let elem (i j : Nat) : Nat :=
    if code = 0xF then
      readInt 16 15 (c.readMode (c.planeAt p) j (2 * i + 1)) (f 0) (m.w p i j) +
        2 ^ 16 * readInt 16 15 (c.readMode (c.planeAt (p + 1)) j (2 * i + 2)) (f 1) (m.w (p + 1) i j)
    else readCell code (c.readMode (c.planeAt p) j (i + 1)) (f 0) (m.w p i j)
  let r := (m.setAll t sh fun i j => some (elem i j)).clearRexp t
  if !clr then r
  else
    let r := r.clearCells p (tshRows sh) (tshCols sh)
    if code = 0xF then r.clearCells (p + 1) (tshRows sh) (tshCols sh) else r

/-- TZERO of a plane, R313. -/
def Matrix.zeroPlane (m : Matrix) (p : Nat) : Matrix :=
  { m with cell := Table.clear (16384 * p) (16384 * p + 16384) m.cell }.setPlaneW p (m.planeW p &&& ~~~0x200)

/-- TZERO of a tile, R313. -/
def Matrix.zeroTile (m : Matrix) (t : Nat) : Matrix :=
  let r := { m with tile := Table.clear (65536 * t) (65536 * t + 65536) m.tile }.clearRexp t
  { r with tsh := Table.set 0 r.tsh t (tshShape (m.shape t)) }

/-- TTRN, R317. -/
def Matrix.transpose (m : Matrix) (c : EngCmd) (d t : Nat) : Matrix :=
  (m.setAll d (c.sh 0) fun i j => some (m.elem t (c.sh 1) j i)).clearRexp d

/-- TMERGE, R319. -/
def Matrix.merge (m : Matrix) (c : EngCmd) (d t k : Nat) : Matrix :=
  m.setAll d (c.sh 0) fun i j => if m.elem k (c.sh 2) i j ≠ 0 then some (m.elem t (c.sh 1) i j) else none

/-- TMOVV.vt, R318. -/
def Matrix.fromLanes (m : Matrix) (c : EngCmd) (t : Nat) : Matrix :=
  let v := (c.q1.getD 0 0).toNat
  let rb := tshRb (c.sh 0)
  (lanesOf c.lanes).foldl (fun m l =>
    let n := 512 * (v / 2 ^ 16) + 4 * l
    m.putBytes t (v % 2 ^ 16 * rb + n) ((leBytes 4 (c.seeds.getD l 0).toNat).take (rb - n))) m

/-- TMOVV.tv, R318: the word of lane l. -/
def Matrix.toLane (m : Matrix) (c : EngCmd) (t l : Nat) : Word :=
  let v := (c.q1.getD 0 0).toNat
  let rb := tshRb (c.sh 0)
  let n := 512 * (v / 2 ^ 16) + 4 * l
  toWord (ofLe ((List.range 4).map fun k => if n + k < rb then m.byte t (v % 2 ^ 16 * rb + n + k) else 0))

/-- TMOVV.vt.rx, R318. -/
def Matrix.fromLanesRx (m : Matrix) (c : EngCmd) (t : Nat) : Matrix :=
  (lanesOf c.lanes).foldl (fun m l =>
    if l < tshRows (c.sh 0) then m.setRexp t l ((c.seeds.getD l 0).setWidth 8) else m) m

/-! ## Butterfly mode (R320 to R324) -/

/-- w(e) as integers in units of 2^-17 (R321). -/
def stageTwiddle (n : Nat) (conj : Bool) (e : Nat) : Int × Int :=
  let cs : Int × Int :=
    if 4 * e % n = 0 then
      match 4 * e / n with
      | 0 => (2 ^ 17, 0)
      | 1 => (0, 2 ^ 17)
      | 2 => (-(2 ^ 17), 0)
      | _ => (0, -(2 ^ 17))
    else (twiddle true e n, twiddle false e n)
  (cs.1, if conj then cs.2 else -cs.2)

/-- The exact outputs of stage s of a row x, in position order (R322). -/
def stageRow (n : Nat) (rs : List Nat) (s : Nat) (conj : Bool) (x : Nat → Int × Int) : List (Int × Int) :=
  let big := (rs.take s).foldl (· * ·) 1
  let l := n / big
  let r := rs.getD s 1
  let m := l / r
  (List.range n).map fun o =>
    let b := o / l * l
    let t := o % l / m
    let q := o % m
    (List.range r).foldl (fun (acc : Int × Int) p =>
      let v := x (b + q + p * m)
      let w := stageTwiddle n conj (t * (q + p * m) * big % n)
      (acc.1 + v.1 * w.1 - v.2 * w.2, acc.2 + v.1 * w.2 + v.2 * w.1)) (0, 0)

/-- A part scaled by a shift: the value before saturation (R323). -/
def stageRound (h : Nat) (y : Int) : Int := roundInt .rne (decide (y < 0)) y.natAbs (2 ^ (17 + h))
/-- A part saturates. -/
def stageSat (h : Nat) (y : Int) : Bool := decide (stageRound h y < -32768 ∨ 32767 < stageRound h y)
/-- The shift of a row (R323). -/
def stageShift (auto : Bool) (sh : Nat) (ys : List (Int × Int)) : Nat :=
  if !auto then sh
  else (((List.range 4).filter fun h => decide (sh ≤ h)).find? fun h => ys.all fun y => !stageSat h y.1 && !stageSat h y.2).getD 3

/-- Row i of a TBFLY. -/
def Matrix.stageTo (m m0 : Matrix) (c : EngCmd) (d t n : Nat) (w : Word) (o : FmtE) (i : Nat) : Matrix :=
  let x (k : Nat) : Int × Int := let v := m0.elem t (c.sh 1) i k; (sext 16 v, sext 16 (v / 2 ^ 16))
  let ys := stageRow n (radices w) (c.q1.getD 0 0).toNat (o.f.getLsbD 3) x
  let h := stageShift (o.f.getLsbD 2) (o.f.extractLsb' 0 2).toNat ys
  let part (y : Int) : Nat := trunc 16 (sat (stageRound h y) (-32768) 32767)
  let m := ys.zipIdx.foldl (fun m y => m.setElem d (c.sh 0) i y.2 (part y.1.1 + 2 ^ 16 * part y.1.2)) m
  let m := m.setRexp d i (BitVec.ofNat 8 (min ((m0.rexp t i).toNat + h) 255))
  if ys.any fun y => stageSat h y.1 || stageSat h y.2 then { m with tsh := Table.set 0 m.tsh d (m.shape d ||| 0x80000000) } else m

/-- TBFLY, R322, R323. -/
def Matrix.stage (m : Matrix) (c : EngCmd) (d t : Nat) (o : FmtE) : Matrix :=
  match m.desc with
  | none => m
  | some (n, w) => (List.range (tshRows (c.sh 1))).foldl (fun r i => r.stageTo m c d t n w o i) m

/-- The frequency at a position (R324): digits by stage, the weight of the position left and the product of the radices so far. -/
def frequency : List Nat → Nat → Nat → Nat → Nat
  | [], _, _, _ => 0
  | r :: rs, big, n, pos => let m := n / r; pos / m * big + frequency rs (big * r) m (pos % m)

/-- TBREV, R324. -/
def Matrix.reorder (m : Matrix) (c : EngCmd) (d t : Nat) (inv : Bool) : Matrix :=
  match m.desc with
  | none => m
  | some (n, w) =>
    let r := (List.range (tshRows (c.sh 1))).foldl (fun r i => (List.range n).foldl (fun r p =>
      let f := frequency (radices w) 1 n p
      if inv then r.setElem d (c.sh 0) i p (m.elem t (c.sh 1) i f) else r.setElem d (c.sh 0) i f (m.elem t (c.sh 1) i p)) r) m
    r.copyRexp d t

/-! ## Products (R308, R309, R315) -/

/-- The fields of a command that multiplies. -/
def productOf : Instr → Option FmtE
  | .tmma _ o => some o
  | .twin _ o => some o
  | _ => none

/-- The command forms its A operand by window replay. -/
def EngCmd.replays (c : EngCmd) : Bool :=
  match c.instr with
  | .twin _ _ => true
  | _ => false

/-- The address of the element of A that window replay forms, in the scratchpad window of its core; none outside the input (R315). -/
def windowAddr (core base : Nat) (d : Win) (esize m k : Nat) : Option Nat :=
  let c := k % d.ch
  let kx := k / d.ch % d.kw
  let ky := k / d.ch / d.kw
  let o := d.obase + m
  let ix : Int := ((o % d.ow * d.sx + kx * d.dx : Nat) : Int) - d.px
  let iy : Int := ((o / d.ow * d.sy + ky * d.dy : Nat) : Int) - d.py
  if 0 ≤ ix ∧ ix < d.iw ∧ 0 ≤ iy ∧ iy < d.ih then
    some (windowPa core (base + d.ibase + iy.toNat * d.ipitch + (ix.toNat * d.ch + c) * esize))
  else none

/-- The element itself, as the core's requests find it, or 0. -/
def State.windowElem (s : State) (core base : Nat) (d : Win) (esize m k : Nat) : Nat :=
  match windowAddr core base d esize m k with
  | some pa => ofLe ((List.range esize).map fun i => s.coreByte core (pa + i))
  | none => 0

/-- The element size of A, in bytes. -/
def EngCmd.esizeA (c : EngCmd) : Nat := codeBits (slotA c.fmt) / 8

/-- K of a command that multiplies, 0 for another. -/
def EngCmd.kLen (c : EngCmd) : Nat :=
  match c.instr with
  | .tmma _ _ => tshCols (c.sh 2)
  | .twin _ _ => tshCols (c.sh 1)
  | _ => 0

/-- K-blocks of a command (R305): one for a command that does not multiply. -/
def EngCmd.kBlocks (c : EngCmd) : Nat := max 1 ((c.kLen + 31) / 32)

/-- Cycles from one K-block of a pair of codes to the next (R310). See log entry 48. -/
def kCycles (w : Word) : Nat :=
  let four (k : Nat) := k = 9 ∨ k = 0xE
  if slotA w = 0xF then 64
  else if slotA w = 0 ∨ slotA w = 4 then 32
  else if four (slotA w) ∧ four (slotB w) then 8
  else 16

/-- K indices of K-block b: the first, and the one after the last. -/
def EngCmd.kRange (c : EngCmd) (b : Nat) : Nat × Nat := (32 * b, min (32 * b + 32) c.kLen)

/-- The rows of the plane region of a multiplication. -/
def EngCmd.rowsA (c : EngCmd) : Nat := if c.replays then (winOf c.win).mw else tshRows (c.sh 1)

/-- The tile of B and its shape. -/
def EngCmd.tileB (c : EngCmd) (o : FmtE) : Nat × Word := if c.replays then (o.t2.toNat, c.sh 1) else (o.t3.toNat, c.sh 2)

/-- The lowest row whose input bytes in a K-block are bad, and what is wrong with them (R302, R387). -/
def State.windowBad (s : State) (x : Block) (c : EngCmd) (b : Nat) : List (Nat × BadData) :=
  if !c.replays ∨ (s.poison = [] ∧ s.memErr = []) then []
  else
    let r := c.kRange b
    (List.range c.rowsA).filterMap fun i =>
      ((List.range (r.2 - r.1)).findSome? fun k =>
        (windowAddr x.core x.base (winOf c.win) c.esizeA i (r.1 + k)).bind fun pa => s.badData pa c.esizeA 0 none).map fun d => (i, d)

/-- Rows of a plane that were computed from damaged data are unspecified (R302). -/
def Matrix.freeCells (m : Matrix) (step p cols : Nat) (rows : List Nat) : Matrix :=
  rows.foldl (fun m i => (List.range cols).foldl (fun m j => m.setW p i j (freeCell step (16384 * p + 128 * i + j))) m) m

/-- K-block b of a multiplication enters the array: floors as its bundle read them (R121), the latches as they stand (R305). -/
def State.enterBlock (s : State) (x : Block) (m : Matrix) (c : EngCmd) (o : FmtE) (b : Nat) : Matrix :=
  let r := c.kRange b
  let complex := slotA c.fmt = 0xF
  let p := o.t1.toNat
  let d := winOf c.win
  let bt := c.tileB o
  let cols := tshRows bt.2
  let a (im : Bool) (i k : Nat) : FVal :=
    if c.replays then partValue (slotA c.fmt) im (s.windowElem x.core x.base d c.esizeA i k) 0
    else m.part o.t2.toNat (c.sh 1) im i k
  let m := if b = 0 ∧ o.f.getLsbD 2 then
      (if complex then (m.clearCells p c.rowsA cols).clearCells (p + 1) c.rowsA cols else m.clearCells p c.rowsA cols)
    else m
  (m.multiply (fun q => planeFloor (c.planeAt q)) p c.rowsA cols (o.f.extractLsb' 0 2).toNat complex a
    (fun im j k => m.part bt.1 bt.2 im j k) r.1 r.2).freeCells s.steps p cols ((s.windowBad x c b).map Prod.fst)

/-! ## Memory -/

/-- The bytes of the pieces of a row, under the core's stores on the fabric. -/
def State.rowBytes (s : State) (core : Nat) (row : List (Nat × Nat)) : List Byte :=
  row.flatMap fun p => (List.range p.2).map fun i => s.coreByte core (p.1 + i)

/-- The address of row i of a TLD or TST in its space (R306). -/
def EngCmd.rowAddr (c : EngCmd) (i : Nat) : DWord :=
  BitVec.ofInt 64 (((pair (c.w1 0) (c.w1 1)).toNat : Int) + i * sext 32 (c.w2 0).toNat)

/-- Row i lies on a die that is out of service (R390, R427; log entry 63). -/
def State.rowLost (s : State) (c : EngCmd) (r : List (Nat × Nat) × Nat) : Option BadData :=
  r.1.findSome? fun p => (s.dieGone p.1).map fun d => ⟨0x23, p.1, c.rowAddr r.2, none, 0, d⟩

/-- What is wrong with row i of a TLD: its die is out of service, an error, or poison (R302, R390). -/
def State.rowBad (s : State) (c : EngCmd) (r : List (Nat × Nat) × Nat) : Option BadData :=
  (s.rowLost c r).or (r.1.findSome? fun p => s.badData p.1 p.2 0 none)

/-- Unspecified bytes of a tile row (R6, R302, R307). -/
def freeRow (step t i rb : Nat) : List Byte := (List.range rb).map fun k => Config.freeByte step (2 ^ 60 + 65536 * t + i * rb + k)

/-- TLD runs (R306): it reads behind the core's stores on the fabric (R329); damaged or lost rows, and rows that the block has stored to,
are unspecified. See log entry 63. -/
def State.loadTile (s : State) (core : Nat) (m : Matrix) (c : EngCmd) (t : Nat) : Matrix :=
  let rb := tshRb (c.sh 0)
  (c.rows.zipIdx.foldl (fun m r =>
    m.putBytes t (r.2 * rb)
      (if c.stale.contains r.2 ∨ (s.rowBad c r).isSome then freeRow s.steps t r.2 rb else s.rowBytes core r.1)) m).clearRexp t

/-- The errors that a TLD has found poison their granules, and the lines it has read at their homes leave the core's data cache, so
that no later load reads an older value (R328, R387). -/
def State.afterLoad (s : State) (core : Nat) (c : EngCmd) : State :=
  c.rows.foldl (fun s r => (r.foldl (fun s p => s.errorsFound p.1 p.2) s).dropRanges core (rangesOfPlaces r)) s

/-- TST runs (R306): rows of a die out of service are not written. See log entry 63. -/
def State.storeTile (s : State) (core : Nat) (m : Matrix) (c : EngCmd) (t : Nat) : State :=
  let rb := tshRb (c.sh 0)
  c.rows.zipIdx.foldl (fun s r =>
    if (s.rowLost c r).isSome then s
    else (s.writePlaces c.ctx r.1 (m.bytes t (r.2 * rb) rb)).dropRanges core (rangesOfPlaces r.1)) s

/-- The tiles (3) and planes (4) that a command reads, as SRAM_UNCORRECTABLE numbers them (R302, R386). -/
def EngCmd.sramRead (c : EngCmd) : List (Nat × Nat) :=
  let plane (p : Nat) (pair : Bool) : List (Nat × Nat) := (4, p) :: if pair then [(4, p + 1)] else []
  match c.instr with
  | .tst _ o => [(3, o.t1.toNat)]
  | .trnd _ o => plane o.t2.toNat (slotD c.fmt = 0xF)
  | .tmma _ o => [(3, o.t2.toNat), (3, o.t3.toNat)] ++ plane o.t1.toNat (slotA c.fmt = 0xF)
  | .twin _ o => (3, o.t2.toNat) :: plane o.t1.toNat (slotA c.fmt = 0xF)
  | .tbfly _ o => [(3, o.t2.toNat)]
  | .tbrev _ o => [(3, o.t2.toNat)]
  | .ttrn _ o => [(3, o.t2.toNat)]
  | .tmerge _ o => [(3, o.t2.toNat), (3, o.t3.toNat)]
  | .tmovvTv _ o => [(3, o.t1.toNat)]
  | .tmovvTvRx _ o => [(3, o.t1.toNat)]
  | _ => []

/-- A command of block b reads what it works on: an error there is found, and what stood there is a free value (R302; log entry 62). -/
def State.readSram (s : State) (b : Nat) (c : EngCmd) : State × Option DataFault :=
  let hits := s.sramErr.filter fun e => e.b = b && c.sramRead.contains (e.structureCode.toNat, e.index.toNat)
  (hits.foldl State.damage { s with sramErr := s.sramErr.filter fun e => !hits.contains e },
    hits.head?.map sramFault)

/-! ## The engine -/

/-- The matrix state of block b replaced. -/
def State.setMtx (s : State) (b : Nat) (m : Matrix) : State := s.modBlock b fun x => { x with mtx := some m }

/-- A TMOVV from a tile writes its register. -/
def State.toVector (s : State) (b w : Nat) (c : EngCmd) (f : Nat → Word) : State :=
  s.modWave b w fun y => (lanesOf c.lanes).foldl (fun y l => y.wrV c.target l (f l)) y

/-- A command that does not multiply, run whole (R300). -/
def State.runWhole (s : State) (b w : Nat) (x : Block) (m : Matrix) (c : EngCmd) : State :=
  match c.instr with
  | .tld _ o => (s.afterLoad x.core c).setMtx b (s.loadTile x.core m c o.t1.toNat)
  | .tst _ o => s.storeTile x.core m c o.t1.toNat
  | .trnd _ o => s.setMtx b (m.readout c o.t1.toNat o.t2.toNat (o.f.getLsbD 0))
  | .tzeroPlane _ o => s.setMtx b (m.zeroPlane o.t1.toNat)
  | .tzeroTile _ o => s.setMtx b (m.zeroTile o.t1.toNat)
  | .tbfly _ o => s.setMtx b (m.stage c o.t1.toNat o.t2.toNat o)
  | .tbrev _ o => s.setMtx b (m.reorder c o.t1.toNat o.t2.toNat (o.f.getLsbD 0))
  | .ttwg _ _ => s.setMtx b { m with desc := some ((c.q1.getD 0 0).toNat, c.q2.getD 0 0) }
  | .ttrn _ o => s.setMtx b (m.transpose c o.t1.toNat o.t2.toNat)
  | .tmerge _ o => s.setMtx b (m.merge c o.t1.toNat o.t2.toNat o.t3.toNat)
  | .tmovvTv _ o => s.toVector b w c fun l => m.toLane c o.t1.toNat l
  | .tmovvVt _ o => s.setMtx b (m.fromLanes c o.t1.toNat)
  | .tmovvTvRx _ o => s.toVector b w c fun l => (m.rexp o.t1.toNat l).setWidth 32
  | .tmovvVtRx _ o => s.setMtx b (m.fromLanesRx c o.t1.toNat)
  | _ => s

/-- The first plane of a command on which saturation has newly set SAT under TRAP, as its bundle read it (R40, R121; log entry 64). -/
def trapped (m0 m1 : Matrix) (c : EngCmd) : Option Nat :=
  match matrixCmd c.instr with
  | some (op, o) =>
    (planesUsed op o c.fmt).find? fun p => !(m0.planeW p).getLsbD 9 && (m1.planeW p).getLsbD 9 && (c.planeAt p).getLsbD 10
  | none => none

/-- An entry of the fabric writes some of n bytes. -/
def StoreKind.writesAny (pa n : Nat) : StoreKind → Bool
  | .bytes _ _ q bs => meets pa n q bs.length
  | k => k.actsOn pa n

/-- No request of the core on the fabric has still to act on the rows: an atomic before a TLD, any store before a TST (R328, R329). -/
def State.rowsClear (s : State) (core : Nat) (c : EngCmd) : Bool :=
  (s.core core).fabric.all fun f => c.rows.all fun r => r.all fun p =>
    match c.instr with
    | .tst _ _ => !f.e.kind.writesAny p.1 p.2
    | _ => !f.e.kind.actsOn p.1 p.2

/-- The cycle in which K-block b of a command in execution enters the array (R310). See log entry 48. -/
def MatJob.entry (j : MatJob) (b : Nat) : Nat := j.start + kCycles j.cmd.fmt * b

/-- K-blocks that may enter, of the next n: their cycle has come, and the latch writes of that cycle have been made (R305, R310).
See log entry 48. -/
def State.enterable (s : State) (core : Nat) (m : Matrix) (j : MatJob) (n : Nat) : Nat :=
  (((List.range (min n (j.total - j.entered))).map fun k => j.entry (j.entered + k)).takeWhile fun e =>
    decide (e ≤ s.cycOf core) && m.pend.all fun p => decide (e < p.due)).length

/-- What K-blocks of a command found: bad input, or saturation under TRAP. See log entry 64. -/
def State.blocksFound (s : State) (x : Block) (m m' : Matrix) (j : MatJob) (k : Nat) : Option DataFault :=
  let bad := (List.range k).flatMap fun i => s.windowBad x j.cmd (j.entered + i)
  (bad.head?.map fun p => s.dataFault p.2).or ((trapped m m' j.cmd).map fun p => (0x17, 0, 0, mkDet 0 none p))

/-- The command of block b goes on, its tiles and planes having been read: up to n of its remaining K-blocks enter, or it runs whole.
See log entry 64. -/
def State.runJob (s : State) (core b w : Nat) (x : Block) (m : Matrix) (j : MatJob) (n : Nat) : State :=
  let put (s : State) (k : Nat) (f : Option DataFault) : State :=
    s.modCore core fun q => { q with mat := some { j with entered := j.entered + k, found := j.found.or f } }
  match productOf j.cmd.instr with
  | some o =>
    let k := s.enterable core m j n
    let m' := (List.range k).foldl (fun m i => s.enterBlock x m j.cmd o (j.entered + i)) m
    let found := s.blocksFound x m m' j k
    let t := (List.range k).foldl (fun t i => (s.windowBad x j.cmd (j.entered + i)).foldl (fun t p => t.errorFound p.2) t) s
    put (t.setMtx b m') k found
  | none =>
    let found := match j.cmd.instr with
      | .tld _ _ => (j.cmd.rows.zipIdx.findSome? (s.rowBad j.cmd)).map s.dataFault
      | .tst _ _ => (j.cmd.rows.zipIdx.findSome? (s.rowLost j.cmd)).map s.dataFault
      | _ => none
    put (s.runWhole b w x m j.cmd) 1 found

/-- The command of block b that the engine works on goes on. -/
def State.advanceJob (s : State) (core b w : Nat) (x : Block) (m : Matrix) (j : MatJob) (n : Nat) : State :=
  let r := s.readSram b j.cmd
  r.1.runJob core b w x (((r.1.block? b).bind fun x => x.mtx).getD m) { j with found := j.found.or r.2 } n

/-- The next matrix command to start: the head of the engine queue, of a block that runs and whose engine has met no fault. -/
def State.nextMatrix (s : State) (core : Nat) : Option EngCmd :=
  match s.engineHead core with
  | some c =>
    if (matrixCmd c.instr).isNone ∨ !s.mayStart c ∨ !s.storesOut core c ∨ !s.rowsClear core c then none
    else match c.owner with
      | .block b _ => if ((s.block? b).bind fun x => x.mtx).any fun m => !m.stopped then some c else none
      | .node _ _ => none
  | none => none

/-- A command that the array takes now: its first cycle follows its commit (R310). See log entry 48. -/
def State.newJob (s : State) (core : Nat) (c : EngCmd) : MatJob := ⟨c, max (s.cycOf core) (c.cyc + 1), 0, c.kBlocks, none⟩

/-- The command that the engine works on, the next one taken where it works on none (R300). -/
def State.takeJob (s : State) (core : Nat) : State × Option MatJob :=
  match (s.core core).mat with
  | some j => (s, if j.entered < j.total then some j else none)
  | none =>
    match s.nextMatrix core with
    | some c => ((s.popEngine core).modCore core fun q => { q with mat := some (s.newJob core c) }, some (s.newJob core c))
    | none => (s, none)

/-- MATRIX_EXECUTE: up to n K-blocks of the engine's command enter, each in its cycle, or the command runs whole (R300, R310).
See log entry 48. -/
def execMatrixExecute (core n : Nat) (s : State) : Out :=
  match s.takeJob core with
  | (s, some j) =>
    match j.cmd.owner with
    | .block b w =>
      match s.block? b with
      | some x =>
        match x.mtx with
        | some m => .next (s.advanceJob core b w x m j n)
        | none => .next s
      | none => .next s
    | .node _ _ => .next s
  | (s, none) => .next s

/-- A row of a tile load that the block stored to while the load ran is unspecified (R307). -/
def State.spoilRows (s : State) (b : Nat) (c : EngCmd) : State :=
  match c.instr with
  | .tld _ o =>
    s.modBlock b fun x => { x with mtx := x.mtx.map fun m => c.stale.foldl (fun m i =>
      m.putBytes o.t1.toNat (i * tshRb (c.sh 0)) (freeRow s.steps o.t1.toNat i (tshRb (c.sh 0)))) m }
  | _ => s

/-- An asynchronous fault of a matrix command: no later matrix command of the block starts, and the block stops (R302). -/
def State.matrixFault (s : State) (b w : Nat) (f : DataFault) : State :=
  let s := s.modBlock b fun x => { x with mtx := x.mtx.map fun m => { m with stopped := true } }
  if ((s.block? b).map fun x => x.exited).getD false then s.asyncBlock b f.1 f.2.1 f.2.2.1 f.2.2.2 0
  else s.asyncFault b w f.1 f.2.1 f.2.2.1 f.2.2.2 0

/-- The work of a command is done: every K-block has entered, and the cycles of the last one have passed (R310).
See log entry 48. -/
def State.jobDone (s : State) (core : Nat) (j : MatJob) : Bool :=
  decide (j.total ≤ j.entered) && ((productOf j.cmd.instr).isNone || decide (j.entry j.total ≤ s.cycOf core))

/-- MATRIX_COMPLETE: a command whose work is done leaves the engine and TL; what it found while it ran stops the block (R300,
R302). -/
def execMatrixComplete (core : Nat) (s : State) : Out :=
  match (s.core core).mat with
  | some j =>
    if !s.jobDone core j then .next s
    else
      match j.cmd.owner with
      | .block b w =>
        let s := (s.modCore core fun q => { q with mat := none }).spoilRows b j.cmd
        let s := s.modWave b w fun y => y.perform j.cmd.sid
        let s := match j.found with
          | some f => s.matrixFault b w f
          | none => s
        .next (s.settle b)
      | .node _ _ => .next s
  | none => .next s

/-- A K-block of the block's command in execution has still to enter in a cycle before c: it meets the old contents (R305). -/
def State.entersBefore (s : State) (b core c : Nat) : Bool :=
  (s.core core).mat.any fun j => j.cmd.ofBlock b && (productOf j.cmd.instr).isSome && decide (j.entered < j.total ∧ j.entry j.entered < c)

/-- TSCL_LATCH_WRITE: the oldest latch write of a block that is due is made (R304, R305). -/
def execTsclLatchWrite (b : Nat) (s : State) : Out :=
  match s.block? b with
  | some x =>
    match x.mtx with
    | some m =>
      match m.pend with
      | p :: ps =>
        if s.cycOf x.core < p.due ∨ s.entersBefore b x.core p.due then .next s
        else
          let m := { m with pend := ps, latch := p.bytes.zipIdx.foldl (fun t q => Table.set 0x7F t (128 * p.latch + q.2) q.1) m.latch }
          .next (((s.setMtx b m).modWave b p.wave fun y => y.perform p.sid).settle b)
      | [] => .next s
    | none => .next s
  | none => .next s

end Sys2Proof.Machine
end

