-- ==== Sys2Proof/Machine/TableEngine.lean ====
section
/-! DEFINITION. The table-update engine (R237 to R239) and the refill of first-touch pools (R240, R241). -/

namespace Sys2Proof.Machine

/-- The master address of the entry of an address at a level, if every level above holds a table (R230). -/
def State.entryAddr (s : State) (va level : Nat) : Nat → Nat → Nat → Option Nat
  | 0, _, _ => none
  | fuel + 1, k, table =>
    let at' := table + 8 * levelIndex k va
    if k = level then some at'
    else
      let e : DWord := BitVec.ofNat 64 (s.num at' 8)
      if pteType e = 1 then State.entryAddr s va level fuel (k + 1) (pteFrame e) else none

/-- Bytes of the home slices of a die together (R11, R20). -/
def homeBytes (die : Nat) : Nat := if die = 0 then 64 * 2 ^ 20 else 128 * 2 ^ 20

/-- Sets of the home slice of a core: 16 ways of 128-byte lines; a cluster's sets are shared out in the order of its cores (R11, R242;
log entry 25). -/
def sliceSets (core : Nat) : Nat :=
  let d := dieOf core
  let sets := homeBytes d / 2 / (16 * 128)
  let n := clusterSize d
  sets * (core % 128 + 1) / n - sets * (core % 128) / n

/-- The home slice of a line, and its set there (R242). See log entry 25. -/
def homeSetOf (line : Nat) : Nat × Nat :=
  let c := homeCore (128 * line)
  (c, Config.homeSet line % sliceSets c)

/-- The 128-byte lines of a frame. -/
def frameLines (f : Nat × Nat) : List Nat := (List.range (f.2 / 128)).map fun i => f.1 / 128 + i

/-- No home-slice set would lock more than 8 of its ways (R243). See log entry 25. -/
def State.lockFits (s : State) (f : Nat × Nat) : Bool :=
  let lines := ((f :: s.locked).flatMap frameLines).eraseDups
  (frameLines f).all fun l => decide ((lines.filter fun k => homeSetOf k = homeSetOf l).length ≤ 8)

/-- Only the Daybreak monitor maps device registers and scratchpad windows (R421). -/
def monitorOnly (e : DWord) : Bool := pteType e = 2 && (region (pteFrame e) = .mmio || region (pteFrame e) = .scratch)

/-- The engine accepts a new value (R238, R243, R245, R421). -/
def State.updateOk (s : State) (r : TableReq) : Bool :=
  let e := r.new
  let n := leafSize r.level (pteG e)
  s.entryOk r.level e && (decide (pteType e ≠ 0) || decide (pteFrame e = 0)) && (r.monitor || !monitorOnly e) && (!pteG e || r.group) &&
  (!r.group || pteType e = 0 || (decide (2 ≤ pteType e) && pteG e)) &&
  (decide (pteType e ≠ 2) ||
    (s.outsideTables (pteFrame e) n && (decide (pteHome e ≠ 2) || s.lockFits (pteFrame e, n))))

/-- The update only widens the permissions of one leaf (R239). -/
def widens (old new : DWord) : Bool :=
  pteType old = 2 && pteType new = 2 && old &&& ~~~(0xE0 : DWord) = new &&& ~~~(0xE0 : DWord) && old &&& 0xE0 &&& ~~~new = 0

/-- An update that needs a shootdown (R239). -/
def needsShootdown (old new : DWord) : Bool := decide (pteType old = 1 ∨ pteType old = 2) && !widens old new

/-- The bytes of a context's space that an entry covers. -/
def coverOf (r : TableReq) (old : DWord) : Nat × Nat :=
  let n := leafSize r.level (r.group || pteG old)
  (r.va.toNat / n * n, n)

/-- The syllable of a block's wave that a tile transfer stands for. -/
def EngCmd.tileAccess (c : EngCmd) : Option (Nat × Nat × Nat) :=
  match c.owner, c.rows with
  | .block b w, _ :: _ => some (b, w, c.sid)
  | _, _ => none

/-- The accesses that have been translated and are not performed yet, by block, wave and syllable: a load has not returned, or a store
or an atomic has not reached its home (R239). -/
def State.inFlight (s : State) : List (Nat × Nat × Nat) :=
  (s.blocks.flatMap fun e => e.2.waves.flatMap fun y =>
    (y.2.ops.filter fun o => o.ctr = .ld || o.ctr = .st).map fun o => (e.1, y.1, o.sid)) ++
  s.cores.values.flatMap fun c =>
    c.fabric.map (fun f => (f.block, f.wave, f.e.sid)) ++ (c.engineq ++ (c.mat.map fun j => j.cmd).toList).filterMap EngCmd.tileAccess

/-- SHOOTDOWN: a range leaves every TLB (R239). -/
def State.shootdown (s : State) (ctx va n : Nat) : State :=
  { s with cores := Table.map (fun _ c =>
      { c with tlb := c.tlb.filter fun t => !(decide (t.ctx = ctx ∧ t.va < va + n ∧ va < t.va + t.size)) }) s.cores }

/-- The frame of a leaf that is locked in its home slices (R243). -/
def lockedFrame (level : Nat) (e : DWord) : List (Nat × Nat) :=
  if pteType e = 2 ∧ pteHome e = 2 then [(pteFrame e, leafSize level (pteG e))] else []

/-- The scratchpad page of a leaf that is pinned, with its core (R245). -/
def pinnedPage (ctx level : Nat) (e : DWord) : Option (Nat × Nat × Nat × Nat) :=
  if pteType e = 2 ∧ pteHome e = 1 then some (windowCore (pteFrame e), windowOff (pteFrame e), leafSize level (pteG e), ctx) else none

/-- What a new leaf locks and pins. -/
def State.pinNew (s : State) (r : TableReq) : State :=
  let s := { s with locked := lockedFrame r.level r.new ++ s.locked }
  match pinnedPage r.ctx r.level r.new with
  | some p => s.modCore p.1 fun c => { c with pins := p.2 :: c.pins }
  | none => s

/-- What an old leaf locked and pinned is free again. See log entry 72. -/
def State.unpinOld (s : State) (r : TableReq) : State :=
  let s := { s with locked := (lockedFrame r.level r.expect).foldl (fun l f => l.erase f) s.locked }
  match pinnedPage r.ctx r.level r.expect with
  | some p => s.modCore p.1 fun c => { c with pins := c.pins.erase p.2 }
  | none => s

/-- The master entries that a request changes, if the tables above them stand. -/
def State.entriesOf (s : State) (r : TableReq) : Option (List Nat) :=
  (s.entryAddr r.va.toNat r.level 5 0 (rootOf (s.ctx r.ctx).ptbase)).map fun a => groupEntries a r.group

/-- Two requests change one entry. -/
def State.sameEntry (s : State) (r q : TableReq) : Bool :=
  match s.entriesOf r, s.entriesOf q with
  | some l, some m => l.any m.contains
  | _, _ => false

/-- The engine accepts a request: the context stands, the compare succeeds, and the result is allowed (R237, R238). -/
def State.accepts (s : State) (r : TableReq) : Option (List Nat) :=
  if !s.ctxExists r.ctx then none
  else match s.entriesOf r with
    | none => none
    | some es =>
      if (es.any fun m => decide (s.num m 8 ≠ r.expect.toNat)) || (pteG r.expect && !r.group) || !s.updateOk r then none else some es

/-- Steps 1 to 3 of a request: the master entries and the replicas change, and a translation that is removed or weakened leaves every
TLB. A request that is refused changes nothing; one with a shootdown stands until the accesses before it are performed. -/
def State.beginUpdate (s : State) (r : TableReq) : State × Option TableUpdate :=
  match s.accepts r with
  | none => (s, none)
  | some es =>
    let t := (es.foldl (fun t m => t.writeEntry m r.new) s).pinNew r
    if needsShootdown r.expect r.new then
      let c := coverOf r r.expect
      (t.shootdown r.ctx c.1 c.2, some ⟨r, true, s.inFlight⟩)
    else (t.unpinOld r, none)

/-- A request is acknowledged once no access from before its shootdown is left (R237, R239). -/
def State.ackUpdates (s : State) : State :=
  let now := s.inFlight
  let l := s.updates.map fun u => { u with waits := u.waits.filter now.contains }
  let acked (u : TableUpdate) : Bool := u.begun && u.waits.isEmpty
  (l.filter acked).foldl (fun s u => s.unpinOld u.req) { s with updates := l.filter fun u => !acked u }

/-- Requests that wait begin in their order, each after the ones before it that change its entry (R237). -/
def State.beginUpdates (s : State) : State :=
  s.updates.foldl (fun s u =>
    let before := s.updates
    if u.begun then { s with updates := before ++ [u] }
    else if before.any fun q => s.sameEntry q.req u.req then { s with updates := before ++ [u] }
    else
      let r := s.beginUpdate u.req
      { r.1 with updates := before ++ r.2.toList }) { s with updates := [] }

/-- A move from a state makes no first touch of an entry that an update is changing: it waits for the update's acknowledgement, since updates
to one entry are serialised (R237, R240; log entry 86). -/
def State.orderly (s : State) (o : Out) : Bool :=
  match o with
  | .next t => s.updates.all fun u => !u.begun || ((s.entriesOf u.req).getD []).all fun m => decide (t.num m 8 = s.num m 8)
  | _ => true

/-- The engine goes on with its requests. -/
def State.runUpdates (s : State) : State := if s.updates.isEmpty then s else s.ackUpdates.beginUpdates

/-- TABLE_UPDATE: a request to the engine (R237 to R239; log entry 2). -/
def execTableUpdate (r : TableReq) (s : State) : Out := .next ({ s with updates := s.updates ++ [⟨r, false, []⟩] } : State).runUpdates

/-- POOL_REFILL: the Daylight runtime adds zeroed frames of a die's HBM to its pool, which holds 64 (R240, R241, R345).
See log entry 72. -/
def execPoolRefill (die size : Nat) (frames : List Nat) (s : State) : Out :=
  if 3 ≤ die ∨ 6 ≤ size then .next s
  else
    let bytes := leafSize (4 - size / 2) (size % 2 = 1)
    let held := Table.get [] (s.die die).pools size
    let new := (frames.filter fun f => s.frameOk die f bytes && !held.contains f).take (64 - held.length)
    let s := new.foldl (fun t f => (t.zero f (f + bytes)).dropFrame f (f + bytes)) s
    .next (s.modDie die fun d => { d with pools := d.pools.put size (held ++ new), refill := d.refill.put size false })

end Sys2Proof.Machine
end

