-- ==== Sys2Proof/Machine/Placement.lean ====
section
/-! DEFINITION. Placing work (R91 to R101): what a core offers, which variant fits where, candidates, the balance of the two layers,
gangs and their reservations, and the start of a block (R57, R97, R109). -/

namespace Sys2Proof.Machine

/-! ## What a core offers (R91, R92) -/

/-- One holder of a core's resources: a resident block, or a block chosen before it (R100). -/
structure Holder where
  core : Nat
  var : Variant
  base : Nat
  deriving DecidableEq, Repr

/-- The variant may run on a core's kind (R92). -/
def Variant.allows (v : Variant) (core : Nat) : Bool := if isTile core then v.net else v.ren && !v.mtx

/-- What the target of a switch request needs beyond the block's own resources, with its scratchpad range (R412). -/
def SwitchReq.surplus (q : SwitchReq) (x : Block) : Holder :=
  let more (f : Variant → Nat) := f q.target - f x.var
  let regs := more fun v => v.vregs * v.waves
  let scal := more fun v => v.sregs * v.waves
  ⟨x.core, { q.target with waves := more fun v => v.waves, vregs := regs, sregs := scal, flags := 0, weight := 0 }, q.base⟩

/-- What a block holds, with what a switch request that stands has reserved for it (R412). -/
def Block.holdings (x : Block) : List Holder :=
  match x.switch with
  | none => [⟨x.core, x.heldVar, x.base⟩]
  | some q => [⟨x.core, x.var, x.base⟩, q.surplus x]

/-- The resident blocks and task waves as holders. -/
def State.holders (s : State) : List Holder := s.blocks.values.flatMap Block.holdings

/-- Register units and scalars a holder takes; the surplus of a switch request stands as whole counts. -/
def Holder.units (h : Holder) : Nat := if h.var.flags = 0 then h.var.vregs else h.var.vregs * h.var.waves
@[inherit_doc Holder.units] def Holder.scalars (h : Holder) : Nat := if h.var.flags = 0 then h.var.sregs else h.var.sregs * h.var.waves

/-- A sum over a core's holders. -/
def sumAt (core : Nat) (f : Holder → Nat) (hs : List Holder) : Nat :=
  ((hs.filter fun h => h.core = core).map f).foldl (· + ·) 0

/-- The placed charge of a cluster over a list of holders (R101). -/
def chargeOf (clus : Nat) (hs : List Holder) : Nat :=
  ((hs.filter fun h => clusOf h.core = clus).map fun h => h.var.weight * h.var.waves).foldl (· + ·) 0

/-- Scratchpad ranges of a core that a block may not take: other holders', pinned pages and stream rings (R91, R245). -/
def State.scratchBusy (s : State) (core : Nat) (hs : List Holder) : List (Nat × Nat) :=
  ((hs.filter fun h => h.core = core).map fun h => (h.base, h.base + h.var.scratch)) ++
  ((s.core core).pins.map fun p => (p.1, p.1 + p.2.1)) ++
  (((s.core core).rings.values.filter fun r => r.valid).map fun r => (r.base * 4096, r.base * 4096 + r.slots * r.slotsz * 256))

/-- The lowest offset of n free bytes below a limit, in 256-byte granules; offset 0 for a block without scratchpad (R92). -/
def lowestFree (busy : List (Nat × Nat)) (limit n : Nat) : Option Nat :=
  if n = 0 then some 0
  else
    let busy := busy.filter fun r => decide (r.1 < r.2)
    let starts := ascending (0 :: busy.map fun r => (r.2 + 255) / 256 * 256)
    starts.find? fun a => decide (a + n ≤ limit) && busy.all fun r => decide (a + n ≤ r.1 ∨ r.2 ≤ a)

/-- Variant v fits a core among its holders; bounds are the reservations that bind the placement (R92, R100). It answers the base
of the scratchpad range. -/
def State.fits (s : State) (hs : List Holder) (bounds : List Reserved) (v : Variant) (core : Nat) : Option Nat :=
  if v.allows core ∧ v.waves + sumAt core (fun h => h.var.waves) hs ≤ 96 ∧
      v.vregs * v.waves + sumAt core Holder.units hs ≤ 4096 ∧ v.sregs * v.waves + sumAt core Holder.scalars hs ≤ 24576 ∧
      (!v.mtx || (hs.all fun h => h.core ≠ core || !h.var.mtx)) ∧
      (bounds.all fun r => decide (v.waves ≤ r.slots ∧ v.vregs * v.waves ≤ r.units ∧ v.sregs * v.waves ≤ r.scalars) && (!v.mtx || r.mtx)) then
    lowestFree (s.scratchBusy core hs ++ bounds.flatMap fun r => r.busy) (dequeBase core) v.scratch
  else none

/-- The lowest-numbered variant that fits a core (R94, R108). -/
def State.firstFit (s : State) (hs : List Holder) (bounds : List Reserved) (vs : List Variant) (core : Nat) : Option Holder :=
  vs.findSome? fun v => (s.fits hs bounds v core).map fun base => ⟨core, v, base⟩

/-- Blocks and task waves may be placed: the device is in service, and it is not changing to full service (R74, R426). -/
def State.placing (s : State) : Bool := decide (1 ≤ s.host.phase ∧ s.host.phase ≤ 2) && s.fw.training.isNone

/-! ## Candidates (R94, R95) -/

/-- The candidate of a cluster: its lowest-numbered core on which some variant fits. -/
def State.candidate (s : State) (hs : List Holder) (bounds : Nat → List Reserved) (vs : List Variant) (clus : Nat) : Option Holder :=
  (coresOf clus).findSome? fun c => s.firstFit hs (bounds c) vs c

/-- The difference of a die's layers with a candidate placed. -/
def diffWith (hs : List Holder) (die : Nat) (h : Holder) : Nat :=
  let top := chargeOf (2 * die) (h :: hs)
  let bot := chargeOf (2 * die + 1) (h :: hs)
  (top - bot) + (bot - top)

/-- The candidate a die receives a block by (R95). -/
def State.onDie (s : State) (hs : List Holder) (bounds : Nat → List Reserved) (vs : List Variant) (die : Nat) : Option Holder :=
  match s.candidate hs bounds vs (2 * die), s.candidate hs bounds vs (2 * die + 1) with
  | some a, some b => some (if diffWith hs die b < diffWith hs die a then b else a)
  | some a, none => some a
  | none, b => b

/-- The pair of a die has power, or gates at this moment (R94, R105). See log entry 77. -/
def Die.hasPower (d : Die) : Bool := d.gate = .powered || d.gate = .gating

/-- The dies a placement considers, in order: those with power first (R94). A die out of service has no place. See log entry 77. -/
def State.dieOrder (s : State) : List Nat :=
  let l := [1, 2, 0].filter fun d => (s.die d).inService
  l.filter (fun d => (s.die d).hasPower) ++ l.filter fun d => !(s.die d).hasPower

/-- The core, the variant and the range a block goes to. -/
def State.choose (s : State) (dies : List Nat) (hs : List Holder) (bounds : Nat → List Reserved) (vs : List Variant) : Option Holder :=
  dies.findSome? fun d => s.onDie hs bounds vs d

/-- A candidate for each of n members in turn, those chosen already counted as placed (R100); none if one has none. -/
def State.chooseAll (s : State) (dies : List Nat) (bounds : Nat → List Reserved) (vs : List Variant) :
    Nat → List Holder → Option (List Holder)
  | 0, _ => some []
  | n + 1, hs =>
    match s.choose dies hs bounds vs with
    | none => none
    | some h => (State.chooseAll s dies bounds vs n (h :: hs)).map fun l => h :: l

/-- Every member of a gang of n could be resident on an empty device (R62, R99). A member takes a wave slot, so that no gang is
larger than the slots of all cores. -/
def State.feasible (s : State) (vs : List Variant) (n : Nat) : Bool :=
  decide (n ≤ 304 * 96) && (s.chooseAll [1, 2, 0] (fun _ => []) vs n []).isSome

/-- A variant that fits an empty core of a kind it allows (R49). -/
def Variant.placeable (v : Variant) : Bool :=
  [0, 256].any fun c => v.allows c && decide (v.vregs * v.waves ≤ 4096 ∧ v.sregs * v.waves ≤ 24576 ∧ v.scratch ≤ dequeBase c)

/-! ## Reservations (R100; log entry 35) -/

/-- The reservations that bind a placement of a priority on a core: those of gangs of equal or higher priority. A gang that holds a
reservation is not bound by that of a launch of its own priority that was accepted after it. See log entry 35. -/
def State.bounds (s : State) (launch prio : Nat) (gang : Bool) (core : Nat) : List Reserved :=
  let mine := gang && ((s.launch? launch).map fun l => decide (l.resv ≠ [])).getD false
  s.launches.filterMap fun e =>
    if e.1 = launch ∧ gang then none
    else if e.2.status ≠ .placing ∨ prio < e.2.prio ∨ (mine ∧ e.2.prio = prio ∧ launch < e.1) then none
    else e.2.resv.find? core

/-- What a core has free now: a reservation that begins withholds whatever is freed from here on. See log entry 35. -/
def State.reserveNow (s : State) (core : Nat) : Reserved :=
  let hs := s.holders
  { slots := 96 - sumAt core (fun h => h.var.waves) hs
    units := 4096 - sumAt core Holder.units hs
    scalars := 24576 - sumAt core Holder.scalars hs
    mtx := hs.all fun h => h.core ≠ core || !h.var.mtx
    busy := s.scratchBusy core hs }

/-- The cores of the dies that the variants may use. -/
def usableCores (vs : List Variant) : List Nat := allCores.filter fun c => vs.any fun v => v.allows c

/-- A gang that cannot start holds a reservation. See log entry 35. -/
def State.holdBack (s : State) (launch : Nat) : State :=
  s.modLaunch launch fun l => if l.resv = [] then { l with resv := (usableCores l.variants).map fun c => (c, s.reserveNow c) } else l

/-- What a placement leaves of a reservation: a block takes what is not withheld. -/
def Reserved.take (r : Reserved) (h : Holder) : Reserved :=
  { slots := r.slots - h.var.waves, units := r.units - h.units, scalars := r.scalars - h.scalars, mtx := r.mtx && !h.var.mtx,
    busy := if h.var.scratch = 0 then r.busy else (h.base, h.base + h.var.scratch) :: r.busy }

/-- What a reservation leaves to a block that counts its own resources as free (R100, R413). -/
def Reserved.back (r : Reserved) (h : Holder) : Reserved :=
  { slots := r.slots + h.var.waves, units := r.units + h.units, scalars := r.scalars + h.scalars, mtx := r.mtx || h.var.mtx,
    busy := r.busy.erase (h.base, h.base + h.var.scratch) }

/-- The reservations that bind a switch of a block, its own resources counted as free (R100, R412, R413). -/
def State.boundsOf (s : State) (x : Block) : List Reserved :=
  let prio := ((s.launch? x.launch).map fun l => l.prio).getD 3
  (s.bounds x.launch prio false x.core).map fun r => x.holdings.foldl Reserved.back r

/-- Every reservation after a placement. -/
def State.taken (s : State) (h : Holder) : State :=
  { s with launches := Table.map (fun _ l =>
      match l.resv.find? h.core with
      | some r => { l with resv := l.resv.put h.core (r.take h) }
      | none => l) s.launches }

/-! ## The start of a block -/

/-- The generator state of a lane of a dispatcher-placed block (R31). -/
def startRng (seed : Word) (b w lane : Nat) : Word :=
  let v := seed ^^^ (toWord b * 0x9E3779B9) ^^^ toWord (w * 128 + lane)
  if v = 0 then 1 else v

/-- s1 to s32 from the parameter block, within the variant's budget (R57). -/
def paramRegs (v : Variant) (param : List Word) : Table Word :=
  (param.zipIdx.filter fun p => decide (p.2 + 1 < v.sregs)).foldl (fun t p => Table.set 0 t (p.2 + 1) p.1) []

/-- A wave at block start: threads in lanes 0 to n - 1 at ENTRY; every other register zero (R57, R109). -/
def Wave.start (v : Variant) (param : List Word) (n : Nat) (rng : Nat → Word) : Wave :=
  let y := { Wave.empty with living := BitVec.ofNat 128 (2 ^ n - 1), s := paramRegs v param }
  let y := (List.range n).foldl (fun y l => y.setPc l (BitVec.ofNat 53 v.entry)) y
  (List.range 128).foldl (fun y l => y.setRng l (rng l)) y

/-- A block about to start at a place. -/
def Holder.block (h : Holder) (launch : Nat) (l : Launch) (task : Bool) (blin now : Nat) (waves : Table Wave) : Block :=
  { var := h.var, launch := launch, ctx := l.ctx, priv := false, task := task, blin := blin, core := h.core, base := h.base,
    waves := waves, barriers := [], kctx := [], mtx := if h.var.mtx then some Matrix.initial else none, switch := none, stop := none,
    exited := false, movedAt := none, placedAt := now, grow := [], frags := [], withdrawn := [], passing := [] }

/-- A placement breaks a pair's idleness: gating aborts (R105). -/
def State.occupy (s : State) (h : Holder) : State := (s.taken h).breakIdle (dieOf h.core)

/-- A block starts: its scratchpad range is unspecified (R92), and it sees what its predecessors' launches wrote (R84). -/
def State.startBlock (s : State) (h : Holder) (x : Block) : State :=
  let s := s.occupy h
  let s := { s with blocks := s.blocks.put s.disp.nextBlock x, disp := { s.disp with nextBlock := s.disp.nextBlock + 1 } }
  (s.forget (windowPa h.core h.base) (windowPa h.core (h.base + h.var.scratch))).acquire h.core 4

/-- Member b of a launch starts at a place. -/
def State.startMember (s : State) (launch : Nat) (l : Launch) (b : Nat) (h : Holder) : State :=
  let waves := (List.range h.var.waves).map fun w => (w, Wave.start h.var l.param l.lanes fun k => startRng l.seed b w k)
  let s := s.startBlock h (h.block launch l false b s.now waves)
  s.modLaunch launch fun l =>
    { l with placed := l.placed ++ [b], started := if l.placed = [] then s.now else l.started, starved := none }

/-- The gang of a member, or the member alone. -/
def Launch.gangOf (l : Launch) (b : Nat) : List Nat := (l.gangs.find? fun g => g.contains b).getD [b]

/-- The next block in index order that is not placed; fuel bounds the search. -/
def nextUnplaced (placed : List Nat) : Nat → Nat → Nat
  | 0, b => b
  | fuel + 1, b => if placed.contains b then nextUnplaced placed fuel (b + 1) else b

/-- A restore of a block of equal or higher priority waits, and is served first (R401). -/
def State.restoreAhead (s : State) (prio : Nat) : Bool :=
  s.disp.requests.any fun r => decide (r.action < 2) &&
    match s.images.find? fun i => i.addr = r.image with
    | some i => ((s.launch? i.launch).map fun l => decide (l.prio ≤ prio)).getD false
    | none => false

/-- An earlier launch of the same queue still has blocks to place (R83). -/
def State.queueAhead (s : State) (launch : Nat) (l : Launch) : Bool :=
  s.launches.any fun e => decide (e.1 < launch ∧ e.2.queue = l.queue ∧ e.2.status = .placing)

/-- The launch may place its next block: its turn has come and its class is not shed (R83, R96, R401, R426). -/
def State.mayPlace (s : State) (launch : Nat) (l : Launch) : Bool :=
  s.placing && l.status = .placing && !s.queueAhead launch l && !s.power.isShed l.pclass && !s.restoreAhead l.prio

/-- Dies whose pairs must wake before the chosen places can be used; they begin to. -/
def State.wakeFor (s : State) (hs : List Holder) : State × Bool :=
  let ds := (hs.map fun h => dieOf h.core).eraseDups.filter fun d => !(s.die d).hasPower
  (ds.foldl (fun s d => if (s.die d).gate = .gated then s.breakIdle d else s) s, !ds.isEmpty)

/-- A launch after a member or a gang has started. -/
def Launch.advance (l : Launch) : Launch :=
  let n := nextUnplaced l.placed (l.placed.length + 1) l.next
  { l with next := n, resv := [], starved := none, status := if n < l.total then .placing else .placed }

/-- The members that a launch starts next and their places, if it may and all of them have one (R94, R100). -/
def State.placePlan (s : State) (launch : Nat) (l : Launch) : Option (List Nat × List Holder) :=
  if !s.mayPlace launch l then none
  else
    let ms := l.gangOf l.next
    (s.chooseAll s.dieOrder (s.bounds launch l.prio (l.gangs.any fun g => g.contains l.next)) l.variants ms.length s.holders).map
      fun hs => (ms, hs)

/-- The dispatcher can act on the places now: their pairs have power, or one of them has still to begin to wake (R104). -/
def State.actsOn (s : State) (hs : List Holder) : Bool :=
  let ds := hs.map (fun h => dieOf h.core) |>.filter fun d => !(s.die d).hasPower
  ds.isEmpty || ds.any fun d => (s.die d).gate = .gated

/-- The priority of a launch queue in QPRIO (R83). -/
def State.queuePrio (s : State) (queue : Nat) : Nat := s.host.qprio.toNat / 4 ^ queue % 4

/-- Turns until a queue comes round, after the one served last (R83). See log entry 65. -/
def State.turnOf (s : State) (queue : Nat) : Nat := (queue + 15 - s.disp.lastQueue) % 16

/-- A queue is served before another: by its priority number, and among equal ones in turn (R83). See log entry 65. -/
def State.servedBefore (s : State) (prio queue prio' queue' : Nat) : Bool :=
  decide (prio < prio' ∨ (prio = prio' ∧ s.turnOf queue < s.turnOf queue'))

/-- Another queue, with a launch to accept or with a block that can be placed, goes before this one (R83; log entry 65). -/
def State.queueBefore (s : State) (prio queue : Nat) : Bool :=
  (s.disp.queues.any fun e => decide (e.1 ≠ queue) && !e.2.isEmpty && s.servedBefore (s.queuePrio e.1) e.1 prio queue) ||
  s.launches.any fun e => decide (e.2.queue ≠ queue) && s.servedBefore e.2.prio e.2.queue prio queue &&
    (s.placePlan e.1 e.2).any fun p => s.actsOn p.2

/-- The places at which a launch's next members start now. -/
def State.servedNow (s : State) (launch : Nat) (l : Launch) : Option (List Holder) :=
  if s.queueBefore l.prio l.queue then none
  else (s.placePlan launch l).bind fun p => if s.actsOn p.2 then some p.2 else none

end Sys2Proof.Machine
end

