-- ==== Sys2Proof/Machine/Records.lean ====
section
/-! DEFINITION. Records that the dispatcher and the queue engines read from memory: kernel images and variants (R46 to R49), launch
records (R55, R56), cohort tables (R61, R62) and gangs (R99). -/

namespace Sys2Proof.Machine

/-- The dispatcher, whose walks are those of die 1 (R236). -/
def dispatcher (ctx : Nat) : Runner := ⟨256, ctx, none⟩

/-- The sub-cause of a record that cannot be read (R45; log entry 36). -/
def EngStop.sub : EngStop → Nat
  | .check f => f.cause
  | .die _ _ => 0x23

/-- n bytes of a context's global memory, or the sub-cause of the failure (R45). -/
def State.readVa (s : State) (q : Runner) (va n : Nat) : State × Except Nat (List Byte) :=
  match s.readRuns q 0 0 [((va : Int), n)] with
  | (s, .ok r) => (s, .ok r.1)
  | (s, .error e) => (s, .error e.sub)

/-! ## Kernel images -/

/-- The variant descriptor number i of the kernel at an address, if it keeps R47 and R48. -/
def variantOf (kernel i : Nat) (d : List Byte) : Option Variant :=
  let n (lo k : Nat) := field d lo k
  let entry := n 0 8
  let vregs := n 8 1
  let rotv := n 18 1
  let fl := n 17 1
  let ok :=
    decide (entry % 8 = 0 ∧ kernel + entry < 2 ^ 52) && decide (vregs % 8 = 0 ∧ 8 ≤ vregs ∧ vregs ≤ 128) &&
    decide (1 ≤ n 9 1 ∧ n 9 1 ≤ 16) && decide (n 10 2 % 16 = 0 ∧ 16 ≤ n 10 2 ∧ n 10 2 ≤ 384) && decide (n 12 4 % 256 = 0) &&
    decide (n 16 1 < 16 ∧ fl < 8) && decide (rotv = 0 ∨ (rotv % 8 = 0 ∧ 8 ≤ rotv ∧ rotv ≤ 64 ∧ rotv ≤ vregs)) && zeroField d 19 45 &&
    decide (fl % 2 = 0 ∨ fl / 2 % 2 = 1) && decide (fl / 2 ≠ 0)
  if ok then
    some { kernel := kernel, index := i, entry := kernel + entry, vregs := vregs, waves := n 9 1, sregs := n 10 2, scratch := n 12 4,
           weight := n 16 1, flags := BitVec.ofNat 3 fl, rotv := rotv }
  else none

/-- A kernel image header keeps R46. -/
def headerOk (h : List Byte) : Bool :=
  decide (field h 0 4 = 0x4B5A4C47 ∧ field h 4 2 = 1 ∧ 1 ≤ field h 6 1 ∧ field h 6 1 ≤ 4 ∧ field h 12 2 ≤ 256) &&
  zeroField h 7 1 && decide (field h 12 2 ≠ 0 ∨ field h 8 4 = 0) && zeroField h 14 50

/-- Every element of a list, or none. -/
def allSome {α : Type} : List (Option α) → Option (List α)
  | [] => some []
  | a :: r => match a, allSome r with
    | some x, some l => some (x :: l)
    | _, _ => none

/-- The variants of the kernel image at an address, or the sub-cause of the failure, 0 where a field is wrong (R46 to R48). -/
def State.readKernel (s : State) (q : Runner) (kernel : Nat) : State × Except Nat (List Variant) :=
  match s.readVa q kernel 64 with
  | (s, .error c) => (s, .error c)
  | (s, .ok h) =>
    if !headerOk h then (s, .error 0)
    else match s.readVa q (kernel + 64) (64 * field h 6 1) with
      | (s, .error c) => (s, .error c)
      | (s, .ok d) =>
        match allSome ((List.range (field h 6 1)).map fun i => variantOf kernel i ((d.drop (64 * i)).take 64)) with
        | some vs => (s, .ok vs)
        | none => (s, .error 0)

/-! ## Launch records -/

/-- A launch that fails: cause, address and details (R68). -/
structure LaunchFail where
  cause : Nat
  addr : DWord
  det : DWord
  deriving DecidableEq, Repr

/-- LAUNCH_RECORD_INVALID of the record at an address, with the sub-cause of a failed read (R45, R386; log entry 36). -/
def recordFail (addr sub : Nat) : LaunchFail := ⟨0x24, BitVec.ofNat 64 addr, mkDet sub none 0⟩

/-- A SIG field: 0, or a handle of kind 2 or 4 with its reserved bits zero (R368). -/
def sigOk (h : Word) : Bool := h = 0 || ((handleKind h = 2 || handleKind h = 4) && handleBitsOk h)

/-- The fields of a launch record are in their ranges (R55, R56). -/
def launchRecordOk (bs : List Byte) : Bool :=
  let n (lo k : Nat) := field bs lo k
  decide (n 0 8 % 64 = 0 ∧ n 0 8 < 2 ^ 52) && decide (1 ≤ n 8 2 ∧ 1 ≤ n 10 2 ∧ 1 ≤ n 12 1) && zeroField bs 13 1 &&
  decide (1 ≤ n 14 2 ∧ n 14 2 ≤ 128) && decide (n 16 2 < 4 ∧ n 18 1 < 4 ∧ n 19 1 < 4) && sigOk (word4 bs 32) && sigOk (word4 bs 36) &&
  decide (n 40 8 % 64 = 0 ∧ n 48 2 ≤ 256) && decide ((n 48 2 = 0) ↔ (n 40 8 = 0)) && zeroField bs 50 6 && decide (n 56 8 % 64 = 0) &&
  zeroField bs 96 32

/-- An accepted launch's record as its fields give it; the rest is set by acceptance. -/
def launchOf (bs : List Byte) : Launch :=
  { tag := 0, replay := 0, replayNo := 0, node := 0, ctx := 0, queue := 0, prio := 0, kernel := field bs 0 8, variants := [],
    gx := field bs 8 2, gy := field bs 10 2, gz := field bs 12 1, lanes := field bs 14 2, lflags := BitVec.ofNat 2 (field bs 16 2),
    pclass := field bs 18 1, tclass := field bs 19 1, seed := word4 bs 20, deadline := dword8 bs 24, gov := 0, sig0 := word4 bs 32,
    sig1 := word4 bs 36, doneAt := dword8 bs 56, fmt := (List.range 8).map fun i => word4 bs (64 + 4 * i),
    param := (List.range 32).map fun i => word4 bs (128 + 4 * i), cohorts := [], gangs := [], placed := [], next := 0, exited := [],
    triggered := [], tasksOpen := 0, started := 0, blocksOut := 0, tasksRun := 0, switches := 0, moves := 0, parks := 0, early := [],
    resv := [], starved := none, status := .placing }

/-! ## Cohorts and gangs -/

/-- A cohort entry keeps the ranges of R61 in a grid of n blocks (R62). -/
def cohortEntryOk (total : Nat) (bs : List Byte) : Bool :=
  decide (1 ≤ field bs 8 4 ∧ 1 ≤ field bs 12 4 ∧ 1 ≤ field bs 16 1 ∧ field bs 16 1 < 4) && zeroField bs 17 15 &&
  decide (field bs 0 8 + (field bs 8 4 - 1) * field bs 12 4 < total)

/-- A cohort entry at acceptance. -/
def cohortOf (bs : List Byte) : Cohort :=
  { first := field bs 0 8, count := field bs 8 4, stride := field bs 12 4, kinds := BitVec.ofNat 2 (field bs 16 1), cphase := 0,
    arrived := [], warr := [], wpend := [] }

/-- The block belongs to the entry. -/
def Cohort.has (c : Cohort) (b : Nat) : Bool := decide (c.first ≤ b ∧ (b - c.first) % c.stride = 0 ∧ (b - c.first) / c.stride < c.count)

/-- Entry n makes some block a member of more than four entries (R62). -/
def crowded (cs : List Cohort) (n : Nat) : Bool :=
  match cs[n]? with
  | some c => c.members.any fun b => decide (4 < ((cs.take (n + 1)).filter fun d => d.has b).length)
  | none => false

/-- The first entry of a cohort table that fails (R62): its own fields, five memberships, or members that cannot all be resident. -/
def State.cohortFails (s : State) (vs : List Variant) (total : Nat) (raw : List (List Byte)) : Option Nat :=
  let cs := raw.map cohortOf
  (List.range raw.length).find? fun n =>
    match raw[n]?, cs[n]? with
    | some r, some c => !cohortEntryOk total r || (c.isBarrier && !s.feasible vs c.count) || crowded cs n
    | _, _ => false

/-- Two lists of members share one. -/
def sharesMember (a b : List Nat) : Bool := a.any fun x => b.contains x

/-- A set of members joined to the gangs that share a member with it (R99). -/
def joinGang (g : List Nat) (gs : List (List Nat)) : List (List Nat) :=
  ascending (g ++ (gs.filter (sharesMember g)).flatten) :: gs.filter fun h => !sharesMember g h

/-- The gangs of a launch's barrier domains (R99): every domain joined with all that share members. -/
def gangsOf (cs : List Cohort) : List (List Nat) := (cs.filter fun c => c.isBarrier).foldl (fun gs c => joinGang c.members gs) []

/-- The gangs of a launch, tested (R99): the whole grid alone where LFLAGS.CORES is 1; a gang that is the whole grid fails under its own
cause. -/
def State.formGangs (s : State) (l : Launch) (vs : List Variant) (cs : List Cohort) : Except LaunchFail (List (List Nat)) :=
  let gs := if l.lflags.getLsbD 0 then [List.range l.total] else gangsOf cs
  match gs.find? fun g => !s.feasible vs g.length with
  | some g =>
    if g.length = l.total then .error ⟨0x25, BitVec.ofNat 64 l.kernel, 0⟩
    else .error ⟨0x1C, 0, mkDet 0 none ((cs.findIdx? fun c => c.isBarrier && sharesMember g c.members).getD 0)⟩
  | none => .ok gs

/-- The cohort table of a launch, read and checked, and its gangs (R62, R99); R62's entries are tested before R99's gangs, also where an entry
that cannot be resident covers the whole grid or LFLAGS.CORES is 1. See log entries 36 and 82. -/
def State.readCohorts (s : State) (q : Runner) (l : Launch) (vs : List Variant) (addr n : Nat) :
    State × Except LaunchFail (List Cohort × List (List Nat)) :=
  match s.readVa q addr (32 * n) with
  | (s, .error c) => (s, .error ⟨0x1C, 0, mkDet c none 0⟩)
  | (s, .ok bs) =>
    let raw := (List.range n).map fun k => (bs.drop (32 * k)).take 32
    match s.cohortFails vs l.total raw with
    | some k => (s, .error ⟨0x1C, 0, mkDet 0 none k⟩)
    | none =>
      match s.formGangs l vs (raw.map cohortOf) with
      | .ok gs => (s, .ok (raw.map cohortOf, gs))
      | .error f => (s, .error f)

/-- A launch record at acceptance (R48, R49, R56, R62, R99): the launch, or how it fails. Which check wins, and that the address of a bad
kernel image is that of its header, is the model's choice (log entry 82). -/
def State.readLaunch (s : State) (ctx addr : Nat) : State × Except LaunchFail Launch :=
  let q := dispatcher ctx
  if addr % 64 ≠ 0 then (s, .error (recordFail addr 0))
  else match s.readVa q addr 256 with
    | (s, .error c) => (s, .error (recordFail addr c))
    | (s, .ok bs) =>
      if !launchRecordOk bs then (s, .error (recordFail addr 0))
      else
        let l := launchOf bs
        match s.readKernel q l.kernel with
        | (s, .error c) => (s, .error (recordFail l.kernel c))
        | (s, .ok vs) =>
          if !vs.any Variant.placeable then (s, .error ⟨0x25, BitVec.ofNat 64 l.kernel, 0⟩)
          else match s.readCohorts q l vs (field bs 40 8) (field bs 48 2) with
            | (s, .error f) => (s, .error f)
            | (s, .ok r) => (s, .ok { l with ctx := ctx, variants := vs, cohorts := r.1, gangs := r.2 })

end Sys2Proof.Machine
end

