-- ==== Sys2Proof/Machine/HostPort.lean ====
section
/-! DEFINITION. The host link: the registers of BAR0 (R69 to R75), the registration of task graphs (R76 to R78, R368), kicks (R75, R79)
and the event ring's registers (R90). -/

namespace Sys2Proof.Machine

/-- The device works: dawn or full service. Halted, only the mailbox answers (R74, R424, R427). -/
def State.working (s : State) : Bool := decide (1 ≤ s.host.phase ∧ s.host.phase ≤ 2)

/-- BAR0 registers changed. -/
def State.modHost (s : State) (f : HostIf → HostIf) : State := { s with host := f s.host }

/-! ## Task graphs -/

/-- The handle of a timeline node (R77, R363, R368). -/
def nodeHandleOk (kind : Nat) (a : DWord) : Bool :=
  let h := loWord a
  let k := handleKind h
  hiWord a = 0 && handleBitsOk h && (k = 2 || (k = 4 && kind = 4) || (k = 3 && kind = 3 && coreExists (handleRing h).1 && isTile (handleRing h).1))

/-- The 64 bytes of a node as its fields give it (R77). -/
def nodeOf (bs : List Byte) : Node :=
  { kind := field bs 0 1, opt := decide (field bs 1 1 % 2 = 1), queue := field bs 2 1 % 16, cost := field bs 4 4, a := dword8 bs 8,
    b := dword8 bs 16, c := dword8 bs 24, d := dword8 bs 32, gpt := field bs 40 2 }

/-- A governor point's GFIRST and GMAX (R77). -/
def Node.first (n : Node) : Nat := n.a.toNat % 2 ^ 16
@[inherit_doc Node.first] def Node.gmax (n : Node) : Nat := n.a.toNat / 2 ^ 16 % 2 ^ 16

/-- A node keeps R77 by itself, and R368. -/
def nodeOk (bs : List Byte) : Bool :=
  let n := nodeOf bs
  decide (1 ≤ n.kind ∧ n.kind ≤ 6 ∧ field bs 1 1 < 2 ∧ field bs 2 1 < 16) && zeroField bs 3 1 && zeroField bs 42 22 &&
  (n.opt || n.cost = 0) && (decide (n.kind = 1) || (n.queue = 0 && n.gpt = 0xFFFF)) &&
  match n.kind with
  | 1 => n.b = 0 && n.c = 0 && n.d = 0
  | 3 => n.c = 0 && n.d = 0 && nodeHandleOk 3 n.a
  | 4 => n.c = 0 && n.d = 0 && nodeHandleOk 4 n.a
  | 5 => hiWord n.a = 0 && n.c = 0 && n.d = 0 && decide (1 ≤ n.gmax ∧ n.gmax ≤ 64)
  | _ => decide (n.d.toNat < 4)

/-- The descendants of a node: edges lead upward, so that one pass in ascending order finds them. -/
def descendants (edges : List (Nat × Nat)) (n g : Nat) : List Nat :=
  (List.range n).foldl (fun acc i => if edges.any fun e => decide (e.2 = i ∧ e.1 < i) && (e.1 = g || acc.contains e.1) then acc ++ [i] else acc) []

/-- The governor points of a graph. -/
def governors (nodes : List Node) : List Nat := (List.range nodes.length).filter fun i => (nodes[i]?.map fun n => n.kind) = some 5

/-- A launch node's GPT is 0xFFFF or names an ancestor governor point (R78). See log entry 37. -/
def gptOk (nodes : List Node) (edges : List (Nat × Nat)) (i : Nat) (n : Node) : Bool :=
  decide (n.kind ≠ 1 ∨ n.gpt = 0xFFFF) || ((governors nodes).contains n.gpt && (descendants edges nodes.length n.gpt).contains i)

/-- The range of a governor point keeps R78. -/
def rangeOk (nodes : List Node) (edges : List (Nat × Nat)) (g : Nat) (n : Node) : Bool :=
  decide (n.first + n.gmax ≤ nodes.length) &&
  let ds := descendants edges nodes.length g
  (List.range n.gmax).all fun k => match nodes[n.first + k]? with
    | some m => m.opt && m.kind ≠ 5 && ds.contains (n.first + k)
    | none => false

/-- An optional node lies in exactly one governor range (R78). See log entry 37. -/
def coveredOnce (nodes : List Node) (i : Nat) (n : Node) : Bool :=
  !n.opt || ((governors nodes).filter fun g => match nodes[g]? with
    | some m => decide (m.first ≤ i ∧ i < m.first + m.gmax)
    | none => false).length = 1

/-- The graph header keeps R76. -/
def graphHeaderOk (h : List Byte) : Bool :=
  decide (field h 0 4 = 0x48524754 ∧ field h 4 2 = 1 ∧ 1 ≤ field h 6 2 ∧ field h 6 2 ≤ 4096 ∧ field h 8 4 ≤ 65536) &&
  zeroField h 12 4 && zeroField h 32 32 && decide (field h 16 8 % 64 = 0 ∧ field h 24 8 % 4 = 0)

/-- REASON for a graph's bytes that have been read, 0 where it is accepted (R78; log entry 37). -/
def graphReason (h nb eb : List Byte) : Nat × List Node × List (Nat × Nat) :=
  let nn := field h 6 2
  let raw := (List.range nn).map fun i => (nb.drop (64 * i)).take 64
  let nodes := raw.map nodeOf
  let edges := (List.range (field h 8 4)).map fun i => (field eb (4 * i) 2, field eb (4 * i + 2) 2)
  let reason :=
    if !graphHeaderOk h then 1
    else if !raw.all nodeOk ∨ !(nodes.zipIdx.all fun p => gptOk nodes edges p.2 p.1) then 2
    else if !edges.all fun e => decide (e.1 < e.2 ∧ e.2 < nn) then 3
    else if !((governors nodes).all fun g => match nodes[g]? with
        | some n => rangeOk nodes edges g n
        | none => true) ∨ !(nodes.zipIdx.all fun p => coveredOnce nodes p.2 p.1) then 4
    else 0
  (reason, nodes, edges)

/-- The lowest free graph handle (R75; log entry 37). -/
def State.freeHandle (s : State) : Option Nat := (List.range 4096).find? fun h => decide (h ≠ 0) && (s.graph? h).isNone

/-- GRSTAT (R78). -/
def grstat (state handle reason : Nat) : Word := toWord (state * 2 ^ 30 + handle * 2 ^ 16 + reason)

/-- A refused registration or unregistration. The manual states GHANDLE for reasons 9 and 10 only (R78; log entry 83). -/
def State.grRefuse (s : State) (handle reason : Nat) : State := s.modHost fun h => { h with grstat := grstat 3 handle reason }

/-- The graph object at an address: header, nodes, edges (R78). -/
def State.readGraph (s : State) (q : Runner) (at' : Nat) : State × Except Nat (List Byte × List Byte × List Byte) :=
  match s.readVa q at' 64 with
  | (s, .error c) => (s, .error c)
  | (s, .ok h) =>
    match s.readVa q (at' + field h 16 8) (64 * field h 6 2) with
    | (s, .error c) => (s, .error c)
    | (s, .ok nb) =>
      match s.readVa q (at' + field h 24 8) (4 * field h 8 4) with
      | (s, .error c) => (s, .error c)
      | (s, .ok eb) => (s, .ok (h, nb, eb))

/-- The graph at GRADDR in context GRCTX is registered, or refused (R78). -/
def State.register (s : State) : State :=
  let ctx := s.host.grctx.toNat
  if !s.ctxExists ctx then s.grRefuse 0 7
  else match s.readGraph (dispatcher ctx) s.host.graddr.toNat with
    | (s, .error _) => s.grRefuse 0 6
    | (s, .ok (h, nb, eb)) =>
      let r := graphReason h nb eb
      if r.1 ≠ 0 then s.grRefuse 0 r.1
      else match s.freeHandle with
        | none => s.grRefuse 0 5
        | some k =>
          { s with graphs := s.graphs.put k { handle := k, ctx := ctx, nodes := r.2.1, edges := r.2.2, replays := 0 },
                   host := { s.host with grstat := grstat 2 k 0 } }

/-- A replay of a handle is queued or running (R78). -/
def State.replaying (s : State) (h : Nat) : Bool :=
  (s.host.kicks.any fun k => k.handle = h) || s.replays.values.any fun r => decide (r.handle = h) && !r.finished

/-- A handle is unregistered, or refused (R78). -/
def State.unregister (s : State) (h : Nat) : State :=
  if h = 0 ∨ (s.graph? h).isNone then s.grRefuse h 10
  else if s.replaying h then s.grRefuse h 8
  else { s with graphs := s.graphs.erase h, host := { s.host with grstat := grstat 2 h 0 } }

/-- The code of a GRCMD write, 0 where a reserved code or bit makes it one to refuse (R73). See log entry 75. -/
def grCode (v : BitVec 32) : Nat := if v.toNat % 4 = 3 ∨ v &&& 0xF000FFFC ≠ 0 then 0 else v.toNat % 4
/-- The handle a GRCMD write names. -/
def grHandle (v : BitVec 32) : Nat := v.toNat / 2 ^ 16 % 2 ^ 12

/-- A write of GRCMD acts: the device works and no registration is in progress (R78). -/
def State.grActs (s : State) : Bool := s.working && decide (s.host.grstat.toNat / 2 ^ 30 ≠ 1)

/-- A write of GRCMD (R78). See log entry 13. -/
def State.grcmd (s : State) (v : BitVec 32) : State :=
  if !s.grActs then s
  else match grCode v with
    | 1 => s.register
    | 2 => s.unregister (grHandle v)
    | _ => s.grRefuse 0 9

/-- GRCMD_REGISTER, R78. -/
def execGrcmdRegister (v : BitVec 32) (s : State) : Out := .next (if grCode v = 1 then s.grcmd v else s)
/-- GRCMD_UNREGISTER, R78. -/
def execGrcmdUnregister (v : BitVec 32) (s : State) : Out := .next (if grCode v = 2 then s.grcmd v else s)
/-- GRCMD_INVALID, R78. -/
def execGrcmdInvalid (v : BitVec 32) (s : State) : Out := .next (if grCode v = 0 then s.grcmd v else s)

/-! ## Kicks -/

/-- Why a kick is refused, 0 where it is not (R75, R90): the first of FIFO full, handle, reserved bits. -/
def State.kickReason (s : State) (v : BitVec 64) : Nat :=
  if 64 ≤ s.host.kicks.length then 1
  else if (s.graph? (v.toNat / 2 ^ 52)).isNone then 2
  else if v.toNat % 64 ≠ 0 then 3
  else 0

/-- A write of KICK enters the FIFO with the handle's next replay number, or is refused with an event of kind 2 (R75, R79). -/
def State.kick (s : State) (v : BitVec 64) : State :=
  let h := v.toNat / 2 ^ 52
  if !s.working then s
  else if s.kickReason v ≠ 0 then s.postEvent 2 0 h 0 (leBytes 1 (s.kickReason v))
  else match s.graph? h with
    | some g =>
      let n := g.replays + 1
      { s with graphs := s.graphs.put h { g with replays := n },
               host := { s.host with kicks := s.host.kicks ++ [⟨h, v.toNat % 2 ^ 52 / 64 * 64, toWord n⟩] } }
    | none => s

/-- KICK, R75. -/
def execKick (v : BitVec 64) (s : State) : Out := .next (s.kick v)

/-! ## The registers of BAR0 (R72, R73) -/

/-- A write to EQBASE or EQSIZE that takes effect empties the ring (R90). -/
def HostIf.emptyRing (h : HostIf) : HostIf := { h with eqhead := 0, eqtail := 0, eqovf := false }

/-- EQBASE written (R73). -/
def HostIf.setEqbase (h : HostIf) (v : DWord) : HostIf := if v.toNat % 4096 = 0 then { h with eqbase := v }.emptyRing else h

/-- Entries an event ring may have (R73). -/
def eqsizeOk (n : Nat) : Bool := decide (n = 0) || ((List.range 11).any fun k => decide (n = 2 ^ (6 + k)))

/-- EQSIZE written. -/
def HostIf.setEqsize (h : HostIf) (n : Nat) : HostIf := if eqsizeOk n then { h with eqsize := n }.emptyRing else h

/-- EQHEAD written; space that it frees ends EQOVF (R73, R74). -/
def HostIf.setEqhead (h : HostIf) (n : Nat) : HostIf :=
  if n < h.eqsize then
    let h := { h with eqhead := n }
    { h with eqovf := h.eqovf && h.eqFull }
  else h

/-- One half of a 64-bit register replaced. -/
def setHalf (old : DWord) (upper : Bool) (v : Word) : DWord := if upper then pair (loWord old) v else pair v (hiWord old)

/-- A message answered in MBOXOUT: command, status, sequence and payload; MSI-X vector 1 (R422). -/
def State.answerMbox (s : State) (cmd status seq : Nat) (payload : List Byte) : State :=
  let bs := leBytes 2 cmd ++ leBytes 2 status ++ leBytes 4 seq ++ payload
  s.modHost fun h =>
    { h with mboxout := putBytes [] 0 bs, msix1 := h.msix1 + 1 }

/-- A field of a message. -/
def msgField (m : Table Byte) (lo n : Nat) : Nat := ofLe ((List.range n).map fun i => Table.get 0 m (lo + i))

/-- The doorbell: the firmware takes the message, or answers busy while an answer is pending (R422). -/
def State.doorbell (s : State) : State :=
  let m := s.host.mboxin
  if s.host.mboxBusy then s.answerMbox (msgField m 0 2) 1 (msgField m 4 4) []
  else s.modHost fun h => { h with mboxBusy := true, mboxMsg := m }

/-- A write of one aligned word of BAR0 (R72, R73). Halted, the device takes only mailbox words. -/
def State.bar0Write4 (s : State) (off : Nat) (v : Word) : State :=
  if 0x100 ≤ off ∧ off < 0x200 then
    let s := s.modHost fun h => { h with mboxin := putBytes h.mboxin (off - 0x100) (leBytes 4 v.toNat) }
    if off = 0x1FC then s.doorbell else s
  else if !s.working then s
  else match off with
    | 0x10 => s.modHost fun h => { h with graddr := setHalf h.graddr false v }
    | 0x14 => s.modHost fun h => { h with graddr := setHalf h.graddr true v }
    | 0x18 => s.modHost fun h => { h with grctx := v &&& 0xFF }
    | 0x1C => s.grcmd v
    | 0x28 => s.modHost fun h => { h with qprio := v }
    | 0x40 => s.modHost fun h => h.setEqbase (setHalf h.eqbase false v)
    | 0x44 => s.modHost fun h => h.setEqbase (setHalf h.eqbase true v)
    | 0x48 => s.modHost fun h => h.setEqsize v.toNat
    | 0x4C => s.modHost fun h => h.setEqhead v.toNat
    | 0x54 => s.modHost fun h => if v = 0 then { h with eqlost := 0 } else h
    | _ => s

/-- An access BAR0 carries out (R72): 4 or 8 bytes, naturally aligned, inside the window. -/
def bar0Ok (off width : Nat) : Bool := decide ((width = 4 ∨ width = 8) ∧ off % width = 0 ∧ off + width ≤ 0x10000)

/-- A write to BAR0 (R72). -/
def State.bar0Write (s : State) (off width : Nat) (v : DWord) : State :=
  if width = 4 then s.bar0Write4 off (loWord v)
  else match off with
    | 0x00 => s.kick v
    | 0x10 => if s.working then s.modHost fun h => { h with graddr := v } else s
    | 0x40 => if s.working then s.modHost fun h => h.setEqbase v else s
    | _ => (s.bar0Write4 off (loWord v)).bar0Write4 (off + 4) (hiWord v)

/-- TSTAT (R85). -/
def State.tstat (s : State) : Word :=
  let t := s.time
  toWord ((if t.stepped then 8 else 0) + (if t.ppsin then 4 else 0) + (if t.valid then 2 else 0) + if t.locked then 1 else 0)

/-- STATUS (R74). -/
def State.status (s : State) : Word :=
  toWord ((64 - s.host.kicks.length) * 2 ^ 8 + (if s.host.eqovf then 16 else 0) + (if s.time.locked then 8 else 0) + s.host.phase)

/-- One aligned word of BAR0 as the host reads it; a register of access W and an unlisted offset read zero (R72, R73). -/
def State.bar0Read4 (s : State) (off : Nat) : Word :=
  if 0x200 ≤ off ∧ off < 0x300 then toWord (ofLe ((List.range 4).map fun i => Table.get 0 s.host.mboxout (off - 0x200 + i)))
  else match off with
    | 0x10 => loWord s.host.graddr
    | 0x14 => hiWord s.host.graddr
    | 0x18 => s.host.grctx
    | 0x20 => s.host.grstat
    | 0x28 => s.host.qprio
    | 0x40 => loWord s.host.eqbase
    | 0x44 => hiWord s.host.eqbase
    | 0x48 => toWord s.host.eqsize
    | 0x4C => toWord s.host.eqhead
    | 0x50 => toWord s.host.eqtail
    | 0x54 => s.host.eqlost
    | 0x60 => s.tstat
    | 0x68 => loWord (BitVec.ofNat 64 s.now)
    | 0x6C => hiWord (BitVec.ofNat 64 s.now)
    | 0x80 => s.status
    | _ => 0

/-- A read of BAR0: its bytes, or none for Completer Abort (R72). No step of the table is a read; this is what one returns. -/
def State.bar0Read (s : State) (off width : Nat) : Option (List Byte) :=
  if !bar0Ok off width then none
  else some (leBytes 4 (s.bar0Read4 off).toNat ++ if width = 8 then leBytes 4 (s.bar0Read4 (off + 4)).toNat else [])

/-- An access reaches the word at an offset. -/
def touches (a : Bar0Access) (off : Nat) : Bool := decide (a.offset ≤ off ∧ off < a.offset + a.width)

/-- A write that belongs to a row acts; another leaves the state (R72). -/
def bar0Row (p : Bool) (a : Bar0Access) (s : State) : Out :=
  .next (if bar0Ok a.offset a.width && p then s.bar0Write a.offset a.width a.value else s)

/-- EQ_CONFIG_WRITE, R90: a write that reaches EQBASE or EQSIZE. -/
def execEqConfigWrite (a : Bar0Access) (s : State) : Out := bar0Row (touches a 0x40 || touches a 0x44 || touches a 0x48) a s
/-- EQLOST_CLEAR, R73: a write that reaches EQLOST. -/
def execEqlostClear (a : Bar0Access) (s : State) : Out := bar0Row (touches a 0x54) a s
/-- MBOX_DOORBELL, R422: a write that reaches MBOXIN bytes 252 to 255. -/
def execMboxDoorbell (a : Bar0Access) (s : State) : Out := bar0Row (touches a 0x1FC) a s

/-- BAR0_REGISTER_WRITE, R72: every other write, of a register without a row of its own or of an offset that ignores it. -/
def execBar0RegisterWrite (a : Bar0Access) (s : State) : Out :=
  bar0Row (!(touches a 0x40 || touches a 0x44 || touches a 0x48 || touches a 0x54 || touches a 0x1FC) &&
    !(a.offset = 0 && a.width = 8) && !(a.offset = 0x1C)) a s

/-- BAR0_BAD_ACCESS, R72: Completer Abort, and no effect. -/
def execBar0BadAccess (a : Bar0Access) (s : State) : Out :=
  .next (if bar0Ok a.offset a.width then s else s.modHost fun h => { h with readData := none })

end Sys2Proof.Machine
end

