-- ==== Sys2Proof/Machine/Graph.lean ====
section
/-! DEFINITION. The task graph walker and the Eventide governor: replays and patches (R79, R80), nodes (R77, R81, R368), acceptance
(R56, R83, R117), governor points and skipped nodes (R87 to R89), completion (R81, R418, R419) and abandonment (R82). -/

namespace Sys2Proof.Machine

/-! ## The start of a replay (R79, R80) -/

/-- An entry of a patch table that keeps R80: the address it patches, its bytes and its value. -/
def patchOf (nodes : List Node) (e : List Byte) : Option (Nat × Nat × Nat) :=
  let off := field e 2 2
  let size := 4 * 2 ^ field e 4 1
  let v := field e 8 8
  match nodes[field e 0 2]? with
  | some n =>
    if n.kind = 1 ∧ field e 4 1 < 2 ∧ off < 256 ∧ off % size = 0 ∧ zeroField e 5 3 ∧ v < 2 ^ (8 * size) then
      some (n.a.toNat + off, size, v)
    else none
  | none => none

/-- The places of every patch, which need W; none when one cannot be reached (R80, R236). -/
def State.patchPlaces (s : State) (q : Runner) : List (Nat × Nat × Nat) → State × Option (List (List (Nat × Nat) × Nat × Nat))
  | [] => (s, some [])
  | (a, n, v) :: r =>
    match s.placeAll q 0 0 .engineW (piecesOf [((a : Int), n)]) with
    | (s, .error _) => (s, none)
    | (s, .ok ps) =>
      match State.patchPlaces s q r with
      | (s, some l) => (s, some ((ps, n, v) :: l))
      | (s, none) => (s, none)

/-- A patch table at an address, checked whole: the replay deadline and the patches; none when the replay is refused. -/
def State.readPatches (s : State) (g : Graph) (addr : Nat) : State × Option (Nat × List (List (Nat × Nat) × Nat × Nat)) :=
  let q := dispatcher g.ctx
  match s.readVa q addr 16 with
  | (s, .error _) => (s, none)
  | (s, .ok h) =>
    let n := field h 0 4
    if 4096 < n ∨ !zeroField h 4 4 then (s, none)
    else match s.readVa q (addr + 16) (16 * n) with
      | (s, .error _) => (s, none)
      | (s, .ok es) =>
        match allSome ((List.range n).map fun k => patchOf g.nodes ((es.drop (16 * k)).take 16)) with
        | none => (s, none)
        | some ps =>
          match s.patchPlaces q ps with
          | (s, some l) => (s, some (field h 8 8, l))
          | (s, none) => (s, none)

/-- A replay begins: no node has run. -/
def State.beginReplay (s : State) (g : Graph) (k : Kick) (deadline : Nat) : State :=
  let r : Replay :=
    { handle := k.handle, number := k.number, deadline := BitVec.ofNat 64 deadline, nodes := g.nodes.map fun _ => .waiting, grants := [],
      abandoned := false, finished := false }
  { s with replays := s.replays.put s.disp.nextReplay r, disp := { s.disp with nextReplay := s.disp.nextReplay + 1 } }

/-- The kick of a handle with its patches applied, or refused with an event of kind 2 (R80). -/
def State.startKick (s : State) (g : Graph) (k : Kick) : State :=
  if k.patch = 0 then s.beginReplay g k 0
  else match s.readPatches g k.patch with
    | (s, none) => s.postEvent 2 0x24 k.handle k.number (leBytes 1 4)
    | (s, some (d, ps)) => (ps.foldl (fun s p => s.writePlaces g.ctx p.1 (leBytes p.2.1 p.2.2)) s).beginReplay g k d

/-- REPLAY_START: the first kick of a handle leaves the FIFO once the handle's previous replay is done (R79, R80). -/
def execReplayStart (handle : Nat) (s : State) : Out :=
  if !s.working ∨ (s.replays.values.any fun r => decide (r.handle = handle) && !r.finished) then .next s
  else match s.host.kicks.find? fun k => k.handle = handle, s.graph? handle with
    | some k, some g => .next ((s.modHost fun h => { h with kicks := h.kicks.erase k }).startKick g k)
    | _, _ => .next s

/-! ## Nodes (R77, R81) -/

/-- A node that is ready: it waits and has every edge satisfied, or was so when its replay was abandoned (R81, R82). -/
def State.nodeReady (s : State) (replay : Nat) (r : Replay) (g : Graph) (n : Nat) : Bool :=
  s.working && (r.nodes[n]? = some .ready || (r.nodes[n]? = some .waiting && (g.preds n).all fun p => s.edgeMet replay r g n p))

/-- The value that a timeline-wait node waits on; none when its ring is not VALID for the graph's context (R81, R365). -/
def State.nodeTimeline (s : State) (ctx : Nat) (h : Word) : Option Nat :=
  if handleKind h = 2 then some (s.timeline ctx (h.toNat % 4096)).toNat
  else if s.ringFor ctx h then some ((s.core (handleRing h).1).ring (handleRing h).2).total.toNat
  else none

/-- A timeline wait that is ready, or runs (R77, R81, R368). -/
def State.nodeWait (s : State) (replay n : Nat) (g : Graph) (x : Node) : State :=
  match s.nodeTimeline g.ctx (loWord x.a) with
  | none => s.endNode replay n 0x19 0 0 (mkDet 0 none (loWord x.a).toNat)
  | some v => s.setNode replay n (if x.b.toNat ≤ v then .done else .running)

/-- A timeline signal (R77, R81, R368). -/
def State.nodeSignal (s : State) (replay n : Nat) (g : Graph) (x : Node) : State :=
  let h := loWord x.a
  if handleKind h = 2 then (s.signal g.ctx (h.toNat % 4096) false x.b).setNode replay n .done
  else if s.peerReady g.ctx (h.toNat / 4096 % 256) then s.setNode replay n .done
  else s.endNode replay n 0x22 1 0 (mkDet 0 none (h.toNat / 4096 % 256))

/-- The command of a copy or timed-release node: CPY or CPYT with the node's operands (R77). -/
def nodeCommand (replay n : Nat) (r : Replay) (x : Node) : EngCmd :=
  let h : Hdr := ⟨true, false, 0⟩
  let o : FmtE := ⟨0, 0, 0, 0, 0, 0, 0⟩
  { instr := if x.kind = 2 then .cpy h o else .cpyt h o, owner := .node replay n, ctx := 0, launch := 0, planes := [], cyc := 0, sid := 0, leader := 0, lanes := 0,
    q1 := [loWord x.a, hiWord x.a, loWord x.b, hiWord x.b], q2 := [loWord x.c, hiWord x.c, 0, loWord r.deadline], num := 0, o0 := 0,
    o1 := 0, inst := r.deadline, fmt := 0, tsh := [], win := [], seeds := [], packet := [], target := 0, tc := x.d.toNat % 4, rows := [],
    stale := [] }

/-- NODE_READY: a node whose edges are satisfied runs under its kind; a timeline wait that runs completes once its value is
reached (R81). -/
def execNodeReady (replay node : Nat) (s : State) : Out :=
  match s.graphOf replay with
  | none => .next s
  | some (r, g) =>
    match g.nodes[node]? with
    | none => .next s
    | some x =>
      if x.kind = 3 ∧ r.nodes[node]? = some .running then
        .next (match s.nodeTimeline g.ctx (loWord x.a) with
          | some v => if x.b.toNat ≤ v then s.setNode replay node .done else s
          | none => s)
      else if !s.nodeReady replay r g node then .next s
      else match x.kind with
        | 1 =>
          .next { s.setNode replay node .queued with
            disp := { s.disp with queues := s.disp.queues.put x.queue (Table.get [] s.disp.queues x.queue ++ [⟨replay, node⟩]) } }
        | 3 => .next (s.nodeWait replay node g x)
        | 4 => .next (s.nodeSignal replay node g x)
        | 5 => .next s
        | _ =>
          .next ((s.setNode replay node .running).modCore hostDma fun c => { c with engineq := c.engineq ++ [nodeCommand replay node r x] })

/-- The first launch node that is ready: it enters its queue before anything else happens, so that a queue holds its launches in the
order in which they became ready (R83; log entry 2). -/
def State.readyLaunch (s : State) : Option (Nat × Nat) :=
  s.replays.findSome? fun e =>
    if e.2.finished then none
    else match s.graph? e.2.handle with
      | none => none
      | some g => ((List.range e.2.nodes.length).find? fun n =>
          decide ((g.nodes[n]?.map fun x => x.kind) = some 1) && s.nodeReady e.1 e.2 g n).map fun n => (e.1, n)

/-! ## Acceptance (R56, R81, R83, R117) -/

/-- The launches whose edges to a node were satisfied early (R371). -/
def State.earlyOf (s : State) (replay : Nat) (r : Replay) (g : Graph) (n : Nat) : List Nat :=
  (g.preds n).filterMap fun p =>
    if r.nodes[p]? = some .done then none else (s.launchOfNode replay p).map fun e => e.1

/-- An accepted launch: tag, queue, priority, deadline and grant of its node, and its predecessors (R83, R87, R88, R385). -/
def State.enterLaunch (s : State) (replay node : Nat) (r : Replay) (g : Graph) (x : Node) (l : Launch) : State :=
  let l := { l with
    tag := mkTag r.handle node, replay := replay, replayNo := r.number, node := node, queue := x.queue,
    prio := s.queuePrio x.queue, deadline := if l.deadline = 0 then r.deadline else l.deadline,
    gov := if x.gpt = 0xFFFF then 0 else toWord (Table.get 0 r.grants x.gpt), early := s.earlyOf replay r g node }
  let s := { s with launches := s.launches.put s.disp.nextLaunch l, disp := { s.disp with nextLaunch := s.disp.nextLaunch + 1 } }
  let s := s.setNode replay node .running
  { s with cores := Table.map (fun _ c => { c with icache := c.icache.filter fun q => q.ctx ≠ g.ctx }) s.cores }

/-- LAUNCH_ACCEPT: the dispatcher takes the head of the launch queue whose turn it is; a launch that fails its checks ends with a fault record and its
replay is abandoned (R56, R68, R81, R83). -/
def execLaunchAccept (queue : Nat) (s : State) : Out :=
  match Table.get [] s.disp.queues queue with
  | [] => .next s
  | q :: rest =>
    if !s.placing ∨ s.queueBefore (s.queuePrio queue) queue then .next s
    else
      let s := { s with disp := { s.disp with queues := Table.set [] s.disp.queues queue rest, lastQueue := queue } }
      match s.graphOf q.replay with
      | none => .next s
      | some (r, g) =>
        match g.nodes[q.node]? with
        | none => .next s
        | some x =>
          match s.readLaunch g.ctx x.a.toNat with
          | (s, .ok l) => .next (s.enterLaunch q.replay q.node r g x l)
          | (s, .error f) => .next (s.endNode q.replay q.node f.cause 0 f.addr f.det)

/-! ## The governor (R88, R89) -/

/-- COST of a node. -/
def Graph.cost (g : Graph) (n : Nat) : Nat := (g.nodes[n]?.map fun x => x.cost).getD 0

/-- The grant: optional nodes in order while they end by the deadline; fuel is GMAX (R88). -/
def grantFrom (g : Graph) (first deadline : Nat) : Nat → Nat → Nat → Nat
  | 0, k, _ => k
  | fuel + 1, k, t =>
    let t := t + g.cost (first + k)
    if t ≤ deadline then grantFrom g first deadline fuel (k + 1) t else k

/-- The number of optional nodes a governor point grants at time t (R88). -/
def grant (g : Graph) (x : Node) (deadline t : Nat) : Nat :=
  if deadline = 0 then x.gmax else grantFrom g x.first deadline x.gmax 0 (t + x.b.toNat)

/-- GOVERNOR_POINT: a ready governor point grants, marks the other optional nodes skipped, reports them, and completes
(R88, R89). -/
def execGovernorPoint (replay node : Nat) (s : State) : Out :=
  match s.graphOf replay with
  | none => .next s
  | some (r, g) =>
    match g.nodes[node]? with
    | none => .next s
    | some x =>
      if x.kind ≠ 5 ∨ !s.nodeReady replay r g node then .next s
      else
        let n := grant g x r.deadline.toNat s.now
        let s := s.modReplay replay fun r => { r with
          grants := r.grants.put node n
          nodes := (r.nodes.mapIdx fun i st => if x.first + n ≤ i ∧ i < x.first + x.gmax ∧ st = .waiting then .skipped else st).set node .done }
        .next (if n < x.gmax then s.postEvent 3 0x37 r.handle r.number (leBytes 2 node ++ leBytes 2 (x.gmax - n)) else s)

/-! ## Completion (R81, R89, R368, R418) -/

/-- The 64 bytes of a completion record (R418). -/
def Launch.record (l : Launch) (state cause now : Nat) : List Byte :=
  leBytes 1 state ++ leBytes 1 cause ++ leBytes 2 (tagHandle l.tag) ++ leBytes 4 l.replayNo.toNat ++ leBytes 8 l.started ++
    leBytes 8 now ++ leBytes 4 l.blocksOut ++ leBytes 4 l.tasksRun ++ leBytes 4 l.switches ++ leBytes 4 l.moves ++ leBytes 4 l.parks ++
    leBytes 4 l.gov.toNat ++ leBytes 16 0

/-- The completion record written at DONE, or a fault record posted when DONE cannot be written (R418; log entry 36). -/
def State.writeRecord (s : State) (l : Launch) (state cause : Nat) : State :=
  if l.doneAt = 0 then s
  else match s.placeAll (dispatcher l.ctx) 0 0 .engineW (piecesOf [((l.doneAt.toNat : Int), 64)]) with
    | (s, .ok ps) => s.writePlaces l.ctx ps (l.record state cause s.now)
    | (s, .error e) => s.report (s.recordL 0x24 l.ctx l.doneAt (mkDet e.sub none 0) l.tag l.replayNo)

/-- A SIG handle of a launch is signalled by 1 (R368). A peer module's timeline is its own; one that cannot be reached is recorded, and
the launch still completes (R81, R425; log entry 38). -/
def State.signalDone (s : State) (l : Launch) (h : Word) : State :=
  let m := h.toNat / 4096 % 256
  if h = 0 then s
  else if handleKind h = 2 then s.signal l.ctx (h.toNat % 4096) true 1
  else if s.peerReady l.ctx m then s
  else s.report { s.recordL 0x22 l.ctx 0 (mkDet 0 none m) l.tag l.replayNo with flags := 1 }

/-- The record, then SIG0 and SIG1. -/
def State.closeLaunch (s : State) (l : Launch) (state : Nat) : State :=
  ((s.writeRecord l state 0).signalDone l l.sig0).signalDone l l.sig1

/-- The fields of its launch record that a skipped launch reads: DONE, SIG0 and SIG1 (R89). See log entry 76. -/
def State.readSkipped (s : State) (ctx addr : Nat) : State × Except LaunchFail Launch :=
  match s.readVa (dispatcher ctx) (addr + 32) 32 with
  | (s, .error c) => (s, .error (recordFail addr c))
  | (s, .ok bs) =>
    let l := launchOf (List.replicate 32 0 ++ bs)
    if addr % 64 ≠ 0 ∨ !sigOk l.sig0 ∨ !sigOk l.sig1 ∨ l.doneAt.toNat % 64 ≠ 0 then (s, .error (recordFail addr 0))
    else (s, .ok { l with ctx := ctx })

/-- A skipped node completes (R89): a launch writes its record and signals, a signal signals, the others do nothing. -/
def State.completeSkipped (s : State) (replay node : Nat) (r : Replay) (g : Graph) (x : Node) : State :=
  match x.kind with
  | 1 =>
    match s.readSkipped g.ctx x.a.toNat with
    | (s, .error f) => s.endNode replay node f.cause 0 f.addr f.det
    | (s, .ok l) =>
      let l := { l with tag := mkTag r.handle node, replayNo := r.number,
                        gov := if x.gpt = 0xFFFF then 0 else toWord (Table.get 0 r.grants x.gpt) }
      (s.closeLaunch l 2).setNode replay node .done
  | 4 => s.nodeSignal replay node g x
  | _ => s.setNode replay node .done

/-- SKIPPED_NODE_COMPLETE: every predecessor of a skipped node has completed (R89). -/
def execSkippedNodeComplete (replay node : Nat) (s : State) : Out :=
  match s.graphOf replay with
  | none => .next s
  | some (r, g) =>
    match g.nodes[node]? with
    | none => .next s
    | some x =>
      if s.working ∧ r.nodes[node]? = some .skipped ∧ (g.preds node).all fun p => r.nodes[p]? = some .done then
        .next (s.completeSkipped replay node r g x)
      else .next s

/-- Engine work of a launch's blocks is not done: a command is queued or runs, a copy is in a copy table, or a block is saved (R81,
R429; log entry 66). -/
def State.workOpen (s : State) (launch : Nat) : Bool :=
  s.images.any (fun i => i.launch = launch) ||
  s.cores.values.any fun c =>
    (c.engineq ++ c.rays ++ (c.mat.map fun j => j.cmd).toList).any (fun q => q.launch = launch) || c.copies.any fun e => e.cmd.launch = launch

/-- The launch may complete: every block has exited, every copy and every task is done (R81, R106). See log entry 66. -/
def State.launchDone (s : State) (launch : Nat) (l : Launch) : Bool :=
  decide (l.status = .placed ∧ l.tasksOpen = 0 ∧ l.blocksOut = l.total) && !s.workOpen launch

/-- Nothing of a launch that is being ended is left (R81, R391, R445). -/
def State.endingDone (s : State) (launch : Nat) : Bool := (s.blocks.values.all fun x => x.launch ≠ launch) && !s.workOpen launch

/-- A launch has been ended: its record, without a signal; its replay is abandoned, and posts kind 5 in place of kind 1 for a launch ended
by .killl (R82, R391, R418, R419, R432; log entry 40). -/
def State.closeEnded (s : State) (launch : Nat) (l : Launch) (state cause : Nat) : State :=
  let s := s.writeRecord l state cause
  let s := s.setNode l.replay l.node .dead
  let s := s.modLaunch launch fun l => { l with status := .ended }
  if state = 3 then s.postEvent 5 cause (tagHandle l.tag) l.replayNo [] else s

/-- LAUNCH_COMPLETE: the completion record, then SIG0 and SIG1, then the node is complete; a launch that was ended closes without them
(R81, R368, R418). -/
def execLaunchComplete (launch : Nat) (s : State) : Out :=
  match s.launch? launch with
  | none => .next s
  | some l =>
    match l.status with
    | .ending state cause => .next (if s.endingDone launch then s.closeEnded launch l state cause else s)
    | _ =>
    if !s.launchDone launch l then .next s
    else .next (((s.closeLaunch l 1).setNode l.replay l.node .done).modLaunch launch fun l => { l with status := .completed })

/-- REPLAY_COMPLETE: every node has completed: one event of kind 1 (R419). -/
def execReplayComplete (replay : Nat) (s : State) : Out :=
  match s.replay? replay with
  | none => .next s
  | some r =>
    if r.finished ∨ r.abandoned ∨ !r.nodes.all fun n => n = .done then .next s
    else .next ((s.postEvent 1 0 r.handle r.number []).modReplay replay fun r => { r with finished := true })

/-- REPLAY_FINISH: no node of an abandoned replay is ready, queued or running (R82). -/
def execReplayFinish (replay : Nat) (s : State) : Out :=
  match s.replay? replay with
  | none => .next s
  | some r =>
    if r.abandoned ∧ !r.finished ∧ r.nodes.all fun n => n = .done ∨ n = .dead then
      .next (s.modReplay replay fun r => { r with finished := true })
    else .next s

end Sys2Proof.Machine
end

