-- ==== Sys2Proof/Machine/TaskWaves.lean ====
section
/-! DEFINITION. Task waves (R64, R106 to R111, R31) and the end of a block: its exit (R417) and the release of its resources (R93). -/

namespace Sys2Proof.Machine

/-! ## Gathering (R64, R108, R109) -/

/-- The packets from the head of a deque that have the head packet's TENTRY and tag, at most n (R108, R110). -/
def headRun (n : Nat) (ps : List Packet) : List Packet :=
  match ps with
  | [] => []
  | p :: _ => (ps.takeWhile fun q => decide (tentryOf q.bytes = tentryOf p.bytes ∧ q.launch = p.launch)).take n

/-- The variants of a task kernel, as read at the first gather of its TENTRY on a core; when they are invalid, the sub-cause of a failed
read, or 0 (R45, R64). See log entry 49. -/
def State.taskKernel (s : State) (core ctx entry : Nat) : State × Except Nat (List Variant) :=
  match (s.core core).kernels.find? fun k => decide (k.1 = ctx ∧ k.2.1 = entry) with
  | some k => (s, .ok k.2.2)
  | none =>
    match s.readKernel ⟨core, ctx, none⟩ entry with
    | (s, .ok vs) =>
      if vs.all fun v => v.waves = 1 then
        (s.modCore core fun c => { c with kernels := (ctx, entry, vs) :: c.kernels }, .ok vs)
      else (s, .error 0)
    | (s, .error c) => (s, .error c)

/-- Open tasks of a launch changed by n. -/
def State.openTasks (s : State) (launch : Nat) (n : Int) : State :=
  s.modLaunch launch fun l => { l with tasksOpen := ((l.tasksOpen : Int) + n).toNat }

/-- A fragment's task has ended: its tile waits for one less (R287). -/
def State.fragEnds (s : State) (f : Nat × Nat × Nat) : State :=
  s.modCore f.1 fun c => { c with raster := { c.raster with tiles := c.raster.tiles.map fun t =>
    if t.col = f.2.1 ∧ t.row = f.2.2 then { t with live := t.live - 1 } else t } }

/-- TASK_PACKET_DISCARD: every packet with a TENTRY leaves the deque, and each context concerned is charged with its count
(R45, R64). See log entry 36. -/
def State.discardPackets (s : State) (core entry sub : Nat) : State :=
  let gone := (s.core core).deque.filter fun p => tentryOf p.bytes = entry
  let s := s.modCore core fun c => { c with deque := c.deque.filter fun p => tentryOf p.bytes ≠ entry }
  let s := gone.foldl (fun s p => (p.frag.toList.foldl State.fragEnds (s.openTasks p.launch (-1)))) s
  let ctxOf (p : Packet) := ((s.launch? p.launch).map fun l => l.ctx).getD 0
  (ascending (gone.map ctxOf)).foldl (fun s ctx =>
    s.charge 0x1B 1 ctx core (BitVec.ofNat 64 entry) (mkDet sub none (gone.filter fun p => ctxOf p = ctx).length) 0 0) s

/-- Word k of a packet's arguments, k from 1 to 14 (R63). -/
def argOf (p : Packet) (k : Nat) : Word := word4 p.bytes (4 + 4 * k)

/-- The generator state of lane l of a task wave (R31). -/
def taskRng (seed : Word) (ps : List Packet) (l : Nat) : Word :=
  let v := match ps[l]? with
    | some p => (List.range 14).foldl (fun x k => x ^^^ argOf p (k + 1)) 0
    | none => seed ^^^ toWord (2 ^ 31 + l)
  if v = 0 then 1 else v

/-- The one wave of a task block: lane i holds packet i (R108, R109). -/
def taskWave (v : Variant) (l : Launch) (ps : List Packet) : Wave :=
  let y := Wave.start v l.param ps.length (taskRng l.seed ps)
  ps.zipIdx.foldl (fun y p => ((List.range 14).filter fun k => decide (k + 1 < v.vregs)).foldl (fun y k => y.wrV (k + 1) p.2 (argOf p.1 (k + 1))) y) y

/-- The gathered packets start as a task wave at a place. -/
def State.startTask (s : State) (h : Holder) (l : Launch) (launch : Nat) (ps : List Packet) : State :=
  let x := h.block launch l true 0 s.now [(0, taskWave h.var l ps)]
  let s := s.modCore h.core fun c => { c with deque := c.deque.drop ps.length }
  let s := s.startBlock h { x with frags := ps.filterMap fun p => p.frag }
  (s.openTasks launch (1 - ps.length)).modLaunch launch fun l => { l with tasksRun := l.tasksRun + 1 }

/-- The head run of a deque, with its launch, where a task wave of it may be gathered: a shed class is not (R409), nor a pair without
power (R105), nor a die out of service. -/
def State.runReady (s : State) (core : Nat) : Option (Launch × List Packet) :=
  match headRun 128 (s.core core).deque with
  | [] => none
  | p :: ps =>
    match s.launch? p.launch with
    | none => none
    | some l =>
      if !s.placing ∨ s.power.isShed l.pclass ∨ !(s.die (dieOf core)).hasPower ∨ !(s.die (dieOf core)).inService then none
      else some (l, p :: ps)

/-- The place of a task wave on its core (R100, R108). -/
def State.taskPlace (s : State) (core launch : Nat) (l : Launch) (vs : List Variant) : Option Holder :=
  s.firstFit s.holders (s.bounds launch l.prio false core) vs core

/-- What a run is named by: TENTRY and the number of the launch of its tag. -/
def runOf (ps : List Packet) : Nat × Nat := ((ps.head?.map fun p => tentryOf p.bytes).getD 0, (ps.head?.map fun p => p.launch).getD 0)

/-- The run that the queue engine of a core can take now, with its launch number (R108). -/
def State.couldGather (s : State) (core : Nat) : Option (Nat × List Packet) :=
  match s.runReady core with
  | none => none
  | some (l, ps) =>
    match s.taskKernel core l.ctx (runOf ps).1 with
    | (s, .ok vs) => (s.taskPlace core (runOf ps).2 l vs).map fun _ => ((runOf ps).2, ps)
    | (_, .error _) => none

/-! ## Stealing (R110, R111) -/

/-- A core is idle for stealing: its deque is empty, with room for a packet, and a wave slot is free (R106, R110). -/
def State.mayThieve (s : State) (core : Nat) : Bool :=
  s.placing && coreExists core && (s.core core).deque.isEmpty && decide ((s.core core).dequeResv < 4096) &&
  decide (sumAt core (fun h => h.var.waves) s.holders < 96) && (s.die (dieOf core)).hasPower

/-- The victim the generator names next, in the core's cluster (R110; log entry 21). -/
def State.victim (s : State) (core : Nat) : Nat :=
  core / 128 * 128 + (Config.stealStep (s.core core).steal).toNat % clusterSize (dieOf core)

/-- The run that a thief takes from a victim's tail: at most 32 packets, and no more than its own deque has room for beside what is
reserved there (R106, R110). What the owner can take at this moment it takes (R111). -/
def State.stolenRun (s : State) (core victim : Nat) : List Packet :=
  let owned := ((s.couldGather victim).map fun g => g.2.length).getD 0
  (headRun (min 32 (4096 - (s.core core).dequeResv)) ((s.core victim).deque.drop owned).reverse).reverse

/-- A take from a victim's tail: its run moves to the thief, or, with nothing to take, the thief waits 200 cycles (R110). -/
def State.takeTail (s : State) (core victim : Nat) : State :=
  let run := s.stolenRun core victim
  let s := s.modCore core fun c => { c with steal := Config.stealStep c.steal }
  if run = [] then s.modCore core fun c => { c with stealAt := s.cycOf core + 200 }
  else
    let s := s.modCore victim fun c => { c with deque := c.deque.take (c.deque.length - run.length) }
    s.modCore core fun c => { c with deque := run, stealAt := 0 }

/-- TASK_STEAL: an idle core takes a tail run from another core of its cluster (R110). -/
def execTaskSteal (core victim : Nat) (s : State) : Out :=
  if s.mayThieve core ∧ coreExists victim ∧ victim ≠ core ∧ clusOf victim = clusOf core ∧ (s.core core).stealAt = 0 then
    .next (s.takeTail core victim)
  else .next s

/-- STEAL_RETRY: 200 cycles after it found a victim's deque empty, the thief tries another (R110). -/
def execStealRetry (core : Nat) (s : State) : Out :=
  if s.mayThieve core ∧ (s.core core).stealAt ≠ 0 ∧ (s.core core).stealAt ≤ s.cycOf core then
    .next (if s.victim core = core then s.modCore core fun c => { c with steal := Config.stealStep c.steal } else s.takeTail core (s.victim core))
  else .next s

/-! ## The end of a block -/

/-- Nothing of a block is on the fabric. -/
def State.offFabric (s : State) (b : Nat) (x : Block) : Bool := (s.core x.core).fabric.all fun f => f.block ≠ b

/-- A matrix command of the block is queued or runs. -/
def State.tilesOpen (s : State) (b core : Nat) : Bool :=
  let c := s.core core
  (c.engineq ++ (c.mat.map fun j => j.cmd).toList).any fun q => q.ofBlock b && (matrixCmd q.instr).isSome

/-- Every wave has retired and none has an access outstanding; the exit is a release of what the block has observed, and of the bytes that
its tile commands move, too (R326, R336, R417). See log entry 16. -/
def State.mayExit (s : State) (b : Nat) (x : Block) : Bool :=
  x.retired && !x.exited && x.stop.isNone && (s.core x.core).fabric.isEmpty && !s.tilesOpen b x.core &&
  x.waves.values.all fun y => decide (y.count .ld = 0 ∧ y.count .st = 0) && y.storeq.isEmpty

/-- The exit of a block entered in its launch: it counts as a trigger, and as an arrival of a member (R81, R362, R417). -/
def State.noteExit (s : State) (launch blin : Nat) (task : Bool) (frags : List (Nat × Nat × Nat)) : State :=
  let s := if task then frags.foldl State.fragEnds (s.openTasks launch (-1))
    else s.modLaunch launch fun l => { l with exited := l.exited ++ [blin], blocksOut := l.blocksOut + 1 }
  s.settleCohorts launch

/-- A resident block's exit entered. -/
def State.enterExit (s : State) (x : Block) : State := s.noteExit x.launch x.blin x.task x.frags

/-- BLOCK_EXIT, R417. -/
def execBlockExit (b : Nat) (s : State) : Out :=
  match s.block? b with
  | none => .next s
  | some x => .next (if s.mayExit b x then (s.setBlock b { x with exited := true, switch := none }).enterExit x else s)

/-- A copy reads from or writes into a range of a core's scratchpad (R93, R380). -/
def CopyEntry.touches (e : CopyEntry) (lo hi : Nat) : Bool :=
  (e.phase ≠ .suspended) && (e.spans ++ e.sources).any fun a => decide (a.1 = 1 ∧ a.2.2.1 < hi ∧ lo < a.2.2.2)

/-- Engine work of block b that is not done: queued, in the copy table, in the matrix engine, or in a render unit (R93).
See log entry 16. -/
def State.engineOpen (s : State) (b : Nat) (x : Block) : Bool :=
  let c := s.core x.core
  (c.engineq.any fun q => q.ofBlock b) || (c.copies.any fun e => e.cmd.ofBlock b) || ((c.mat.map fun j => j.cmd.ofBlock b).getD false) ||
  c.rays.any fun q => q.ofBlock b

/-- Another's copy that reads from or writes into the block's scratchpad is in progress. See log entry 16. -/
def State.rangeBusy (s : State) (b : Nat) (x : Block) : Bool :=
  decide (x.var.scratch ≠ 0) && s.cores.values.any fun c => c.copies.any fun e =>
    !e.cmd.ofBlock b && e.touches (windowPa x.core x.base) (windowPa x.core (x.base + x.var.scratch))

/-- BLOCK_RELEASE: an exited block leaves its core once its engine work and every copy of its scratchpad is done (R93). -/
def execBlockRelease (b : Nat) (s : State) : Out :=
  match s.block? b with
  | none => .next s
  | some x => .next (if x.exited && x.stop.isNone && !s.engineOpen b x && !s.rangeBusy b x then s.dropBlock b else s)

end Sys2Proof.Machine
end

