-- ==== Sys2Proof/Machine/Image.lean ====
section
/-! DEFINITION. Saved images: what the bytes of the sections hold (R396 to R398), and what a restore reads back. What the dispatcher keeps
beside the bytes is the structure Image (log entry 39). -/

namespace Sys2Proof.Machine

/-! ## Fields written -/

/-- n fields of w bytes. -/
def fields (w n : Nat) (f : Nat → Nat) : List Byte := (List.range n).flatMap fun k => leBytes w (f k)
/-- n zero bytes. -/
def zeros (n : Nat) : List Byte := List.replicate n 0
/-- Bits as a number, bit 0 first. -/
def bitsNum (n : Nat) (f : Nat → Bool) : Nat := packNat 1 ((List.range n).map fun k => if f k then 1 else 0)

/-- WKIND, WOBJ, WSC, WHANDLE and WTARGET. -/
def waitFields : Option Wait → Nat × Nat × Nat × Nat × Nat
  | none => (0, 0, 0, 0, 0)
  | some (.barw n sc t) => (1, n, sc, 0, t.toNat)
  | some (.cbar n sc t) => (2, n, sc, 0, t.toNat)
  | some (.tlwait sc h t) => (3, 0, sc, h.toNat, t.toNat)
  | some .gridwait => (4, 0, 0, 0, 0)

/-- The record of a wave (R397). p0 and c0 are saved as they read. -/
def waveRecord (v : Variant) (y : Wave) : List Byte :=
  let w := waitFields y.wait
  leBytes 16 y.living.toNat ++ fields 8 128 (fun l => (y.pcOf l).toNat) ++ fields 4 128 (fun l => (y.rngOf l).toNat) ++
  fields 2 128 (fun l => bitsNum 16 fun k => (y.rdP k).getLsbD l) ++ leBytes 2 (bitsNum 16 y.rdC) ++ zeros 2 ++
  leBytes 4 y.loopc.toNat ++ leBytes 4 (rotWord v.rotv y).toNat ++ leBytes 4 y.cnt.toNat ++
  leBytes 4 y.cause.toNat ++ leBytes 4 y.fmask.toNat ++ leBytes 8 y.faddr.toNat ++ leBytes 8 y.fdet.toNat ++
  leBytes 1 w.1 ++ leBytes 1 w.2.1 ++ leBytes 1 w.2.2.1 ++ leBytes 1 (bitsNum 2 fun k => if k = 0 then y.triggered else y.step) ++
  leBytes 4 w.2.2.2.1 ++ leBytes 8 w.2.2.2.2 ++ zeros 184 ++
  fields 4 v.sregs (fun k => (y.rdS k).toNat) ++ fields 4 (128 * v.vregs) fun k => (Table.get 0 y.v k).toNat

/-- The record of a barrier (R398). -/
def barrierRecord (r : Barrier) : List Byte :=
  leBytes 4 r.phase.toNat ++ leBytes 2 r.part.toNat ++ leBytes 2 r.arrv.toNat ++ leBytes 4 r.ebase.toNat ++ leBytes 4 r.expb.toNat ++
    leBytes 4 r.cred.toNat ++ zeros 12

/-- The record of a copy context. -/
def ctxRecord (c : CopyCtx) : List Byte :=
  leBytes 8 c.issued ++ leBytes 8 c.completed ++ leBytes 1 (if c.suspended then 1 else 0) ++ zeros 15

/-- A quad with unused bytes zero. -/
def quadBytes (q : List Word) : List Byte := ((q.flatMap fun w => leBytes 4 w.toNat) ++ zeros 16).take 16

/-- Bytes 0 to 79 of an entry. -/
def entryHead (c : EngCmd) (resume state cause : Nat) : List Byte :=
  let w := match c.owner with
    | .block _ w => w
    | .node _ _ => 0
  leBytes 8 ((encode c.instr).getD 0).toNat ++ quadBytes c.q1 ++ quadBytes c.q2 ++ leBytes 8 c.num ++ leBytes 8 resume ++
    leBytes 1 state ++ leBytes 1 cause ++ leBytes 1 w ++ leBytes 1 c.leader ++ leBytes 4 c.o0.toNat ++ leBytes 4 c.o1.toNat ++ zeros 4 ++
    leBytes 8 c.inst.toNat

/-- The resume point of an entry: an element of a base-die command, a fragment of another, counted over the write phase of a timed
copy (R271, R275, R277). -/
def CopyEntry.resume (e : CopyEntry) : Nat :=
  match e.plan, e.cmd.copy? with
  | some p, some (k, _) =>
    if k.baseDie then e.frag * e.cmd.unitSize k
    else if k = .cpyt then
      let n := (p.frags k e.cmd []).length
      if e.frag < n then e.frag else e.frag - n
    else e.frag
  | _, _ => 0

/-- A copy-table entry in the image. -/
def copyRecord (e : CopyEntry) : List Byte :=
  (if e.phase = .suspended then entryHead e.cmd e.resume 1 e.cause else entryHead e.cmd 0 0 0) ++ zeros 48

/-- ESEED of a command: the generator states of a stochastic TRND, otherwise zero. -/
def EngCmd.savedSeeds (c : EngCmd) : List Word :=
  match c.instr with
  | .trnd _ _ => c.seeds
  | _ => []

/-- An engine-queue entry in the image. -/
def queueRecord (c : EngCmd) : List Byte :=
  entryHead c 0 0 0 ++ leBytes 4 c.fmt.toNat ++ fields 4 3 (fun k => (c.tsh.getD k 0).toNat) ++
    fields 4 8 (fun k => (c.win.getD k 0).toNat) ++ fields 4 128 fun k => (c.savedSeeds.getD k 0).toNat

/-- The replies section: held counts and reservations, then the entries, oldest first. -/
def replyRecord (y : Wave) : List Byte :=
  let q (k : Nat) := Table.get [] y.replies k
  fields 1 1024 (fun k => if k % 2 = 0 then (q (k / 256 * 128 + k % 256 / 2)).length else Table.get 0 y.resv (k / 256 * 128 + k % 256 / 2)) ++
    fields 16 8192 fun k => ((q (k / 16)).getD (k % 16) 0).toNat

/-- The matrix section. -/
def matrixRecord (m : Matrix) : List Byte :=
  fields 1 1048576 (fun k => (Table.get 0 m.tile k).toNat) ++ fields 1 2048 (fun k => (Table.get 0 m.rowExp k).toNat) ++
    fields 4 16 (fun k => (Table.get 0 m.tsh k).toNat) ++ fields 4 4 (fun k => (Table.get 0 m.plane k).toNat) ++
    leBytes 4 m.split.toNat ++ leBytes 4 ((m.desc.map Prod.fst).getD 0) ++ leBytes 4 ((m.desc.map fun d => d.2.toNat).getD 0) ++ zeros 4 ++
    fields 4 8 (fun k => (Table.get 0 m.win k).toNat) ++ fields 1 512 (fun k => (Table.get 0x7F m.latch k).toNat) ++
    fields 8 65536 fun k => trunc 64 (Table.get 0 m.cell k)

/-- The block is a member of a gang (R99). -/
def State.inGang (s : State) (x : Block) : Bool :=
  !x.task && ((s.launch? x.launch).map fun l => l.gangs.any fun g => g.contains x.blin).getD false

/-- The header (R396); poisoned is IPOIS. -/
def State.imageHeader (s : State) (x : Block) (icause ncopy neq poisoned : Nat) (exited : Bool) (secs : List (Nat × Nat)) : List Byte :=
  let v := x.var
  let t := s.tagOf x.launch
  leBytes 4 0x474D4944 ++ leBytes 2 1 ++ leBytes 1 icause ++
    leBytes 1 ((if v.mtx then 1 else 0) + (if x.task then 2 else 0) + (if s.inGang x then 4 else 0) + if exited then 8 else 0) ++
    leBytes 8 v.kernel ++ leBytes 1 v.index ++ leBytes 1 (if exited then 0 else v.waves) ++ leBytes 2 v.sregs ++ leBytes 1 v.vregs ++
    leBytes 1 v.rotv ++ leBytes 1 (((s.launch? x.launch).map fun l => l.pclass).getD 0) ++ leBytes 1 x.ctx ++
    leBytes 4 (s.disp.virtualCore x.core) ++ leBytes 4 (if x.task then 0 else x.blin) ++ leBytes 4 v.scratch ++
    leBytes 4 t.1.toNat ++ leBytes 4 t.2.toNat ++ leBytes 4 poisoned ++ leBytes 8 s.now ++ leBytes 8 (imageBytes secs) ++
    secs.flatMap (fun p => leBytes 8 p.1) ++ leBytes 2 ncopy ++ leBytes 2 neq ++ zeros 132

/-- The sections of a block's image, in order. -/
def State.sectionRecords (s : State) (x : Block) (exited : Bool) (copies : List CopyEntry) (queue : List EngCmd) : List (List Byte) :=
  let cs := ((List.range 4).flatMap fun k => ctxRecord (x.copyCtx k)) ++ copies.flatMap copyRecord
  let sp := s.bytes (windowPa x.core x.base) x.var.scratch
  let w (k : Nat) := (x.waves.find? k).getD Wave.empty
  if exited then [[], [], cs, [], [], [], sp]
  else
    [(List.range x.var.waves).flatMap (fun k => waveRecord x.var (w k)), (List.range 16).flatMap (fun n => barrierRecord (x.barrier n)), cs,
     queue.flatMap queueRecord, replyRecord (w 0), if x.var.mtx then matrixRecord (x.mtx.getD Matrix.initial) else [], sp]

/-! ## Fields read back -/

/-- The entries of a table of n keys that are not d. -/
def tableOf {α : Type} [DecidableEq α] (d : α) (n : Nat) (f : Nat → α) : Table α :=
  ((List.range n).map fun k => (k, f k)).filter fun e => e.2 ≠ d

/-- The wait of a saved wave. -/
def waitOf (bs : List Byte) : Option Wait :=
  let n := field bs 1849 1
  let sc := field bs 1850 1
  match field bs 1848 1 with
  | 1 => some (.barw n sc (toWord (field bs 1856 8)))
  | 2 => some (.cbar n sc (toWord (field bs 1856 8)))
  | 3 => some (.tlwait sc (toWord (field bs 1852 4)) (dword8 bs 1856))
  | 4 => some .gridwait
  | _ => none

/-- A wave as its record gives it; operations are counted again from the entries. -/
def waveOf (v : Variant) (bs : List Byte) (now : Nat) : Wave :=
  let pred (k : Nat) : Lanes := BitVec.ofNat 128 (bitsNum 128 fun l => (field bs (1552 + 2 * l) 2).testBit k)
  { Wave.empty with
    living := BitVec.ofNat 128 (field bs 0 16)
    pc := tableOf 0 128 fun l => BitVec.ofNat 53 (field bs (16 + 8 * l) 8)
    rng := tableOf 1 128 (wordAt bs 1040)
    v := tableOf 0 (128 * v.vregs) (wordAt bs (2048 + 4 * v.sregs))
    s := (tableOf 0 v.sregs (wordAt bs 2048)).filter fun e => e.1 ≠ 0
    p := (tableOf 0 16 pred).filter fun e => e.1 ≠ 0
    c := BitVec.ofNat 16 (field bs 1808 2) &&& 0xFFFE
    loopc := word4 bs 1812
    rotb := BitVec.ofNat 6 (field bs 1816 1)
    cause := word4 bs 1824
    fmask := word4 bs 1828
    faddr := dword8 bs 1832
    fdet := dword8 bs 1840
    wait := waitOf bs
    triggered := (field bs 1851 1).testBit 0
    step := (field bs 1851 1).testBit 1
    since := (waitOf bs).map fun _ => now }

/-- A barrier as its record gives it. -/
def barrierOf (bs : List Byte) (retired : BitVec 16) : Barrier :=
  { phase := word4 bs 0, part := BitVec.ofNat 16 (field bs 4 2), arrv := BitVec.ofNat 16 (field bs 6 2), ebase := word4 bs 8,
    expb := word4 bs 12, cred := word4 bs 16, pend := 0, retiredNow := retired }

/-- A copy context as its record gives it; numbers that are neither complete in order nor outstanding completed early. -/
def ctxOf (bs : List Byte) (outstanding : List Nat) : CopyCtx :=
  let i := field bs 0 8
  let c := field bs 8 8
  { issued := i, completed := c, suspended := false,
    early := ((List.range (i - c)).map fun n => c + n + 1).filter fun n => !outstanding.contains n }

/-- What an entry's bytes give of its command. -/
def EngCmd.reread (c : EngCmd) (bs : List Byte) : EngCmd :=
  { c with
    instr := match decodeWord (dword8 bs 0) with
      | .ok i => i
      | .error _ => c.instr
    q1 := (List.range c.q1.length).map (wordAt bs 8)
    q2 := (List.range c.q2.length).map (wordAt bs 24)
    num := field bs 40 8
    leader := field bs 59 1 % 128
    o0 := word4 bs 60
    o1 := word4 bs 64
    inst := dword8 bs 72 }

/-- What the bytes of an engine-queue entry give beyond that. -/
def EngCmd.rereadQueued (c : EngCmd) (bs : List Byte) : EngCmd :=
  { c.reread bs with
    fmt := word4 bs 80
    tsh := (List.range c.tsh.length).map (wordAt bs 84)
    win := (List.range c.win.length).map (wordAt bs 96)
    seeds := if c.savedSeeds = [] then c.seeds else (List.range c.seeds.length).map (wordAt bs 128) }

/-- The reply queues and the reservations of a replies section. -/
def repliesOf (bs : List Byte) : Table (List (BitVec 128)) × Table Nat :=
  let at' (k : Nat) := k / 128 * 256 + k % 128 * 2
  (tableOf [] 512 fun k => (List.range (field bs (at' k) 1)).map fun s => BitVec.ofNat 128 (field bs (1024 + 256 * k + 16 * s) 16),
   tableOf 0 512 fun k => field bs (at' k + 1) 1)

/-- The transform descriptor of a matrix section. -/
def descOf (bs : List Byte) : Option (Nat × Word) :=
  if field bs 1050708 4 = 0 then none else some (field bs 1050708 4, word4 bs 1050712)

/-- The descriptor that the last TTWG of a saved queue sets (R300). -/
def lastTtwg (queue : List EngCmd) : Option (Nat × Word) :=
  queue.reverse.findSome? fun c => match c.instr with
    | .ttwg _ _ => some ((c.q1.getD 0 0).toNat, c.q2.getD 0 0)
    | _ => none

/-- The matrix state of a matrix section with the queue saved beside it; the engine of the placed block starts commands again (R300,
R302, R391). -/
def matrixOf (bs : List Byte) (queue : List EngCmd) : Matrix :=
  { tile := tableOf 0 1048576 fun k => BitVec.ofNat 8 (field bs k 1)
    rowExp := tableOf 0 2048 fun k => BitVec.ofNat 8 (field bs (1048576 + k) 1)
    tsh := tableOf 0 16 (wordAt bs 1050624)
    cell := tableOf 0 65536 fun k => sext 64 (field bs (1051264 + 8 * k) 8)
    plane := tableOf 0 4 (wordAt bs 1050688)
    split := word4 bs 1050704
    win := tableOf 0 8 (wordAt bs 1050720)
    latch := tableOf 0x7F 512 fun k => BitVec.ofNat 8 (field bs (1050752 + k) 1)
    desc := descOf bs, committed := (lastTtwg queue).or (descOf bs), pend := [], stopped := false }

end Sys2Proof.Machine
end

