-- ==== Sys2Proof/Machine/Save.lean ====
section
/-! DEFINITION. Bringing a block to its boundary and saving it (R379, R380, R393 to R395, R445), the requests that do so (R402, R409),
and the writing of fault records (R385). -/

namespace Sys2Proof.Machine

/-! ## To the boundary (R393) -/

/-- An entry that has written nothing, whose read may be begun again: it runs, and holds no slot (R393). -/
def CopyEntry.withdrawable (e : CopyEntry) : Bool :=
  e.wrote.isEmpty && decide (e.out = 0) && !((e.cmd.copy?.map fun k => k.1.baseDie).getD false && decide (0 < e.frag)) &&
  match e.phase with
  | .running => true
  | .gated => true
  | .ringWait => true
  | _ => false

/-- The entry as it is withdrawn: not started, its spans free. -/
def CopyEntry.withdraw (e : CopyEntry) : CopyEntry :=
  { CopyEntry.new e.cmd e.plan .running with wrote := [] }

/-- A pre-emption, a forced park or a migration stops the block (R393). -/
def Stop.withdraws (st : Stop) : Bool := st.icause = 0x30 || st.icause = 0x32 || st.icause = 0x33

/-- An entry of block b that its stop withdraws: one that has written nothing, or, whatever the stop, one that a suspended context
keeps from starting (R380, R389, R393, R445). -/
def State.goesBack (s : State) (b : Nat) (st : Stop) (e : CopyEntry) : Bool :=
  e.cmd.ofBlock b && e.withdrawable && !e.holdsSlot &&
  (st.withdraws || (s.cmdSuspended e.cmd && decide (e.frag = 0) && e.buf.isEmpty))

/-- The entries that a stop withdraws leave the copy table; their bytes are specified again, and their release-buffer space is given
back. -/
def State.withdrawCopies (s : State) (core b : Nat) (st : Stop) : State :=
  let gone := (s.core core).copies.filter fun e => s.goesBack b st e
  let s := s.modCore core fun c => { c with copies := c.copies.filter fun e => !gone.contains e }
  let s := gone.foldl (fun s e => (s.freeRelease core e.reserved).revealCopy { e with shared := [] } false) s
  s.modBlock b fun x => { x with withdrawn := x.withdrawn ++ gone.map CopyEntry.withdraw }

/-- Tile commands of the block that wait in the raster unit return to the head of the engine queue, and give their reservations
back. -/
def State.recallRays (s : State) (core b : Nat) : State :=
  let back (c : EngCmd) : Bool := c.ofBlock b && match c.instr with
    | .rtile _ _ => true
    | _ => false
  let l := (s.core core).rays.filter back
  let s := l.foldl (fun s c => s.reserve c (-1)) s
  s.modCore core fun c => { c with rays := c.rays.filter fun r => !back r, engineq := l ++ c.engineq }

/-- BLOCK_STOP: a stopping block withdraws what it has not started (R380, R393, R445). -/
def execBlockStop (b : Nat) (s : State) : Out :=
  match s.block? b with
  | none => .next s
  | some x =>
    match x.stop with
    | none => .next s
    | some st =>
      let t := s.withdrawCopies x.core b st
      .next (if x.exited then t else t.recallRays x.core b)

/-- Every copy of the block that is left in its core's table is suspended. -/
def State.copiesSaved (s : State) (b : Nat) (x : Block) : Bool :=
  (s.core x.core).copies.all fun e => !e.cmd.ofBlock b || e.phase = .suspended

/-- The block stands at its boundary and may be saved; the save is a full fence at device scope, so that the stores of others that the
block has observed are performed too (R348, R380, R393). -/
def State.atBoundary (s : State) (b : Nat) (x : Block) : Bool :=
  x.stop.isSome && !x.exited && (s.core x.core).fabric.isEmpty && s.copiesSaved b x && !s.rangeBusy b x &&
  (x.waves.values.all fun y => decide (y.count .ld = 0 ∧ y.count .st = 0) && y.storeq.isEmpty && y.outs.isEmpty && y.split.isNone) &&
  !(((s.core x.core).mat.map fun j => j.cmd.ofBlock b).getD false) && (s.core x.core).rays.all fun q => !q.ofBlock b

/-! ## The image -/

/-- The lowest place for an image of n bytes in a context's save area (R395; log entry 39). -/
def State.imageRoom (s : State) (ctx n : Nat) : Option Nat :=
  let c := s.ctx ctx
  let busy := s.images.map fun i => (i.addr, i.addr + i.size)
  let starts := ascending (alignImage c.saveBase :: busy.map fun r => alignImage r.2)
  starts.find? fun a => decide (c.saveBase ≤ a ∧ a + n ≤ c.saveBase + c.saveSize) && busy.all fun r => decide (a + n ≤ r.1 ∨ r.2 ≤ a)

/-- The records of a stop with their image are handed to the control cores (R385). -/
def State.handOver (s : State) (rs : List FaultRec) (image : Nat) : State := rs.foldl (fun s r => s.report { r with image := image }) s

/-- The record of a forced park (R409). -/
def State.forcedRecord (s : State) (x : Block) : FaultRec :=
  let t := s.tagOf x.launch
  { s.recordE 0x32 x.ctx x.core 0 with tag := t.1, replay := t.2 }

/-- An image in the dispatcher's list. -/
def State.imageOf (s : State) (b : Nat) (x : Block) (st : Stop) (exited : Bool) (copies : List CopyEntry) (queue : List EngCmd)
    (addr size : Nat) : Image :=
  { addr := addr, size := size, b := b, launch := x.launch, ctx := x.ctx, blin := x.blin, task := x.task, priv := x.priv, exited := exited,
    var := x.var, core := x.core, base := x.base, die := dieOf x.core, icause := st.icause, gang := s.inGang x, parkOrder := st.order,
    done := (List.range 4).map fun k => (x.copyCtx k).completed, copies := copies, queue := queue, frags := x.frags,
    stops := x.waves.values.map fun y => y.stopAt, replies := (x.waves.values.drop 1).map fun y => (y.replies, y.resv),
    retired := (List.range 16).map fun n => (x.barrier n).retiredNow, passing := x.passing,
    movedAt := x.movedAt }

/-- A save counted: a park or a forced park in its launch (R409, R418); a block that is not migrated has no more to park (R408). -/
def State.countPark (s : State) (b : Nat) (x : Block) (icause : Nat) : State :=
  let s := if icause = 0x33 then s else { s with power := { s.power with toPark := s.power.toPark.filter fun k => k ≠ b } }
  if icause = 0x31 ∨ icause = 0x32 then s.modLaunch x.launch fun l => { l with parks := l.parks + 1 } else s

/-- The block leaves its core: its entries and its commands go with the image. -/
def State.leaveCore (s : State) (b : Nat) (x : Block) : State :=
  let s := ((s.core x.core).copies.filter fun e => e.cmd.ofBlock b).foldl (fun s e => s.freeRelease x.core e.reserved) s
  (s.modCore x.core fun c => { c with
    copies := c.copies.filter fun e => !e.cmd.ofBlock b, engineq := c.engineq.filter fun q => !q.ofBlock b }).dropBlock b

/-- A migration asks for its restore at once (R414). -/
def State.askMigration (s : State) (addr : Nat) (st : Stop) : State :=
  match st.migrateTo with
  | some c => s.acceptRequest ⟨addr, 0, false, some c, none⟩
  | none => s

/-- The forced park of R405 is over when no block is still being forced. -/
def State.endForcing (s : State) : State :=
  let busy := s.blocks.values.any fun x => (x.stop.map fun st => decide (st.icause = 0x32)).getD false
  { s with power := { s.power with forcing := s.power.forcing && busy } }

/-- The granules that are poisoned among n bytes poison those of a copy of the bytes (R387). -/
def State.carryPoison (s : State) (old new n : Nat) : State :=
  ((granules 64 old n).filter fun g => Table.get false s.poison g).foldl
    (fun s g => { s with poison := Table.set false s.poison (g - old / 64 + new / 64) true }) s

/-- What is found in a block as it is read out, with the section that it stands in: registers in the waves, tiles and planes in the matrix
state, and the scratchpad (R381, R386, R396). See log entry 73. -/
def State.saveFaults (s : State) (b : Nat) (x : Block) : List (Nat × DataFault) :=
  ((s.sramErr.filter fun e => e.b = b).map fun e => (if 2 < e.structureCode.toNat then 5 else 0, sramFault e)) ++
  ((s.readFault (windowPa x.core x.base) x.var.scratch 0 none).map fun d => (6, s.dataFault d)).toList

/-- FAULT_DURING_SAVE, with the details of the underlying fault (R381, R386). -/
def State.saveRecord (s : State) (x : Block) (f : DataFault) : FaultRec := s.recordB x 0x3B f.2.1 0 f.2.2.1 f.2.2.2 0xFF 0

/-- IPOIS: the sections that were saved poisoned (R396). -/
def poisonedSections (fs : List (Nat × DataFault)) : Nat :=
  ((List.range 7).map fun n => if fs.any fun f => f.1 = n then 2 ^ n else 0).foldl (· + ·) 0

/-- The errors of a block that its save has found: what stood there is a free value (R381). -/
def State.readOut (s : State) (b : Nat) (x : Block) : State :=
  let t := (s.sramErr.filter fun e => e.b = b).foldl State.damage { s with sramErr := s.sramErr.filter fun e => e.b ≠ b }
  t.errorsFound (windowPa x.core x.base) x.var.scratch

/-- The save area of a block has room for its image as it stands (R395). -/
def State.canSave (s : State) (b : Nat) (x : Block) : Bool :=
  let c := s.core x.core
  let n := (c.copies.filter fun e => e.cmd.ofBlock b).length + x.withdrawn.length
  (s.imageRoom x.ctx (imageBytes (sectionsOf x.var x.exited n (c.engineq.filter fun q => q.ofBlock b).length))).isSome

/-- A block is written out (R395 to R398, R445), if its save area has room; a section that holds a fault is saved poisoned (R381).
See log entries 39 and 73. -/
def State.saveBlock (s : State) (b : Nat) (x : Block) (st : Stop) (exited : Bool) (copies : List CopyEntry) (queue : List EngCmd) : State :=
  let secs := sectionsOf x.var exited copies.length queue.length
  match s.imageRoom x.ctx (imageBytes secs) with
  | none => s
  | some a =>
    let faults := s.saveFaults b x
    let s := s.readOut b x
    let x := (s.block? b).getD x
    let h := s.imageHeader x st.icause copies.length queue.length (poisonedSections faults) exited secs
    let recs := s.sectionRecords x exited copies queue
    let s := (secs.zip recs).foldl (fun s p => if p.1.2 = 0 then s else s.write x.ctx (a + p.1.1) p.2) (s.write x.ctx a h)
    let s := s.carryPoison (windowPa x.core x.base) (a + ((secs.map Prod.fst)[6]?).getD 0) x.var.scratch
    let s := { s with images := s.images ++ [s.imageOf b x st exited copies queue a (imageBytes secs)] }
    let s := (s.countPark b x st.icause).handOver (st.records ++ (if st.icause = 0x32 then [s.forcedRecord x] else []) ++ faults.map fun f => s.saveRecord x f.2) a
    ((s.leaveCore b x).askMigration a st).endForcing

/-- SAVE_IMAGE: a block at its boundary is saved (R380, R393, R395). -/
def execSaveImage (b : Nat) (s : State) : Out :=
  match s.block? b with
  | none => .next s
  | some x =>
    match x.stop with
    | none => .next s
    | some st =>
      if !s.atBoundary b x then .next s
      else
        let c := s.core x.core
        .next (s.saveBlock b x st false ((c.copies.filter fun e => e.cmd.ofBlock b) ++ x.withdrawn) (c.engineq.filter fun q => q.ofBlock b))

/-- The engine work of an exited block that is neither suspended nor held by a suspended context is done (R445). -/
def State.exitedQuiet (s : State) (b : Nat) (x : Block) : Bool :=
  let c := s.core x.core
  (c.copies.all fun e => !e.cmd.ofBlock b || e.phase = .suspended) &&
  (c.engineq.all fun q => !q.ofBlock b || (q.copy?.isSome && (x.copyCtx q.kctx).suspended)) &&
  !((c.mat.map fun j => j.cmd.ofBlock b).getD false) && (c.rays.all fun q => !q.ofBlock b) && !s.rangeBusy b x

/-- EXITED_BLOCK_IMAGE: an exited block whose copies are all suspended or done is saved without waves; commands of a suspended
context that had not left the queue are saved as not started (R445; log entry 39). -/
def execExitedBlockImage (b : Nat) (s : State) : Out :=
  match s.block? b with
  | none => .next s
  | some x =>
    match x.stop with
    | none => .next s
    | some st =>
      if !x.exited ∨ !s.exitedQuiet b x then .next s
      else
        let c := s.core x.core
        let queued := (c.engineq.filter fun q => q.ofBlock b).map fun q => CopyEntry.new q none .running
        .next (s.saveBlock b x st true ((c.copies.filter fun e => e.cmd.ofBlock b) ++ x.withdrawn ++ queued) [])

/-! ## Requests of the system -/

/-- A block may be asked to stop: it has not exited. One that stops already is not asked again: that save satisfies the request
(R381, R415). A park takes its place among the parks (R411). -/
def State.askStop (s : State) (b icause : Nat) : State :=
  match s.block? b with
  | some x =>
    if x.exited || x.stop.isSome then s
    else
      let n := s.disp.parks + 1
      let s := s.stopBlock b icause []
      if icause = 0x30 then s
      else { s.modBlock b fun x => { x with stop := x.stop.map fun st => { st with order := n } } with disp := { s.disp with parks := n } }
  | none => s

/-- The resident blocks that a pre-emption names. -/
def State.targets (s : State) (t : PreemptTarget) : List Nat :=
  (s.blocks.filter fun e => match t with
    | .block b => decide (e.1 = b)
    | .launch l => decide (e.2.launch = l)
    | .context c => decide (e.2.ctx = c) && !e.2.priv
    | .replay h n => (s.launch? e.2.launch).any fun l => decide (tagHandle l.tag = h ∧ l.replayNo.toNat = n)).map Prod.fst

/-- Every resident member of the gang of a block (R394). -/
def State.gangMates (s : State) (b : Nat) : List Nat :=
  match s.block? b with
  | some x =>
    if !s.inGang x then [b]
    else
      let g := ((s.launch? x.launch).map fun l => l.gangOf x.blin).getD [x.blin]
      (s.blocks.filter fun e => decide (e.2.launch = x.launch) && !e.2.task && g.contains e.2.blin).map Prod.fst
  | none => []

/-- Blocks and their gangs are brought to their boundaries for pre-emption (R394, R402). -/
def State.preempt (s : State) (bs : List Nat) : State := (bs.flatMap s.gangMates).foldl (fun s b => s.askStop b 0x30) s

/-- A pre-emption enters the dispatcher's request queue, when that has room (R402). -/
def State.askPreempt (s : State) (t : PreemptTarget) : State :=
  if 64 ≤ s.disp.requests.length then s
  else { s with disp := { s.disp with requests := s.disp.requests ++ [⟨0, 4, false, none, some t⟩] } }

/-- PREEMPT_REQUEST, R402. -/
def execPreemptRequest (t : PreemptTarget) (s : State) : Out := .next (s.askPreempt t)

/-- The block's class is shed. -/
def State.shedBlock (s : State) (x : Block) : Bool := ((s.launch? x.launch).map fun l => s.power.isShed l.pclass).getD false && !x.priv

/-- The instant from which a block of a shed class is forced: 250 µs after its class was shed (R409). -/
def State.forceAt (s : State) (x : Block) : Nat :=
  Table.get 0 s.power.shedAt (((s.launch? x.launch).map fun l => l.pclass).getD 0) + 250000

/-- A wave of the block waits at a barrier whose phase has not come, since less than 250 µs after its class was shed (R351, R409). -/
def State.atBarrier (s : State) (x : Block) : Bool :=
  x.waves.values.any fun y => (y.since.all fun t => decide (t < s.forceAt x)) && match y.wait with
    | some (.barw n sc t) => !s.waitHolds x (.barw n sc t)
    | some (.cbar k sc t) => !s.waitHolds x (.cbar k sc t)
    | _ => false

/-- A block of a shed class parks once one of its waves waits at a barrier, within 250 µs of the shed (R409). -/
def State.shedPark (s : State) (b : Nat) : State :=
  match s.block? b with
  | some x => if s.shedBlock x && s.atBarrier x then s.askStop b 0x31 else s
  | none => s

/-- SHED_PARK, R409. -/
def execShedPark (b : Nat) (s : State) : Out := .next (s.shedPark b)

/-- A shed block that has not parked after 250 µs is brought to its boundary (R409). -/
def State.shedForced (s : State) (b : Nat) : State :=
  match s.block? b with
  | some x =>
    if s.shedBlock x && decide (s.forceAt x ≤ s.now) && !s.atBarrier x && !x.exited && x.stop.isNone then
      let t := s.askStop b 0x32
      { t with power := { t.power with forcing := true } }
    else s
  | none => s

/-- SHED_FORCED, R409. -/
def execShedForced (b : Nat) (s : State) : Out := .next (s.shedForced b)

/-! ## Fault records (R385) -/

/-- The first of the records with the least time, and its place. -/
def firstRecord (rs : List FaultRec) : Option (Nat × FaultRec) :=
  rs.zipIdx.foldl (fun m p => match m with
    | some (k, r) => if p.1.time < r.time then some (p.2, p.1) else some (k, r)
    | none => some (p.2, p.1)) none

/-- A record found earlier on a die still waits for its image. -/
def State.recordAhead (s : State) (die : Nat) (r : FaultRec) : Bool :=
  s.blocks.values.any fun x => match x.stop with
    | some st => st.records.any fun q => decide (q.die = die ∧ q.time < r.time)
    | none => false

/-- The memory of a fault ring faults: it is not the die's own HBM, or an uncorrectable error stands there (R385, R390). -/
def State.ringFaults (s : State) (die pa : Nat) : Bool :=
  !(region pa = .hbm && stackDie (stackOf pa) = die) || Table.get false s.memErr (pa / 64)

/-- FAULT_RECORD_WRITE: the record found first on a die is written into its ring, when the ring has room; a fault posts an event of
kind 5 (R385). Where the ring's memory faults the record becomes a DOUBLE_FAULT (R390). See log entry 58. -/
def execFaultRecordWrite (die : Nat) (s : State) : Out :=
  let d := s.die die
  match d.ringBase, firstRecord d.waiting with
  | some base, some (k, r) =>
    if 4096 ≤ d.ringCount ∨ s.recordAhead die r then .next s
    else if s.ringFaults die (base + 64 * d.ringCount) then
      .next (if d.dayStopped then s else (s.modDie die fun d => { d with waiting := dropAt d.waiting k }).doubleFault die r)
    else
      let s := s.write 0 (base + 64 * d.ringCount) r.bytes
      let s := s.modDie die fun d => { d with waiting := dropAt d.waiting k, ringCount := d.ringCount + 1 }
      .next (if 1 ≤ r.cause ∧ r.cause ≤ 0x2F then s.postEvent 5 r.cause (tagHandle r.tag) r.replay [] else s)
  | _, _ => .next s

end Sys2Proof.Machine
end

