-- ==== Sys2Proof/Machine/Restore.lean ====
section
/-! DEFINITION. The return from a stop: RFX (R391), the restore of a saved block (R399 to R401, R445), abandoned copies (R389), and the
end of blocks and launches (R390, R391). -/

namespace Sys2Proof.Machine

/-! ## RFX -/

/-- A request to the dispatcher about the image at S1, held while the queue of 64 is full (R391). -/
def rfxSyl (action : Nat) (h : Hdr) (o : FmtY) (s : State) : Out :=
  uSyl h s fun e =>
    let a := e.src64 o.s1 0
    if a.toNat % 64 ≠ 0 then failWith 1 0x09 a 0 none 64
    else if 64 ≤ e.s.disp.requests.length then .hold
    else .eff [.rfx action (o.f.getLsbD 3) a.toNat]

/-- RFX.resume, R391. -/
def execRfxResume (h : Hdr) (o : FmtY) (s : State) : Out := rfxSyl 0 h o s
/-- RFX.skip, R391. -/
def execRfxSkip (h : Hdr) (o : FmtY) (s : State) : Out := rfxSyl 1 h o s
/-- RFX.killb, R391. -/
def execRfxKillb (h : Hdr) (o : FmtY) (s : State) : Out := rfxSyl 2 h o s
/-- RFX.killl, R391. -/
def execRfxKilll (h : Hdr) (o : FmtY) (s : State) : Out := rfxSyl 3 h o s

/-! ## Abandoned work (R389, R391) -/

/-- A saved entry is abandoned: its written bytes stand, and its barrier credit is given to the members of a CPYM (R389, R445). -/
def State.abandonSaved (s : State) (e : CopyEntry) : State :=
  let s := (s.revealCopy e true).abandonSlot e
  match e.cmd.copy? with
  | some (k, o) =>
    if k = .cpym ∧ beBit o then
      ((e.plan.map fun p => p.members).getD []).foldl (fun s m => s.credit e.cmd m o.t2.toNat (e.creditBytes k true)) s
    else s
  | none => s

/-- A queued command goes without effect: what it had reserved is given back. -/
def State.discardCommand (s : State) (c : EngCmd) : State :=
  let push (s : State) := (s.modCore c.target fun q => { q with dequeResv := q.dequeResv - 1 }).openTasks c.launch (-1)
  match c.instr with
  | .spawn _ _ => push s
  | .spawnd _ _ => push s
  | .enq _ _ =>
    match s.queue? c.target with
    | some n => s.setQueue c.target { n with resv := n.resv - 1 }
    | none => s
  | _ => s

/-- The block of an image ends (R391, R445). -/
def State.killImage (s : State) (i : Image) : State :=
  let s := i.copies.foldl (fun s e => s.abandonSaved e) s
  let s := i.queue.foldl State.discardCommand s
  let s := { s with images := s.images.filter fun j => j.b ≠ i.b }
  if i.exited then s else s.noteExit i.launch i.blin i.task i.frags

/-- The entry of a core's copy table with a command's number. -/
def State.entryOf (s : State) (core : Nat) (c : EngCmd) : Option (Nat × CopyEntry) :=
  ((s.core core).copies.zipIdx.find? fun p =>
    decide (p.1.cmd.owner = c.owner ∧ p.1.cmd.num = c.num ∧ p.1.cmd.kctx = c.kctx)).map fun p => (p.2, p.1)

/-- A resident block ends as for .killb: its waves retire, its copies are abandoned, and its other commands that have not started are
discarded. It exits once its accesses have drained (R391, R417). -/
def State.killResident (s : State) (b : Nat) : State :=
  match s.block? b with
  | none => s
  | some x =>
    let es := (s.core x.core).copies.filter fun e => e.cmd.ofBlock b
    let s := es.foldl (fun s e => match s.entryOf x.core e.cmd with
      | some (k, f) => s.finishCopy x.core k f true
      | none => s) s
    let s := ((s.core x.core).engineq.filter fun q => q.ofBlock b).foldl State.discardCommand s
    let s := s.modCore x.core fun c =>
      { c with engineq := c.engineq.filter fun q => !q.ofBlock b, rays := c.rays.filter fun q => !q.ofBlock b }
    let s := s.handOver ((x.stop.map fun st => st.records).getD []) 0
    let s := s.modBlock b fun x =>
      { x with stop := none, switch := none, waves := Table.map (fun _ y => { y with living := 0, wait := none, split := none }) x.waves }
    let s := { s with power := { s.power with toPark := s.power.toPark.filter fun k => k ≠ b } }
    ((x.waveIds.foldl (fun s w => s.modBlock b fun x => x.noteRetired w) s).settle b).endForcing

/-- The packets of a launch that no task wave has taken are discarded. -/
def State.dropPackets (s : State) (launch : Nat) : State :=
  let keep (p : Packet) : Bool := p.launch ≠ launch
  let gone := s.cores.values.flatMap fun c => (c.deque ++ c.raster.pend).filter fun p => !keep p
  let s := { s with cores := Table.map (fun _ c =>
      { c with deque := c.deque.filter keep, raster := { c.raster with pend := c.raster.pend.filter keep } }) s.cores }
  gone.foldl (fun s p => (p.frag.toList.foldl State.fragEnds s).openTasks launch (-1)) s

/-- A launch is ended: its blocks and images end, unplaced blocks are not placed, and its replay is abandoned (R82, R390, R391). -/
def State.endLaunch (s : State) (launch state cause : Nat) : State :=
  match s.launch? launch with
  | none => s
  | some l =>
    if l.status = .completed ∨ l.status = .ended then s
    else
      let s := (s.abandonReplay l.replay).modLaunch launch fun l => { l with status := .ending state cause, resv := [] }
      let s := (s.images.filter fun i => i.launch = launch).foldl State.killImage s
      let s := (s.blocks.filter fun e => e.2.launch = launch ∧ !e.2.priv).foldl (fun s e => s.killResident e.1) s
      s.dropPackets launch

/-! ## Requests -/

/-- Request k leaves the queue. -/
def State.dropRequest (s : State) (k : Nat) : State := { s with disp := { s.disp with requests := dropAt s.disp.requests k } }

/-! ## Places (R400, R401) -/

/-- What the block takes of a core: a saved exited block its scratchpad range alone (R445). -/
def Image.heldVar (i : Image) : Variant :=
  if i.exited then { i.var with waves := 0, vregs := 0, sregs := 0, weight := 0, flags := i.var.flags &&& 6 } else i.var

/-- The core a restore must use: the destination of a migration, or the core of the tile that a queued RTILE names. -/
def Image.fixedCore (i : Image) (r : Request) : Option Nat :=
  if r.core.isSome then r.core
  else if i.queue.any fun c => match c.instr with
    | .rtile _ _ => true
    | _ => false
  then some i.core else none

/-- The reservations that bind a restore: those of launches in queues of higher priority (R100, R401). -/
def State.restoreBounds (s : State) (prio core : Nat) : List Reserved :=
  s.launches.filterMap fun e => if e.2.status = .placing ∧ e.2.prio < prio then e.2.resv.find? core else none

/-- The physical die of an image (R400): that of the virtual die in its header. -/
def State.restoreDie (s : State) (i : Image) : Nat := s.disp.physicalDie (field (s.bytes i.addr 256) 24 4 / 256 % 4)

/-- The place of one image among holders. -/
def State.restorePlace (s : State) (i : Image) (r : Request) (hs : List Holder) : Option Holder :=
  let prio := ((s.launch? i.launch).map fun l => l.prio).getD 3
  let bounds := s.restoreBounds prio
  let h := match i.fixedCore r with
    | some c => if (s.die (dieOf c)).inService then (s.fits hs (bounds c) i.heldVar c).map fun base => (⟨c, i.heldVar, base⟩ : Holder) else none
    | none => if (s.die (s.restoreDie i)).inService then s.onDie hs bounds [i.heldVar] (s.restoreDie i) else none
  h.filter fun h => decide ((s.core h.core).copies.length + i.copies.length ≤ 128 ∧ (s.core h.core).engineq.length + i.queue.length ≤ 64)

/-- The places of a list of images, each counted for the next. -/
def State.restorePlaces (s : State) : List (Request × Image) → List Holder → Option (List Holder)
  | [], _ => some []
  | (r, i) :: l, hs =>
    match s.restorePlace i r hs with
    | none => none
    | some h => (State.restorePlaces s l (h :: hs)).map fun t => h :: t

/-- The images of the gang of an image. -/
def State.gangSaved (s : State) (i : Image) : List Image :=
  let g := ((s.launch? i.launch).map fun l => l.gangOf i.blin).getD [i.blin]
  s.images.filter fun j => decide (j.launch = i.launch) && j.gang && g.contains j.blin

/-- The stops of the members of an image's gang that are still being saved. -/
def State.gangStops (s : State) (i : Image) : List Stop :=
  let g := ((s.launch? i.launch).map fun l => l.gangOf i.blin).getD [i.blin]
  s.blocks.values.filterMap fun x => if x.launch = i.launch ∧ !x.task ∧ g.contains x.blin then x.stop else none

/-- The gang of an image has been pre-empted: its members are restored together (R394). -/
def State.gangPreempted (s : State) (i : Image) : Bool :=
  i.gang && ((s.gangSaved i).any (fun j => j.icause = 0x30) || (s.gangStops i).any fun st => st.icause = 0x30)

/-- The requests for the images that are restored together with an image, when each has one and no member is still being saved
(R394). -/
def State.gangRequests (s : State) (i : Image) : Option (List (Request × Image)) :=
  if s.gangPreempted i ∧ s.gangStops i ≠ [] then none
  else allSome ((if s.gangPreempted i then s.gangSaved i else [i]).map fun j =>
    (s.disp.requests.find? fun r => decide (r.image = j.addr ∧ r.action < 2)).map fun r => (r, j))

/-- An earlier request can be served: it is answered first (R401). -/
def State.requestBefore (s : State) (k : Nat) : Bool :=
  (s.disp.requests.take k).any fun r => decide (r.action < 2) &&
    match s.imageAt r.image with
    | some i => (s.gangRequests i).isSome
    | none => false

/-- A launch in a queue of higher priority has blocks that can be placed: they go ahead (R401). -/
def State.launchAhead (s : State) (i : Image) : Bool :=
  let prio := ((s.launch? i.launch).map fun l => l.prio).getD 3
  s.launches.any fun e => decide (e.2.prio < prio) && (s.placePlan e.1 e.2).any fun p => s.actsOn p.2

/-! ## Writing back (R397, R398, R401) -/

/-- A range that lay in the block's old scratchpad range, at its new place. -/
def movedRange (old new size : Nat) (r : Nat × Nat) : Nat × Nat :=
  if old ≤ r.1 ∧ r.2 ≤ old + size then (r.1 - old + new, r.2 - old + new) else r

/-- An entry with its physical ranges at their new places. -/
def CopyEntry.moved (e : CopyEntry) (old new size : Nat) : CopyEntry :=
  let m := List.map (movedRange old new size)
  { e with read := m e.read, dest := m e.dest, wrote := m e.wrote, shared := m e.shared, reserved := 0 }

/-- Copy entries in ascending number. -/
def insertEntry (e : CopyEntry) : List CopyEntry → List CopyEntry
  | [] => [e]
  | f :: r => if e.cmd.num < f.cmd.num then e :: f :: r else f :: insertEntry e r

/-- A row of a saved tile transfer translated again, its unbacked pages bound; one that cannot be reached any more moves nothing. -/
def State.rowAgain (s : State) (x : Block) (sp tile : Nat) (off : Int) (rb : Nat) (k : XKind) : State × List (Nat × Nat) :=
  let r := s.tileRows x sp tile off 0 rb k 1 0
  (r.1.foldl (fun s va => (s.translate (dieOf x.core) (some x.core) x.ctx va k).1) s, match r.2 with
    | .ok (p :: _) => p
    | _ => [])

/-- A saved TLD or TST is translated again, so that no page-table update of the meantime is passed by (R239, R306; log entry 78). -/
def State.retranslate (s : State) (x : Block) (c : EngCmd) : State × EngCmd :=
  let again (o : FmtE) (k : XKind) : State × EngCmd :=
    let sp := (o.f.extractLsb' 0 2).toNat
    let b := (c.w1 0).toNat
    let at' : Int × Nat := if sp = 0 then (((pair (c.w1 0) (c.w1 1)).toNat : Nat), 0) else if sp = 1 then (b, 0) else (b % 2 ^ 24, b / 2 ^ 24)
    let r := (List.range (tshRows (c.sh 0))).foldl (fun (a : State × List (List (Nat × Nat))) (i : Nat) =>
      let p := a.1.rowAgain { x with ctx := c.ctx } sp at'.2 (at'.1 + (i : Int) * sext 32 (c.w2 0).toNat) (tshRb (c.sh 0)) k
      (p.1, a.2 ++ [p.2])) (s, [])
    (r.1, { c with rows := r.2 })
  match c.instr with
  | .tld _ o => again o .load
  | .tst _ o => again o .store
  | _ => (s, c)

/-- The commands of an image return to the engine queue of a core. -/
def State.requeue (s : State) (core : Nat) (x : Block) (l : List EngCmd) : State :=
  l.foldl (fun s c =>
    let r := s.retranslate x c
    r.1.modCore core fun q => { q with engineq := q.engineq ++ [r.2] }) s

/-- The counter of a command in an image (R163). -/
def EngCmd.ctr? (c : EngCmd) : Option Ctr :=
  if c.copy?.isSome then some .cp else if (matrixCmd c.instr).isSome then some .tl else none

/-- The operations of wave w that its block's entries stand for. -/
def opsOf (cs : List EngCmd) (b w : Nat) : List OpRec :=
  (cs.filter fun c => c.ofWave b w).filterMap fun c => c.ctr?.map fun t => ⟨c.sid, t, 1⟩

/-- The waves of an image. -/
def State.imageWaves (s : State) (i : Image) (cs : List EngCmd) : Table Wave :=
  let bs := s.sectionAt i 0
  let reps := repliesOf (s.sectionAt i 4) :: i.replies
  let top := cs.foldl (fun m c => max m (c.sid + 1)) 0
  if i.exited then [] else
  (List.range i.var.waves).map fun w =>
    let r := reps.getD w ([], [])
    (w, { waveOf i.var (recordAt bs (waveRecBytes i.var) w) s.now with
      stopAt := i.stops.getD w 0, nextSid := top, ops := opsOf cs i.b w, replies := r.1, resv := r.2 })

/-- The wave was stopped by a fault of kind D or S whose bundle has a known length (R391). -/
def Wave.skips (y : Wave) : Bool :=
  let c := y.cause.toNat
  decide (c ≠ 0 ∧ c < 0x30 ∧ c ≠ 0x07) && !y.fmask.getLsbD 8 && !(decide (c = 0x08) && y.fmask.extractLsb' 0 5 = (0 : BitVec 5))

/-- Syllables of the bundle at which a wave stopped. -/
def State.bundleLength (s : State) (x : Block) (pc : PC) : Option Nat :=
  match s.fetchBundle x pc with
  | (_, .ok ws) => some ws.length
  | (_, .error _) => none

/-- The bundle that RFX.skip skips for a wave: its address and its length. -/
def State.skipPast (s : State) (x : Block) (y : Wave) : Option (PC × Nat) :=
  if y.skips then (s.bundleLength x y.stopAt).map fun n => (y.stopAt, n) else none

/-- The block with its restored waves skipped where RFX.skip says so; threads that leave a switch point so need not pass it (R179). -/
def State.skipped (s : State) (x : Block) : Block :=
  { x with
    waves := Table.map (fun _ y => y.resumeAt (s.skipPast x y)) x.waves
    passing := Table.map (fun w m =>
      ((x.waves.find? w).bind fun y => (s.skipPast x y).map fun p => m &&& ~~~y.lanesAt p.1).getD m) x.passing }

/-- The restored block, without its entries. -/
def State.imageBlock (s : State) (i : Image) (r : Request) (h : Holder) (cs : List EngCmd) : Block :=
  let ks := s.sectionAt i 2
  let out (k : Nat) := (cs.filter fun c => decide (c.kctx = k) && c.copy?.isSome).map fun c => c.num
  let x : Block :=
    { var := i.var, launch := i.launch, ctx := i.ctx, priv := i.priv, task := i.task, blin := i.blin, core := h.core, base := h.base,
      waves := s.imageWaves i cs, barriers := if i.exited then [] else (List.range 16).map fun n =>
        (n, barrierOf (recordAt (s.sectionAt i 1) 32 n) (i.retired.getD n 0)),
      kctx := (List.range 4).map fun k => (k, ctxOf (recordAt ks 32 k) (out k)),
      mtx := if i.var.mtx && !i.exited then some (matrixOf (s.sectionAt i 5) cs) else none,
      switch := none, stop := none, exited := i.exited, movedAt := if r.core.isSome then some s.now else i.movedAt, placedAt := s.now,
      grow := [], frags := i.frags, withdrawn := [], passing := i.passing }
  if r.action = 1 then s.skipped x else x

/-- COPY_RESUMED of copy context k (R389). -/
def State.copyResumed (s : State) (x : Block) (k resume : Nat) : State :=
  let t := s.tagOf x.launch
  s.report { s.recordE 0x3D x.ctx x.core (mkDet k none resume) with tag := t.1, replay := t.2 }

/-- The contexts that the image shows suspended while no entry of theirs is, as after a credit that did not fit, resume too (R359, R389;
log entry 80). -/
def State.resumeEmpty (s : State) (x : Block) (ks : List Byte) (copies : List CopyEntry) : State :=
  (List.range 4).foldl (fun s k =>
    if field (recordAt ks 32 k) 16 1 = 0 ∨ copies.any (fun e => e.phase = .suspended && decide (e.cmd.kctx = k)) then s
    else s.copyResumed x k 0) s

/-- A saved command that had not started begins: its value checks stand where it had passed them (R393). -/
def State.restartCopy (s : State) (core j : Nat) (e : CopyEntry) : State :=
  match s.runner e.cmd, e.cmd.copy?, e.plan with
  | some q, some (k, _), some p => (if k.baseDie then s.startBase core j q p else s.startCopy core j q e.cmd k p).openEntry core j
  | _, _, _ => s.checkCopy core j e.cmd

/-- A suspended command runs on from its resume point. -/
def State.resumeCopy (s : State) (x : Block) (core j : Nat) (e : CopyEntry) : State :=
  let s := s.copyResumed x e.cmd.kctx e.resume
  match s.runner e.cmd, e.cmd.copy?, e.plan with
  | some q, some (k, _), some p =>
    let d : Side := if k.baseDie then ⟨p.dst, 0, 0, p.dst.base.toNat⟩ else p.dstSide e.cmd
    let a : Side := if k.baseDie then ⟨p.src, 0, 0, p.src.base.toNat⟩ else p.srcSide e.cmd
    let reading := decide (k = .cpyt) && decide (e.frag < (p.frags k e.cmd []).length)
    s.modCopy core j fun f => { f with
      phase := match f.slot with
        | some n => .accepted n
        | none => if reading then .gated else .running
      cause := 0, sources := [a.entry q],
      spans := if k.baseDie then [d.entry q] else s.spansOf q k p e.cmd }
  | _, _, _ => s.checkCopy core j e.cmd

/-- One entry of the image in its new table, as RFX directs. -/
def State.reviveCopy (s : State) (core : Nat) (abandon : Bool) (e : CopyEntry) : State :=
  match s.entryOf core e.cmd, s.runner e.cmd with
  | some (j, f), some q =>
    if f.phase ≠ .suspended then s.restartCopy core j f
    else if abandon then s.finishCopy core j f true
    else match q.x with
      | some x => s.resumeCopy x core j f
      | none => s
  | _, _ => s

/-- RESTORE_REMAPPED, with the virtual numbers that the two physical dies have now (R400, R401; log entry 67). -/
def State.noteRemap (s : State) (i : Image) (core : Nat) : State :=
  if dieOf core = i.die then s
  else
    let t := s.tagOf i.launch
    s.report { s.recordE 0x3C i.ctx core (mkDet (s.disp.virtualDie i.die) none (s.disp.virtualDie (dieOf core))) with image := i.addr, tag := t.1, replay := t.2 }

/-- A migrated block has moved (R114, R414). -/
def State.noteMove (s : State) (i : Image) (r : Request) (core : Nat) : State :=
  if r.core.isNone then s
  else
    (s.modLaunch i.launch fun l => { l with moves := l.moves + 1 }).modDie (dieOf core) fun d => { d with migrations := d.migrations + 1 }

/-- An image returns to service at a place. See log entry 39. -/
def State.restoreOne (s : State) (r : Request) (i : Image) (h : Holder) : State :=
  let ks := s.sectionAt i 2
  let cbs := ks.drop 128
  let qbs := s.sectionAt i 3
  let old := windowPa i.core i.base
  let copies := (i.copies.zipIdx.map fun p => { p.1 with cmd := p.1.cmd.reread (recordAt cbs 128 p.2) }).foldl (fun l e => insertEntry e l) []
  let queue := i.queue.zipIdx.map fun p => p.1.rereadQueued (recordAt qbs 640 p.2)
  let cs := copies.map (fun e => e.cmd) ++ queue
  let x := s.imageBlock i r h cs
  let sp := s.sectionAt i 6
  let from' := i.addr + (((sectionsOf i.var i.exited i.copies.length i.queue.length)[6]?).map Prod.fst).getD 0
  let s := ((s.occupy h).write i.ctx (windowPa h.core h.base) sp).carryPoison from' (windowPa h.core h.base) i.var.scratch
  let copies := copies.map fun e => e.moved old (windowPa h.core h.base) i.var.scratch
  let s := { s.setBlock i.b x with
    images := s.images.filter fun j => j.b ≠ i.b
    disp := { s.disp with requests := s.disp.requests.filter fun q => q ≠ r } }
  let s := (s.modCore h.core fun c => { c with copies := c.copies ++ copies }).requeue h.core x queue
  let s := copies.foldl (fun s e => s.forgetAll (e.dest ++ e.wrote)) s
  let s := copies.foldl (fun s e => s.reviveCopy h.core r.abandon e) (s.acquire h.core 4)
  let s := if r.abandon then s else s.resumeEmpty x ks copies
  ((s.noteRemap i h.core).noteMove i r h.core).settle i.b

/-- A restore that has its turn takes its places, or waits (R100, R105, R401). -/
def State.restore (s : State) (k : Nat) (i : Image) : State :=
  match s.gangRequests i with
  | none => s
  | some l =>
    if !s.placing ∨ (!l.any (fun p => p.1.core.isSome) ∧ (s.requestBefore k ∨ s.launchAhead i)) then s
    else match s.restorePlaces l s.holders with
      | none => s
      | some hs =>
        match s.wakeFor hs with
        | (s, true) => s
        | (s, false) => (l.zip hs).foldl (fun s p => s.restoreOne p.1.1 p.1.2 p.2) s

/-- RESTORE_BLOCK: request k of the dispatcher's queue, checked as it entered it, is carried out (R391, R394, R400 to R402); one whose
image has gone since is refused (R415). -/
def execRestoreBlock (k : Nat) (s : State) : Out :=
  match s.disp.requests[k]? with
  | none => .next s
  | some r =>
    match r.target, s.imageAt r.image with
    | some t, _ => .next ((s.dropRequest k).preempt (s.targets t))
    | none, none => .next ((s.dropRequest k).firmwareAbort 1 none)
    | none, some i =>
      match r.action with
      | 2 => .next ((s.dropRequest k).killImage i)
      | 3 => .next ((s.dropRequest k).endLaunch i.launch 3 i.icause)
      | _ => .next (s.restore k i)

/-! ## DOUBLE_FAULT (R390) -/

/-- The Daybreak monitor ends a launch: a FIRMWARE_ABORT record and an event of kind 5. The reason is the monitor's own: a free
value. See log entry 17. -/
def State.monitorEnds (s : State) (launch : Nat) : State :=
  match s.launch? launch with
  | none => s
  | some l =>
    let s := s.report { s.recordL 0x3E l.ctx 0 (mkDet ((Config.freeWord s.steps launch).toNat) none 0) l.tag l.replayNo with flags := 8 }
    (s.postEvent 5 0x3E (tagHandle l.tag) l.replayNo []).endLaunch launch 4 0x3F

/-- The record of a DOUBLE_FAULT: the details are those of the underlying fault (R386). -/
def FaultRec.doubled (r : FaultRec) : FaultRec := { r with cause := 0x3F, flags := r.flags ||| 8, image := 0 }

/-- DOUBLE_FAULT: the Daylight runtime of a die stops, the die leaves service, and every launch with blocks there ends (R390). -/
def execDoubleFault (die : Nat) (cause : BitVec 6) (s : State) : Out :=
  let ls := ascending ((s.blocks.values.filter fun x => dieOf x.core = die ∧ !x.priv).map fun x => x.launch)
  let r := ((s.die die).double.getD (s.recordE cause.toNat 0 (die * 256) 0)).doubled
  let s := (s.report r).modDie die fun d => { d with dayStopped := true, inService := false, double := none }
  let s := { s with fw := { s.fw with doubleFaults := s.fw.doubleFaults + 1 }, blocks := s.blocks.filter fun e => !(e.2.priv && decide (dieOf e.2.core = die)) }
  .next (ls.foldl State.monitorEnds s)

end Sys2Proof.Machine
end

