-- ==== Sys2Proof/Machine/Switch.lean ====
section
/-! DEFINITION. Variant switching: switch maps (R51 to R53), SWPT (R179), requests (R412), the switch itself (R54, R413) and its
withdrawal (R179); and migration (R113, R114, R414). -/

namespace Sys2Proof.Machine

/-! ## Switch maps (R51, R52) -/

/-- A row of a switch map. -/
structure SwRow where
  kind : Nat
  len : Nat
  locs : List Nat
  ok : Bool
  deriving DecidableEq, Repr

/-- A switch map and the address of its header; ok says that its reserved fields are zero and ROWS is in range. -/
structure SwMap where
  header : Nat
  id : Nat
  vmask : Nat
  points : List Nat
  rows : List SwRow
  ok : Bool
  deriving DecidableEq, Repr

/-- The row in 24 bytes. -/
def swRowOf (bs : List Byte) : SwRow :=
  { kind := field bs 0 1, len := field bs 2 2, locs := (List.range 4).map fun i => field bs (4 + 4 * i) 4,
    ok := zeroField bs 1 1 && zeroField bs 20 4 }

/-- The map in a header that stands at an address, and its rows. -/
def swMapOf (a : Nat) (h bs : List Byte) : SwMap :=
  { header := a, id := field h 0 1, vmask := field h 1 1 % 16, points := (List.range 4).map fun i => field h (8 + 4 * i) 4,
    rows := (List.range (field h 2 2)).map fun k => swRowOf ((bs.drop (24 * k)).take 24),
    ok := decide (field h 1 1 < 16 ∧ field h 2 2 ≤ 1024) && zeroField h 4 4 }

/-- Where the bundle of the point stands in variant i: POINT i counts from the header of the map, as a signed number, since the maps
follow the code (R51, R150; log entry 8). -/
def SwMap.point (m : SwMap) (i : Nat) : Nat :=
  let n := m.points.getD i 0
  (m.header + (if n < 2 ^ 31 then n else 2 ^ 64 - 2 ^ 32 + n)) % 2 ^ 64

/-- n maps that follow one another from an address (R51). -/
def State.readMapsAt (s : State) (q : Runner) : Nat → Nat → State × Except Nat (List SwMap)
  | 0, _ => (s, .ok [])
  | n + 1, a =>
    match s.readVa q a 24 with
    | (s, .error c) => (s, .error c)
    | (s, .ok h) =>
      match s.readVa q (a + 24) (24 * field h 2 2) with
      | (s, .error c) => (s, .error c)
      | (s, .ok bs) =>
        match State.readMapsAt s q n (a + 24 + 24 * field h 2 2) with
        | (s, .error c) => (s, .error c)
        | (s, .ok l) => (s, .ok (swMapOf a h bs :: l))

/-- The switch maps of a block's kernel, or the sub-cause of a failed read (R45, R46). -/
def State.readMaps (s : State) (x : Block) : State × Except Nat (List SwMap) :=
  let q := dispatcher x.ctx
  match s.readVa q x.var.kernel 64 with
  | (s, .error c) => (s, .error c)
  | (s, .ok h) => s.readMapsAt q (field h 12 2) (x.var.kernel + field h 8 4)

/-! ## SWPT (R179) -/

/-- A standing request with the threads of wave w held at the point id. -/
def SwitchReq.hold (q : SwitchReq) (w : Nat) (m : Lanes) (id now : Nat) : SwitchReq :=
  { q with fixed := some (q.fixed.getD (id, now)), held := q.held.put w (Table.get 0 q.held w ||| m) }

/-- The bundle is held at its SWPT. -/
def State.holdAtPoint (s : State) (h : Hdr) (e : Env) (q : SwitchReq) (id : Nat) : Out :=
  (s.modBlock e.iu.block fun x => { x with switch := some (q.hold e.iu.wave e.iu.lanes id s.now) }).issued h e.iu 0 .hold

/-- Every living thread of the block is held at the fixed point. -/
def Block.allHeld (x : Block) (q : SwitchReq) : Bool :=
  q.fixed.isSome && x.waves.all fun e => decide (e.2.living &&& ~~~(Table.get 0 q.held e.1) = 0)

/-- SWPT, R179: it holds its threads when a request stands and the kernel has a map of its point, the first one reached fixing the
point for 50 µs; otherwise it is a NOP, and so it is once for a thread that a switch has moved. See log entry 41. -/
def execSwpt (h : Hdr) (o : FmtC) (s : State) : Out :=
  match s.env with
  | none => .next s
  | some e =>
    let id := o.imm.toNat % 256
    let pass (s : State) : Out := s.issued h e.iu 0 (.eff [])
    let moved := Table.get 0 e.x.passing e.iu.wave &&& e.iu.lanes
    if moved ≠ 0 then s.issued h e.iu 0 (.eff [.passed moved])
    else if !e.holds h then pass s
    else match e.x.switch with
      | none => pass s
      | some q =>
        match q.fixed with
        | some f => if f.1 = id ∧ (s.now < f.2 + 50000 ∨ e.x.allHeld q = true) then s.holdAtPoint h e q id else pass s
        | none =>
          match s.readMaps e.x with
          | (s, .error c) => s.issued h e.iu 0 (failWith 1 0x1D 0 c none id)
          | (s, .ok ms) => if ms.any fun m => m.id = id then s.holdAtPoint h e q id else pass s

/-! ## Validity (R53) -/

/-- LOC of a row in variant i. -/
def SwRow.loc (r : SwRow) (i : Nat) : Nat := r.locs.getD i 0xFFFFFFFF
/-- Elements of the row: registers, or bytes of scratchpad. -/
def SwRow.size (r : SwRow) : Nat := if r.kind = 4 then 64 * r.len else r.len
/-- The limit of a kind of item in a variant. -/
def swLimit (v : Variant) (kind : Nat) : Nat :=
  match kind with
  | 0 => v.vregs
  | 1 => v.sregs
  | 2 => 16
  | 3 => 16
  | _ => v.scratch

/-- A bundle that holds SWPT with a number stands at an address. -/
def State.pointAt (s : State) (x : Block) (a id : Nat) : Bool :=
  decide (a % 8 = 0 ∧ a < 2 ^ 52) &&
  match s.fetchBundle x (BitVec.ofNat 53 a) with
  | (_, .ok ws) => ws.any fun w => match decodeWord w with
      | .ok (.swpt _ o) => decide (o.imm.toNat % 256 = id)
      | _ => false
  | (_, .error _) => false

/-- Two rows overlap in a variant; a row of no items overlaps none. -/
def SwRow.meets (b : Nat) (r q : SwRow) : Bool :=
  decide (q.kind = r.kind ∧ 0 < r.size ∧ 0 < q.size ∧ q.loc b < r.loc b + r.size ∧ r.loc b < q.loc b + q.size)

/-- Some rows overlap in a variant. -/
def rowsMeet (b : Nat) : List SwRow → Bool
  | [] => false
  | r :: l => (l.any fun q => r.meets b q) || rowsMeet b l

/-- The IDs ascend strictly. -/
def idsAscend : List SwMap → Bool
  | a :: b :: l => decide (a.id < b.id) && idsAscend (b :: l)
  | _ => true

/-- The first condition of R53 that a switch of a block to a variant through a map breaks, 0 for none. A scratchpad LOC that is no
multiple of 64 counts with condition 3, ROWS above 1,024 with condition 7 (log entry 68). -/
def State.mapBreaks (s : State) (x : Block) (v : Variant) (ms : List SwMap) (m : SwMap) : Nat :=
  let a := x.var.index
  let b := v.index
  let point (i : Nat) := m.vmask.testBit i && s.pointAt x (m.point i) m.id
  if !point a ∨ !point b then 1
  else if m.rows.any fun r => decide (r.loc a = 0xFFFFFFFF ∨ r.loc b = 0xFFFFFFFF ∨ 5 ≤ r.kind) then 2
  else if m.rows.any fun r => decide (swLimit v r.kind < r.loc b + r.size ∨ (r.kind = 4 ∧ (r.loc a % 64 ≠ 0 ∨ r.loc b % 64 ≠ 0))) then 3
  else if rowsMeet b m.rows then 4
  else if x.var.rotv ≠ v.rotv then 5
  else if x.waves.any fun e => decide (v.waves ≤ e.1) && decide (e.2.living ≠ 0) then 6
  else if !idsAscend ms ∨ !ms.all fun n => n.ok && n.rows.all fun r => r.ok then 7
  else 0

/-! ## The switch (R54, R413) -/

/-- The place in variant a of item k of a kind in variant b, if a row covers it. -/
def SwMap.origin (m : SwMap) (kind a b k : Nat) : Option Nat :=
  (m.rows.find? fun r => decide (r.kind = kind ∧ r.loc b ≤ k ∧ k < r.loc b + r.size)).map fun r => r.loc a + (k - r.loc b)

/-- An item of the new variant: moved from a place inside the old variant, or unspecified. -/
def movedItem {α : Type} (m : SwMap) (x : Block) (v : Variant) (kind k : Nat) (old : Nat → α) (free : α) : α :=
  match m.origin kind x.var.index v.index k with
  | some j => if j < swLimit x.var kind then old j else free
  | none => free

/-- Wave w in the new variant: threads, generator states and rotation are kept; the items of the rows move; the rest is
unspecified (R6, R54). Vector and predicate rows name registers at rotation base 0 (log entry 69). -/
def movedWave (m : SwMap) (x : Block) (v : Variant) (step w : Nat) (y : Wave) (point : PC) : Wave :=
  let free (kind k : Nat) : Word := Config.freeWord step (2 ^ 40 + w * 2 ^ 20 + kind * 2 ^ 18 + k)
  let bit (kind k : Nat) : Bool := Config.freeBit step (2 ^ 40 + w * 2 ^ 20 + kind * 2 ^ 18 + k)
  let freeLanes (k : Nat) : Lanes := BitVec.ofNat 128 (bitsNum 128 fun l => bit 2 (128 * k + l))
  { y with
    pc := tableOf 0 128 fun l => if y.living.getLsbD l then point else y.pcOf l
    v := tableOf 0 (128 * v.vregs) fun k =>
      movedItem m x v 0 (k / 128) (fun j => Table.get 0 y.v (128 * j + k % 128)) (free 0 k)
    s := (tableOf 0 v.sregs fun k => movedItem m x v 1 k (Table.get 0 y.s) (free 1 k)).filter fun e => e.1 ≠ 0
    p := (tableOf 0 16 fun k => movedItem m x v 2 k (Table.get 0 y.p) (freeLanes k)).filter fun e => e.1 ≠ 0
    c := BitVec.ofNat 16 (bitsNum 16 fun k => decide (k ≠ 0) && movedItem m x v 3 k (fun j => y.c.getLsbD j) (bit 3 k))
    since := none }

/-- A block in its new variant at the range that begins at base: waves beyond the old number have no thread. -/
def Block.switched (x : Block) (m : SwMap) (v : Variant) (base step : Nat) : Block :=
  let point : PC := BitVec.ofNat 53 (m.point v.index)
  { x with
    var := v, base := base, switch := none, grow := [], passing := List.map (fun (e : Nat × Wave) => (e.1, e.2.living)) x.waves, barriers := (List.range 16).map fun n => (n, x.barrier n)
    waves := (List.range v.waves).map fun w => (w, movedWave m x v step w ((x.waves.find? w).getD Wave.empty) point) }

/-- The scratchpad ranges of the rows move; the rest of the new range is unspecified. -/
def State.moveScratch (s : State) (x : Block) (m : SwMap) (v : Variant) (base : Nat) : State :=
  let at' (b n : Nat) := windowPa x.core (b + n)
  let rows := m.rows.filter fun r => r.kind = 4
  let got := rows.map fun r =>
    let n := min r.size (x.var.scratch - r.loc x.var.index)
    (at' base (r.loc v.index), s.bytes (at' x.base (r.loc x.var.index)) n)
  got.foldl (fun s p => s.write x.ctx p.1 p.2) (s.forget (at' base 0) (at' base v.scratch))

/-- The state without what block b holds. -/
def State.without (s : State) (b : Nat) : List Holder := (s.dropBlock b).holders

/-- Block b would fit its core in variant v, its own resources counted as free and what gangs withhold as taken (R92, R100, R412, R413). -/
def State.fitsFor (s : State) (b : Nat) (x : Block) (v : Variant) : Option Nat := s.fits (s.without b) (s.boundsOf x) v x.core

/-- Nothing is on its way to the registers or the scratchpad of the block (log entry 41). -/
def State.quiet (s : State) (b : Nat) (x : Block) : Bool :=
  (x.waves.values.all fun y => decide (y.count .ld = 0 ∧ y.count .st = 0 ∧ y.count .tl = 0) && y.storeq.isEmpty && y.outs.isEmpty) &&
  s.offFabric b x && !s.engineOpen b x && !s.rangeBusy b x

/-- The switch fails: SWITCH_MAP_INVALID at the lowest wave with threads; the block stays in its variant (R53). See log entry 36. -/
def State.switchFails (s : State) (b : Nat) (x : Block) (cond id : Nat) : State :=
  match List.find? (fun (e : Nat × Wave) => e.2.living ≠ 0) x.waves with
  | some (w, y) =>
    (s.stopWave b w 0x1D 0 1 0 (mkDet cond none id) 0).modWave b w fun z => { z with stopAt := y.pcOf (leaderOf y.living) }
  | none => s.modBlock b Block.withdraw

/-- VARIANT_SWITCH: every thread is held at the point; the map is checked and the block moves (R53, R54, R413). -/
def execVariantSwitch (b : Nat) (s : State) : Out :=
  match s.block? b with
  | none => .next s
  | some x =>
    match x.switch with
    | none => .next s
    | some q =>
      if !x.allHeld q ∨ x.stop.isSome ∨ x.exited ∨ !s.quiet b x then .next s
      else
        let id := (q.fixed.map Prod.fst).getD 0
        match s.readMaps x with
        | (s, .error c) => .next (s.switchFails b x c id)
        | (s, .ok ms) =>
          match ms.find? fun m => m.id = id with
          | none => .next (s.modBlock b Block.withdraw)
          | some m =>
            let n := s.mapBreaks x q.target ms m
            if n ≠ 0 then .next (s.switchFails b x n id)
            else match s.fitsFor b x q.target with
              | none => .next s
              | some base =>
                let s := (s.taken ⟨x.core, { q.target with waves := 0, vregs := 0, sregs := 0, flags := 0, weight := 0 }, base⟩)
                let s := (s.moveScratch x m q.target base).setBlock b (x.switched m q.target base s.steps)
                let s := s.modDie (dieOf x.core) fun d => { d with switches := d.switches + 1 }
                .next ((s.modLaunch x.launch fun l => { l with switches := l.switches + 1 }).settle b)

/-! ## Requests (R412) and their withdrawal (R179) -/

/-- Every map with bit a set also has bit b set. -/
def mapsCarry (ms : List SwMap) (a b : Nat) : Bool := ms.all fun m => !m.vmask.testBit a || m.vmask.testBit b

/-- A launch whose next block has had no candidate for 20 µs would have one if block b ran in variant v (R412). -/
def State.shrinkHelps (s : State) (b : Nat) (x : Block) (v : Variant) : Bool :=
  match s.fitsFor b x v with
  | none => false
  | some base =>
    s.launches.any fun e =>
      let l := e.2
      decide (l.status = .placing) && ((l.starved.map fun t => decide (t + 20000 ≤ s.now)).getD false) && !s.queueAhead e.1 l &&
      (s.chooseAll s.dieOrder (s.bounds e.1 l.prio (l.gangs.any fun g => g.contains l.next)) l.variants (l.gangOf l.next).length
        (⟨x.core, v, base⟩ :: s.without b)).isSome

/-- Variant v qualifies for block b: a higher-numbered one that helps a starved launch, or a lower-numbered one that has fitted for
100 µs (R412). -/
def State.qualifies (s : State) (b : Nat) (x : Block) (ms : List SwMap) (v : Variant) : Bool :=
  v.allows x.core && (v.mtx == x.var.mtx) && decide (v.rotv = x.var.rotv) && mapsCarry ms x.var.index v.index &&
  (s.fitsFor b x v).isSome &&
  if x.var.index < v.index then s.shrinkHelps b x v
  else decide (v.index < x.var.index) && ((x.grow.find? v.index).map fun t => decide (t + 100000 ≤ s.now)).getD false

/-- A request may be made to block b: none stands on its core, and it runs (R412). See log entry 19. -/
def State.switchable (s : State) (x : Block) : Bool :=
  !x.task && !x.priv && !x.exited && x.stop.isNone && !s.shedBlock x &&
  s.blocks.values.all fun z => decide (z.core ≠ x.core) || z.switch.isNone

/-- SWITCH_REQUEST: the lowest-numbered variant that qualifies, on its side, becomes the target (R412). -/
def execSwitchRequest (b target : Nat) (s : State) : Out :=
  match s.block? b with
  | none => .next s
  | some x =>
    if !s.switchable x then .next s
    else match s.readMaps x with
      | (s, .error _) => .next s
      | (s, .ok ms) =>
        let vs := ((s.launch? x.launch).map fun l => l.variants).getD []
        let side (v : Variant) : Bool := if x.var.index < target then decide (x.var.index < v.index) else decide (v.index < x.var.index)
        match vs.find? fun v => side v && s.qualifies b x ms v with
        | none => .next s
        | some v =>
          if v.index ≠ target then .next s
          else match s.fitsFor b x v with
            | some base =>
              let q : SwitchReq := ⟨v, base, none, []⟩
              .next ((s.setBlock b { x with switch := some q }).taken (q.surplus x))
            | none => .next s

/-- The block has not converged within 50 µs of the fixing of its point (R179). -/
def Block.switchLate (x : Block) (now : Nat) : Bool :=
  match x.switch with
  | none => false
  | some q => !x.allHeld q && (q.fixed.map fun f => decide (f.2 + 50000 ≤ now)).getD false

/-- SWITCH_WITHDRAW: the request of a block that has not converged in time is withdrawn, and the held threads pass (R179). -/
def execSwitchWithdraw (b : Nat) (s : State) : Out :=
  match s.block? b with
  | none => .next s
  | some x => .next (if x.switchLate s.now then s.setBlock b x.withdraw else s)

/-- The lower-numbered variants of a block that fit in its core's free resources now, each with the time since when it has. -/
def State.growing (s : State) (b : Nat) (x : Block) : Table Nat :=
  if x.var.index = 0 ∨ x.task then []
  else
    let vs := ((s.launch? x.launch).map fun l => l.variants).getD []
    (vs.filter fun v => decide (v.index < x.var.index) && (s.fitsFor b x v).isSome).map fun v =>
      (v.index, (x.grow.find? v.index).getD s.now)

/-! ## Migration (R113, R114, R414) -/

/-- The block may move (R114). -/
def State.mayMigrate (s : State) (b : Nat) (x : Block) : Bool :=
  let l := s.launch? x.launch
  !x.exited && x.stop.isNone && x.switch.isNone && !x.priv && !s.engineOpen b x && !s.shedBlock x &&
  ((x.movedAt.map fun t => decide (t + 1000000 ≤ s.now)).getD true) &&
  (x.task || !((l.map fun l => l.cohorts.any fun c => c.has x.blin).getD false))

/-- The block of a core that moves: the eligible one with the lowest linear index, or the oldest eligible task wave. -/
def State.migrant (s : State) (core : Nat) : Option (Nat × Block) :=
  let l := List.filter (fun (e : Nat × Block) => decide (e.2.core = core) && s.mayMigrate e.1 e.2) s.blocks
  let least (f : Nat × Block → Nat) (l : List (Nat × Block)) : Option (Nat × Block) :=
    l.foldl (fun m e => match m with
      | some d => if f e < f d then some e else some d
      | none => some e) none
  match least (fun e => e.2.blin) (l.filter fun e => !e.2.task) with
  | some e => some e
  | none => least (fun e => e.2.placedAt) (l.filter fun e => e.2.task)

/-- The core that a block would move to is on its die, it fits there, and the layer is the one R95 chooses. -/
def State.migratesTo (s : State) (b : Nat) (x : Block) (dest : Nat) : Bool :=
  let hs := s.without b
  let prio := ((s.launch? x.launch).map fun l => l.prio).getD 3
  let fit (c : Nat) : Bool := decide (c ≠ x.core) && (s.fits hs (s.restoreBounds prio c) x.var c).isSome
  let layer (k : Nat) : Option Holder :=
    ((coresOf (2 * dieOf x.core + k)).find? fit).map fun c => ⟨c, x.var, 0⟩
  decide (dieOf dest = dieOf x.core) && coreExists dest && fit dest &&
  match layer 0, layer 1 with
  | some a, some z => clusOf dest = clusOf (if diffWith hs (dieOf dest) z < diffWith hs (dieOf dest) a then z else a).core
  | _, _ => true

/-- A core is not examined until the time set by an examination that moved nothing. -/
def CoreSt.resting (c : CoreSt) (now : Nat) : Bool :=
  c.recheckAt.isSome || ((c.movedAt.map fun t => decide (now < t + 200000)).getD false)

/-- A migration is in progress on a die. -/
def State.migratingOn (s : State) (die : Nat) : Bool :=
  (s.blocks.values.any fun x => decide (dieOf x.core = die) && ((x.stop.map fun st => st.migrateTo.isSome).getD false)) ||
  s.disp.requests.any fun r => (r.core.map fun c => decide (dieOf c = die)).getD false

/-- MIGRATE: the sensor of a core has read at least a temperature for 20 µs, and hot.dest is the coolest core that fits. At the hot threshold
one block of the core is brought to its boundary, to be saved and restored there; with nothing to move, or no core that it fits, the
core rests for 200 µs (R113, R114, R414). -/
def execMigrate (core : Nat) (hot : HotCore) (s : State) : Out :=
  if hot.celsius < s.power.hotLimit ∨ (s.core core).resting s.now ∨ s.migratingOn (dieOf core) then .next s
  else
    let rest := s.modCore core fun c => { c with recheckAt := some (s.now + 200000) }
    match s.migrant core with
    | none => .next rest
    | some (b, x) =>
      if !s.migratesTo b x hot.dest then .next (if allCores.any fun c => s.migratesTo b x c then s else rest)
      else
        let s := s.modBlock b fun x =>
          { x with stop := some ⟨0x33, [], some hot.dest, 0⟩, waves := Table.map (fun _ y => y.clearStop) x.waves }
        .next (s.modCore core fun c => { c with movedAt := some s.now })

/-- MIGRATE_RECHECK: 200 µs after nothing could be moved, the core is examined again (R113). -/
def execMigrateRecheck (core : Nat) (s : State) : Out :=
  match (s.core core).recheckAt with
  | some t => .next (if t ≤ s.now then s.modCore core fun c => { c with recheckAt := none } else s)
  | none => .next s

end Sys2Proof.Machine
end

