-- ==== Sys2Proof/Machine/Power.lean ====
section
/-! DEFINITION. Power: the droop detector (R166, R403), the balance monitor (R102), gating of stacked pairs (R104, R105), the thermal
limit (R23), and the shelf port with shedding, the clamp and restoration (R404 to R411). -/

namespace Sys2Proof.Machine

/-! ## Droop -/

/-- MTS to DRPTH, R403. -/
def execMtsDrpth (h : Hdr) (o : FmtY) (s : State) : Out :=
  mtsSyl h o s fun _ v => if 10 ≤ v.toNat % 128 ∧ v.toNat % 128 ≤ 120 then mtsTo o (v &&& 0x807F) else mtsBad o

/-- A count of 16 bits that saturates. -/
def satInc16 (w : BitVec 16) : BitVec 16 := if w = BitVec.allOnes 16 then w else w + 1

/-- Cycles since the alarm that began the response. -/
def Cluster.since (c : Cluster) : Nat := c.cyc.toNat - c.droopAt

/-- A cluster after ps picoseconds: a cycle takes one nominal period, and two in cycles 1 to 6 of a droop response; each counts as
one (R4, R166, R167). -/
def Cluster.advance (c : Cluster) (ps : Nat) : Cluster :=
  let u := c.phase + ps * c.mhz
  let k := if c.droop = 0 then 0 else 6 - c.since
  if u < 2000000 * k then { c with cyc := c.cyc + BitVec.ofNat 64 (u / 2000000), phase := u % 2000000 }
  else
    let v := u - 2000000 * k
    { c with cyc := c.cyc + BitVec.ofNat 64 (k + v / 1000000), phase := v % 1000000 }

/-- An event of the module that names no core (R385; log entry 42). -/
def State.event (s : State) (cause : Nat) (det : DWord) : State :=
  s.report (s.recordL cause 0 0 det 0 0)

/-- DROOP_ALARM: it is counted, and begins the response unless it falls in cycles 1 to 6 of one (R166, R403).
See log entries 20 and 42. -/
def execDroopAlarm (cluster : Nat) (s : State) : Out :=
  let c := s.cluster cluster
  let c' := { c with alarms := satInc16 c.alarms }
  .next (if c.droop ≠ 0 ∧ c.since < 6 then s.setCluster cluster c'
    else (s.setCluster cluster { c' with droop := 1, droopAt := c.cyc.toNat }).event 0x39 (mkDet 0 none (cluster % 2)))

/-- DROOP_HALVING_END: from cycle 71 issue is normal (R166). -/
def execDroopHalvingEnd (cluster : Nat) (s : State) : Out :=
  let c := s.cluster cluster
  .next (if c.droop ≠ 0 ∧ 70 ≤ c.since then s.setCluster cluster { c with droop := 0 } else s)

/-! ## Balance and gating -/

/-- The mask level of the heavier layer after a sample (R102). -/
def nextLevel (imb : Int) (level : Nat) : Nat :=
  if 20 < imb.natAbs then min 3 (level + 1) else if 16 < imb.natAbs then level else level - 1

/-- BALANCE_SAMPLE: a sample of the layer currents of a die, at the next instant at which the global timer is a multiple of 50 ns (R102). The
manual does not say what the sign of a sample of 0 is: the model keeps that of the last sample (log entry 20). -/
def execBalanceSample (die : Nat) (imb : Int) (s : State) : Out :=
  let v := sat imb (-128) 127
  .next (if s.now < 50 * ((s.die die).sampled + 1) then s
    else s.modDie die fun d =>
      let heavy := if v = 0 then d.heavy else decide (v < 0)
      let level := if heavy = d.heavy then d.mlvl.toNat else 0
      { d with imb := BitVec.ofInt 8 v, heavy := heavy, mlvl := BitVec.ofNat 2 (nextLevel v level), sampled := d.sampled + 1 })

/-- A physical range stands in a scratchpad of a die. -/
def scratchOn (die : Nat) (r : Nat × Nat) : Bool := region r.1 = .scratch && dieOf (windowCore r.1) = die

/-- The memory that an entry reads and writes, as far as it is known; pinned pages are found through the tables as they stand (R245). -/
def State.entryRanges (s : State) (e : CopyEntry) : List (Nat × Nat) :=
  e.read ++ e.dest ++ e.wrote ++ match e.plan, s.runner e.cmd, e.cmd.copy? with
    | some p, some q, some (k, o) => if k.baseDie then [] else s.sourceRanges q p e.cmd ++ s.destRanges q k o p e.cmd
    | _, _, _ => []

/-- An entry of a core's copy table reads from or writes into a die's cores, or stands in one of their tables (R104). -/
def State.entryOn (s : State) (die core : Nat) (e : CopyEntry) : Bool :=
  decide (dieOf core = die) || (e.cmd.copy?.map Prod.fst = some .bsnd && dieOf e.cmd.ringOf.1 = die) ||
  ((e.spans ++ e.sources).any fun a => decide (a.1 = 1 ∧ region a.2.2.1 = .scratch ∧ dieOf (windowCore a.2.2.1) = die)) ||
  (if s.cores.any fun c => decide (dieOf c.1 = die) && !c.2.pins.isEmpty then (s.entryRanges e).any (scratchOn die)
   else (e.read ++ e.dest ++ e.wrote).any (scratchOn die))

/-- A copy is in flight from or to a die's cores (R104). -/
def State.copiesOn (s : State) (die : Nat) : Bool := s.cores.any fun c => c.2.copies.any fun e => s.entryOn die c.1 e

/-- Both clusters of a die are idle (R104). -/
def State.idle (s : State) (die : Nat) : Bool :=
  (s.blocks.values.all fun x => decide (dieOf x.core ≠ die) || x.waves.isEmpty) && !s.copiesOn die &&
  s.cores.all fun c => decide (dieOf c.1 ≠ die) || (c.2.engineq.isEmpty && c.2.deque.isEmpty)

/-- GATING_START: a pair that has been idle for 2 µs begins to be gated (R104). -/
def execGatingStart (die : Nat) (s : State) : Out :=
  let d := s.die die
  .next (if d.gate = .powered ∧ s.idle die ∧ d.gateSince + 2000 ≤ s.now then s.setDie die { d with gate := .gating, gateSince := s.now } else s)

/-- GATING_COMPLETE: 400 ns later the pair has no power (R104). -/
def execGatingComplete (die : Nat) (s : State) : Out :=
  let d := s.die die
  .next (if d.gate = .gating ∧ d.gateSince + 400 ≤ s.now then s.setDie die { d with gate := .gated, gateSince := s.now } else s)

/-- WAKE_COMPLETE: a waking pair has power (R104). -/
def execWakeComplete (die : Nat) (s : State) : Out :=
  let d := s.die die
  .next (if d.gate = .waking then s.setDie die { d with gate := .powered, gateSince := s.now } else s)

/-! ## Clocks -/

/-- A cluster's clock changed at a time, if it does change. -/
def Cluster.setClock (c : Cluster) (mhz now : Nat) : Cluster := if c.mhz = mhz then c else { c with mhz := mhz, clockedAt := now }

/-- The arithmetic clock of every cluster changed. -/
def State.clocks (s : State) (f : Nat → Nat) : State :=
  (List.range 6).foldl (fun s k => s.setCluster k ((s.cluster k).setClock (f (s.cluster k).mhz) s.now)) s

/-- Some cluster's clock stands above a frequency. -/
def State.clockAbove (s : State) (mhz : Nat) : Bool := (List.range 6).any fun k => decide (mhz < (s.cluster k).mhz)

/-- THERMAL_LIMIT: the Daybreak monitor lowers the clock to a frequency below the present one and logs; the limit stays in force until
RESET. The clock of dawn service is fixed, and a limit met there binds that of full service (R21, R23, R425; log entry 71). -/
def execThermalLimit (celsius mhz : Nat) (s : State) : Out :=
  if !s.clockAbove mhz then .next s
  else
    let p := s.power
    let s := { s with power := { p with thermal := some (min mhz (p.thermal.getD mhz)) } }
    let s := if s.host.phase = 1 then s else { s with power := { s.power with free := min p.free mhz } }.clocks fun f => min f mhz
    .next (s.event 0x38 (mkDet 0 none celsius))

/-! ## The shelf (R404 to R407) -/

/-- A write of SHELFCTL: NOMF and MISS are checked, and reserved bits dropped (R405). -/
def shelfctl (o : FmtY) (v : Word) : Act :=
  let nomf := v.toNat / 2 ^ 16 % 2 ^ 8
  if (nomf ≠ 50 ∧ nomf ≠ 60) ∨ v.toNat % 2 ^ 8 = 0 then mtsBad o else mtsTo o (v &&& 0xC0FF7FFF)

/-- MTS to SHELFCTL, R405. -/
def execShelfctlWrite (h : Hdr) (o : FmtY) (s : State) : Out := mtsSyl h o s fun _ v => shelfctl o (v &&& 0xBFFFFFFF)

/-- DF or VB of a point, and PW. -/
def pointX (signed : Bool) (w : Word) : Int := if signed then sext 16 (w.toNat / 2 ^ 16) else (w.toNat / 2 ^ 16 : Nat)
@[inherit_doc pointX] def pointW (w : Word) : Nat := w.toNat % 2 ^ 16

/-- Eight points ascend strictly (R407). -/
def ascends (signed : Bool) (t : Table Word) : Bool :=
  (List.range 7).all fun k => decide (pointX signed (Table.get 0 t k) < pointX signed (Table.get 0 t (k + 1)))

/-- MTS to SHELFCTL with LOAD set, R407: the points are checked and latched. -/
def execShelfctlLoad (h : Hdr) (o : FmtY) (s : State) : Out :=
  mtsSyl h o s fun e v =>
    if ascends true e.s.power.curveF && ascends false e.s.power.curveV then shelfctl o (v ||| 0x40000000) else mtsBad o

/-- f(x, pts), R406. -/
def curveAt (signed : Bool) (t : Table Word) (x : Int) : Int :=
  let px (k : Nat) := pointX signed (Table.get 0 t k)
  let pw (k : Nat) : Int := (pointW (Table.get 0 t k) : Nat)
  if x ≤ px 0 then pw 0
  else if px 7 ≤ x then pw 7
  else
    let i := ((List.range 7).find? fun k => decide (px k ≤ x ∧ x < px (k + 1))).getD 0
    pw i + (x - px i) * (pw (i + 1) - pw i) / (px (i + 1) - px i)

/-- ALLOW at a poll (R406). -/
def Power.allowAt (p : Power) : Nat :=
  if !p.en then 2400
  else if p.miss.toNat ≤ p.age.toNat then
    ((List.range 8).flatMap fun k => [pointW (Table.get 0 p.latchF k), pointW (Table.get 0 p.latchV k)]).foldl min 0xFFFF
  else
    let f := curveAt true p.latchF (p.freq.toNat - 1000 * p.nomf.toNat)
    let v := curveAt false p.latchV p.vin.toNat
    (min (min f v) 2400).toNat

/-! ## Shedding (R408 to R411) -/

/-- The launch of a block or an image has one of the classes. -/
def State.ofClasses (s : State) (cs : List Nat) (launch : Nat) : Bool := ((s.launch? launch).map fun l => cs.contains l.pclass).getD false

/-- A class has resident blocks or task waves that can still park. -/
def State.classResident (s : State) (c : Nat) : Bool := s.blocks.values.any fun x => !x.priv && !x.exited && s.ofClasses [c] x.launch

/-- The blocks of some classes that have to park when these are shed: the resident ones, and those that are on their way to another core
(R408, R415). -/
def State.parkers (s : State) (cs : List Nat) : List Nat :=
  (List.filter (fun (e : Nat × Block) => !e.2.priv && !e.2.exited && s.ofClasses cs e.2.launch) s.blocks).map Prod.fst ++
  (s.images.filter fun i => decide (i.icause = 0x33) && s.ofClasses cs i.launch).map fun i => i.b

/-- A shed is in progress: a block of the classes shed last has still to park (R408). -/
def State.shedding (s : State) : Bool :=
  s.power.toPark.any fun b => ((s.block? b).any fun x => !x.exited) || s.images.any fun i => decide (i.b = b ∧ i.icause = 0x33)

/-- The classes that a crossing poll sheds when classes above c are shed: downward to the first that has resident work, or to
class 1 (R408). -/
def State.toShed (s : State) : Nat → List Nat
  | 0 => []
  | c + 1 => if s.classResident (c + 1) then [c + 1] else (c + 1) :: State.toShed s c

/-- Some classes are shed at a time: their blocks have to park, and switch requests that stand for these are withdrawn (R408, R409,
R415). -/
def State.shedClasses (s : State) (cs : List Nat) (at' : Nat) : State :=
  let p := s.power
  { s with
    power := { p with shed := p.shed + cs.length, groups := (cs, p.pm) :: p.groups, groupGood := 0, toPark := s.parkers cs,
                      shedAt := cs.foldl (fun t c => Table.set 0 t c at') p.shedAt }
    blocks := Table.map (fun _ x => if s.ofClasses cs x.launch then x.withdraw else x) s.blocks }

/-- What a crossing poll at a time does (R408, R410). -/
def State.cross (s : State) (at' : Nat) : State :=
  let p := s.power
  let cs := s.toShed (3 - p.shed)
  let t := { s with power := { p with
    crossings := at' :: p.crossings, stepAt := if p.clamp then some (p.stepAt.getD s.now) else p.stepAt } }
  if s.shedding ∨ cs = [] then t else t.shedClasses cs at'

/-- The counts of good polls (R411). -/
def Power.count (p : Power) (ok : Bool) : Power :=
  let trip := (p.groups.head?.map Prod.snd).getD 0
  { p with
    clampGood := if p.clamp && ok && decide (p.pm ≤ p.allow) then p.clampGood + 1 else 0
    groupGood := if !p.clamp && ok && !p.groups.isEmpty && decide (trip ≤ p.allow) then p.groupGood + 1 else 0 }

/-- A LINEAR11 word in units of 1/scale, rounded to nearest, halves upward; a value outside 16 bits, for which the manual gives no
reading, is a free one (R404, R405; log entry 70). -/
def linear11 (free : BitVec 16) (scale : Nat) (w : BitVec 16) : BitVec 16 :=
  let e := (w.extractLsb' 11 5).toInt
  let y := (w.extractLsb' 0 11).toInt * scale
  let v := if 0 ≤ e then y * 2 ^ e.toNat else (2 * y + 2 ^ (-e).toNat).fdiv (2 * 2 ^ (-e).toNat)
  if 0 ≤ v ∧ v < 2 ^ 16 then BitVec.ofInt 16 v else free

/-- The next instant at which the shelf is polled (R404). See log entry 70. -/
def Power.pollAt (p : Power) : Nat := 100000 * (p.polled + 1)

/-- The readings of a poll at a time taken, with ALLOW and the counts of good polls (R405, R406, R411). See log entry 70. -/
def Power.take (p : Power) (r : ShelfReading) (step at' : Nat) : Power :=
  let free (k : Nat) := (Config.freeWord step (2 ^ 50 + k)).extractLsb' 0 16
  let p := { p with
    vinOk := r.ok, vin := if r.ok then linear11 (free 0) 100 r.vin else p.vin, freq := if r.ok then linear11 (free 1) 1000 r.freq else p.freq,
    age := if r.ok then 0 else if p.age = 255 then 255 else p.age + 1, pm := r.pm, lastPoll := some at', polled := p.polled + 1,
    crossings := p.crossings.filter fun t => decide (at' ≤ t + 400000) }
  ({ p with allow := p.allowAt }).count r.ok

/-- A block is being parked. -/
def Block.parking (x : Block) : Bool := (x.stop.map fun st => decide (st.icause = 0x31 ∨ st.icause = 0x32)).getD false

/-- A block that can be saved, and whose class was shed 500 µs or more before a time, is still being parked (R409, R410; log entry 81). -/
def State.parksOpen (s : State) (at' : Nat) : Bool :=
  s.blocks.any fun e => e.2.parking && s.shedBlock e.2 && decide (s.forceAt e.2 + 250000 ≤ at') && s.canSave e.1 e.2

/-- SHELF_POLL: at an instant of R404 the readings are taken, ALLOW is computed, and a crossing sheds; without EN nothing is read (R404 to
R408). Parks whose time is over are saved before a later poll. See log entries 70 and 81. -/
def execShelfPoll (r : ShelfReading) (s : State) : Out :=
  let p := s.power
  if s.now < p.pollAt ∨ s.parksOpen p.pollAt = true then .next s
  else if !p.en then .next { s with power := { p with allow := p.allowAt, polled := s.now / 100000 } }
  else
    let t := { s with power := p.take r s.steps p.pollAt }
    .next (if t.power.allow < r.pm then t.cross p.pollAt else t)

/-- CLAMP_CHECK: the poll 400 µs after a crossing, which found power pm, still crosses: CLAMP is set, and the clock begins to step down
(R410). -/
def execClampCheck (pm : Nat) (s : State) : Out :=
  let p := s.power
  let due := (p.lastPoll.map fun t => p.crossings.any fun c => decide (c + 400000 = t)).getD false
  .next (if due && decide (pm = p.pm ∧ p.allow < pm) then { s with power := { p with clamp := true, stepAt := some (p.stepAt.getD s.now), clampGood := 0 } } else s)

/-- CLOCK_STEP: 5 µs after the last step the clock falls by 50 MHz, not below 500, while the power of that time exceeds ALLOW; else
it holds (R410). See log entry 24. -/
def execClockStep (pm : Nat) (s : State) : Out :=
  let p := s.power
  match p.stepAt with
  | some t =>
    if !p.clamp ∨ s.now < t + 5000 then .next s
    else if pm ≤ p.allow then .next { s with power := { p with stepAt := none } }
    else .next ({ s with power := { p with stepAt := some s.now } }.clocks fun f => if 500 < f then max 500 (f - 50) else f)
  | none => .next s

/-- CLAMP_RELEASE: after 200 good polls every cluster returns to its unclamped clock (R410, R411). -/
def execClampRelease (s : State) : Out :=
  let p := s.power
  .next (if p.clamp ∧ 200 ≤ p.clampGood then
    { s with power := { p with clamp := false, clampGood := 0, groupGood := 0, stepAt := none } }.clocks fun _ => p.free else s)

/-- Images in the order they parked. -/
def insertParked (i : Image) : List Image → List Image
  | [] => [i]
  | j :: r => if i.parkOrder < j.parkOrder then i :: j :: r else j :: insertParked i r

/-- A block whose park has not been saved runs on; what it had withdrawn begins again (R411). -/
def State.unpark (s : State) (b : Nat) : State :=
  match s.block? b with
  | none => s
  | some x =>
    let s := s.setBlock b { x with stop := none, withdrawn := [] }
    let s := s.modCore x.core fun c => { c with copies := x.withdrawn.foldl (fun l e => insertEntry e l) c.copies }
    x.withdrawn.foldl (fun s e => match s.entryOf x.core e.cmd with
      | some (j, f) => s.restartCopy x.core j f
      | none => s) s

/-- CLASS_RESTORE: after 200 good polls the group shed last is restored: its parked blocks in the order they parked (R411). -/
def execClassRestore (s : State) : Out :=
  let p := s.power
  match p.groups with
  | [] => .next s
  | (cs, _) :: rest =>
    if p.clamp ∨ p.groupGood < 200 then .next s
    else
      let s := { s with power := { p with groups := rest, shed := p.shed - cs.length, groupGood := 0, toPark := [] } }
      let is := (s.images.filter fun i => (i.icause = 0x31 || i.icause = 0x32) && s.ofClasses cs i.launch).foldl (fun l i => insertParked i l) []
      let s := is.foldl (fun s i => s.acceptRequest ⟨i.addr, 0, false, none, none⟩) s
      let bs := (List.filter (fun (e : Nat × Block) => e.2.parking && s.ofClasses cs e.2.launch) s.blocks).map Prod.fst
      .next ((bs.foldl State.unpark s).endForcing)

end Sys2Proof.Machine
end

