-- ==== Sys2Proof/Machine/TimePort.lean ====
section
/-! DEFINITION. The global timer and its disciplines: PTP locks, 1PPS in and out (R85, R86). -/

namespace Sys2Proof.Machine

/-- The times since which waves wait or are held, moved with a step of the timer: a wait lasts no longer for it (log entry 43). -/
def State.shiftWaits (s : State) (d : Nat) : State :=
  { s with blocks := Table.map (fun _ x => { x with waves := Table.map (fun _ y =>
      { y with since := y.since.map fun t => t + d, full := y.full.map fun t => t + d }) x.waves }) s.blocks }

/-- The timer set to TAI, once; 1PPS does not rise, the shelf is not polled and the layers are not sampled for the values it steps over
(R86, R102, R404). See log entry 43. -/
def State.stepTimer (s : State) (tai : Nat) : State :=
  let d := tai - s.time.now
  let s := s.shiftWaits d
  let s := (List.range 3).foldl (fun s k => s.modDie k fun d => { d with sampled := tai / 50 }) s
  let s := { s with power := { s.power with polled := tai / 100000 }, time := { s.time with
    now := tai, stepped := true, valid := true, locked := true, lockedOnce := true, lastEdge := s.time.lastEdge + d, slew := none,
    ppsOut := max s.time.ppsOut ((tai + 999999999) / 1000000000 - 1) } }
  s.postEvent 6 0 0 0 []

/-- PTP_FIRST_LOCK: the first lock after reset steps the timer forward to TAI, or, with TAI below it, begins to slew it (R86).
See log entry 43. -/
def execPtpFirstLock (tai : Nat) (s : State) : Out :=
  let t := s.time
  if t.lockedOnce then .next s
  else if t.now ≤ tai then .next (s.stepTimer tai)
  else
    let near := decide (t.now ≤ tai + 50)
    .next { s with time := { t with
      lockedOnce := true, locked := near, valid := near, slew := if near then none else some ((tai : Int) - t.now) } }

/-- PTP_LOCK_CHANGE: after the first lock the clock gains or loses lock; LOCKED is 1 while the timer is within 50 ns of TAI, and
otherwise the timer is slewed toward it (R86). -/
def execPtpLockChange (locked : Bool) (tai : Nat) (s : State) : Out :=
  let t := s.time
  let d : Int := (tai : Int) - t.now
  if !t.lockedOnce then .next s
  else if !locked then .next { s with time := { t with locked := false, slew := none } }
  else
    let near := decide (d.natAbs ≤ 50)
    .next { s with time := { t with locked := near, valid := t.valid || near, slew := if near then none else some d } }

/-- TIMER_VALID: slewing has brought the timer within 50 ns of TAI (R86). -/
def execTimerValid (s : State) : Out :=
  let t := s.time
  .next (if t.lockedOnce ∧ !t.valid then { s with time := { t with valid := true, locked := true, slew := none } } else s)

/-- PPS_IN_EDGE, R85. -/
def execPpsInEdge (s : State) : Out := .next { s with time := { s.time with ppsin := true, lastEdge := s.now } }

/-- PPSIN_EXPIRE: 1.1 s have passed without an edge (R85). -/
def execPpsinExpire (s : State) : Out :=
  .next (if s.time.ppsin ∧ s.time.lastEdge + 1100000000 ≤ s.now then { s with time := { s.time with ppsin := false } } else s)

/-- PPS_OUT: the timer has reached a multiple of 10^9 ns (R86). The state keeps the last one at which the output rose. -/
def execPpsOut (s : State) : Out :=
  .next (if s.time.ppsOut < s.now / 1000000000 then { s with time := { s.time with ppsOut := s.now / 1000000000 } } else s)

end Sys2Proof.Machine
end

