-- ==== Sys2Proof/Machine/Firmware.lean ====
section
/-! DEFINITION. Firmware and bring-up: the mailbox commands (R422 to R424, R400), reset (R425), the change to full service (R426, R427)
and the links (R388, R426). -/

namespace Sys2Proof.Machine

/-! ## Mailbox commands (R422) -/

/-- The message that the firmware has taken is answered. -/
def State.mboxDone (s : State) (status : Nat) (payload : List Byte) : State :=
  let m := s.host.mboxMsg
  (s.answerMbox (msgField m 0 2) status (msgField m 4 4) payload).modHost fun h => { h with mboxBusy := false, mboxMsg := [] }

/-- A command row: it acts on a pending message of its command whose payload has a length it takes; another length is refused. -/
def mboxRow (cmd : Nat) (lens : List Nat) (s : State) (f : Table Byte → State) : Out :=
  let m := s.host.mboxMsg
  if !s.host.mboxBusy ∨ msgField m 0 2 ≠ cmd then .next s
  else if !lens.contains (msgField m 2 2) then .next (s.mboxDone 3 [])
  else .next (f m)

/-- n bytes of a message from byte lo on. -/
def msgBytes (m : Table Byte) (lo n : Nat) : List Byte := (List.range n).map fun i => Table.get 0 m (lo + i)

/-- Byte k of the digest of the image in flash; of one that is not whole, a free value. -/
def State.flashByte (s : State) (k : Nat) : Byte :=
  if s.fw.flashValid then Config.flashDigest s.fw.flash k else (Config.freeWord s.steps (2 ^ 51 + k)).extractLsb' 0 8

/-- The report (R423): its digests and its serial number are the device's, and the signature is one over the bytes before it (log
entry 23). -/
def State.report423 (s : State) (nonce : List Byte) : List Byte :=
  let own (lo n : Nat) := (List.range n).map fun i => Config.attestByte (lo + i)
  let body := nonce ++ own 40 32 ++ (List.range 32).map s.flashByte ++ own 104 40 ++ leBytes 8 s.now ++ leBytes 4 s.status.toNat ++ zeros 28
  body ++ (List.range 64).map (Config.signature body s.steps) ++ zeros 8

/-- ATTEST, R423. -/
def execAttest (s : State) : Out := mboxRow 1 [32] s fun m => s.mboxDone 0 (s.report423 (msgBytes m 8 32))

/-- UPDATE, R424: the image at the payload's bus address is read and checked; only then is it written to flash, which is not whole until
the write is complete, and the answer follows. A range that the host aperture does not hold is refused. See log entry 23. -/
def execUpdate (write : FlashWrite) (s : State) : Out :=
  mboxRow 2 [12] s fun m =>
    let at' := msgField m 8 8
    let n := msgField m 16 4
    let image := s.bytes (hostPa at') n
    match s.fw.writing, write with
    | none, .begins =>
      if 2 ^ 47 < at' + n then s.mboxDone 3 []
      else if !Config.imageVerifies image then s.mboxDone 4 []
      else { s with fw := { s.fw with flashValid := false, writing := some image } }
    | some w, .ends => { s with fw := { s.fw with flash := some w, flashValid := true, writing := none } }.mboxDone 0 []
    | _, _ => s

/-- A block or a task wave is resident on a die, or a restore onto it is being placed (R400, R415). -/
def State.dieBusy (s : State) (die : Nat) : Bool :=
  (s.blocks.values.any fun x => decide (dieOf x.core = die)) ||
  s.disp.requests.any fun r => decide (r.action < 2) && ((s.imageAt r.image).map fun i => decide (s.restoreDie i = die)).getD false

/-- REMAP, R400: a byte for each of virtual dies 1 and 2 (log entry 44). -/
def execRemap (s : State) : Out :=
  mboxRow 3 [2] s fun m =>
    let a := msgField m 8 1
    let b := msgField m 9 1
    let d := s.disp
    let moved := (if a = d.vd1 then [] else [a, d.vd1]) ++ if b = d.vd2 then [] else [b, d.vd2]
    let inForce (d : Dispatcher) := leBytes 1 d.vd1 ++ leBytes 1 d.vd2
    if (a ≠ 1 ∧ a ≠ 2) ∨ (b ≠ 1 ∧ b ≠ 2) ∨ moved.any s.dieBusy then s.mboxDone 3 (inForce d)
    else
      let d := { d with vd1 := a, vd2 := b }
      { s with disp := d }.mboxDone 0 (inForce d)

/-- WDOG, R422. -/
def execWdog (s : State) : Out :=
  mboxRow 4 [5] s fun m =>
    let c := msgField m 8 1
    let n := msgField m 9 4
    if 1 ≤ n ∧ n ≤ 60000 ∧ (s.ctxs.find? c).isSome then (s.setCtx c { s.ctx c with wdogMs := n }).mboxDone 0 [] else s.mboxDone 3 []

/-- PREEMPT, R422: one byte names a context, six a graph handle and a replay (log entry 44); the request enters the dispatcher's queue
once that has room (R402). -/
def execPreempt (s : State) : Out :=
  mboxRow 5 [1, 6] s fun m =>
    let c := msgField m 8 1
    let h := msgField m 8 2
    if msgField m 2 2 = 1 ∧ (s.ctxs.find? c).isNone ∨ msgField m 2 2 = 6 ∧ (h = 0 ∨ 4096 ≤ h) then s.mboxDone 3 []
    else if 64 ≤ s.disp.requests.length then s
    else (s.askPreempt (if msgField m 2 2 = 1 then .context c else .replay h (msgField m 10 4))).mboxDone 0 []

/-- DAWNSTATE, R422, R427: the phase, and a bit for each die whose training failed (log entry 44). -/
def execDawnstate (s : State) : Out := mboxRow 6 [0] s fun _ => s.mboxDone 0 (leBytes 1 s.host.phase ++ leBytes 1 s.fw.failed.toNat)

/-- MBOX_UNKNOWN_COMMAND, R422. -/
def execMboxUnknownCommand (s : State) : Out :=
  let c := msgField s.host.mboxMsg 0 2
  .next (if s.host.mboxBusy ∧ (c = 0 ∨ 6 < c) then s.mboxDone 2 [] else s)

/-! ## Reset (R86, R425) -/

/-- RESET: the device is as State.reset has it, with the flash image in force, or held in PHASE 3 by one that is not whole (R424); device
memory is unspecified, and host memory is the host's own. See log entry 45. -/
def execReset (s : State) : Out :=
  .next { State.reset with
    agenda := s.agenda, turn := s.turn, steps := s.steps
    mem := s.mem.filter fun c => decide (region c.1 = .host)
    unspec := [(0, 0x6000000000), (0x8000000000, 0x8060000000)]
    host := { HostIf.reset with phase := if s.fw.flashValid then 1 else 3 }
    fw := { Firmware.reset with flash := s.fw.flash, flashValid := s.fw.flashValid } }

/-! ## Full service (R426, R427) -/

/-- Work already begun has drained: every bundle begun has ended, no matrix command runs, and no copy that has written, or holds a slot, is
open. -/
def State.workDrained (s : State) : Bool :=
  (s.blocks.values.all fun x => x.waves.values.all fun y => y.split.isNone) &&
  s.cores.values.all fun c => c.mat.isNone && c.copies.all fun e => e.phase = .suspended || !e.begun

/-- A timed copy that has read its source and whose instant has passed is late (R275, R426). -/
def CopyEntry.noteLate (now : Nat) (e : CopyEntry) : CopyEntry :=
  if e.phase = .gated ∧ e.reserved ≠ 0 then { e with late := now - e.cmd.inst.toNat } else e

/-- The device enters full service without the network die that failed, or halts when die 0 or die 1 failed; the clock is within
R21's range and a thermal limit, and otherwise a free value (R21, R23, R426, R427). See log entries 18 and 71. -/
def State.enterService (s : State) (failed : BitVec 3) : State :=
  let halt := failed.getLsbD 0 || failed.getLsbD 1
  let mhz := 940 + (Config.freeWord s.steps 0).toNat % 261
  let mhz := (s.power.thermal.map fun t => min t mhz).getD mhz
  let s := { s with
    cores := Table.map (fun _ c => { c with copies := c.copies.map (CopyEntry.noteLate s.now) }) s.cores
    host := { s.host with phase := if halt then 3 else 2 }
    fw := { s.fw with training := none, failed := failed }
    power := { s.power with free := mhz } }
  let s := if failed.getLsbD 2 then s.modDie 2 fun d => { d with inService := false } else s
  if s.power.clamp then s else s.clocks fun _ => mhz

/-- TRAINING_COMPLETE: placing and issue stop, and once begun work has drained the device changes to full service (R426). -/
def execTrainingComplete (failed : BitVec 3) (s : State) : Out :=
  if s.host.phase ≠ 1 then .next s
  else if s.workDrained then .next (s.enterService failed)
  else .next { s with fw := { s.fw with training := some (s.fw.training.getD failed) } }

/-- PEER_LINK_UP: in full service a peer link has trained and carries traffic (R426). -/
def execPeerLinkUp (link : Nat) (s : State) : Out :=
  .next (if s.host.phase = 2 ∧ link < 12 then
    { s with fw := { s.fw with peersUp := s.fw.peersUp ||| ((1 : BitVec 12) <<< link) } } else s)

/-! ## Links that fail (R386, R388) -/

/-- The context of a command has reported a cause already, and stays suspended (R381). -/
def State.reported (s : State) (core cause : Nat) (c : EngCmd) : Bool :=
  s.cmdSuspended c && (s.core core).copies.any fun f =>
    decide (f.phase = .suspended ∧ f.cause = cause ∧ f.cmd.owner = c.owner ∧ f.cmd.kctx = c.kctx)

/-- An entry that runs is suspended at its resume point by a link's failure, which its context reports once (R381, R386, R388). -/
def State.linkFails (s : State) (core k cause : Nat) (e : CopyEntry) (det : DWord) : State :=
  if e.phase = .suspended ∨ e.plan.isNone then s
  else if s.reported core cause e.cmd then s.modCopy core k fun e => { e with phase := .suspended, cause := cause }
  else s.copyFails core k e cause 0 0 det

/-- FAULTDET of BRIDGE_LINK_FAULT and PEER_LINK_FAULT (R386). -/
def CopyEntry.linkDet (e : CopyEntry) : DWord := mkDet (e.cmd.kctx * 256) none e.resume

/-- The die whose unit a core's access to a physical address crosses the bridge to reach. -/
def bridgeTo (core pa : Nat) : Option Nat := (execDie pa).filter fun d => d ≠ dieOf core

/-- Entry k of a core's fabric is lost on a bridge lane: it is not performed, and its block stops (R388). -/
def State.loseAccess (s : State) (core k : Nat) (f : FabricEntry) : State :=
  let t := s.dropFabric core k
  match f.e.kind with
  | .bytes _ _ pa _ =>
    let t := t.noteBad f.block f.wave f.e.sid [⟨0x23, pa, f.e.va, some f.e.place, 0, (execDie pa).getD 0⟩]
    (if 2 ≤ f.e.scope then t.modWave f.block f.wave fun y => y.perform f.e.sid else t).settleCore core
  | .atomic _ _ pa n _ _ _ lane dst => (t.answerAtomic f n lane 0 dst [⟨0x23, pa, f.e.va, some lane, 0, (execDie pa).getD 0⟩]).settleCore core
  | _ => s

/-- A row of the TLD or TST that a core's matrix engine runs is lost on a bridge lane: its bytes, in the tile or in memory, are
unspecified, and the command raises the cause as it completes (R302, R307, R388). -/
def State.loseRow (s : State) (core row : Nat) (j : MatJob) : State :=
  match (j.cmd.rows[row]?).bind fun r => (r.findSome? fun p => (bridgeTo core p.1).map fun d => (r, p.1, d)) with
  | none => s
  | some (r, pa, d) =>
    let found := j.found.or (some (s.dataFault ⟨0x23, pa, j.cmd.rowAddr row, none, 0, d⟩))
    let lost (s : State) (c : EngCmd) : State := s.modCore core fun q => { q with mat := some { j with cmd := c, found := found } }
    match j.cmd.instr with
    | .tld _ _ => lost s { j.cmd with stale := j.cmd.stale ++ [row] }
    | .tst _ _ => lost (s.forgetAll (rangesOfPlaces r)) j.cmd
    | _ => s

/-- A render command loses data on a bridge lane, or the head of the engine queue its packet: it ends with DIE_UNAVAILABLE (R388). -/
def State.loseHead (s : State) (core : Nat) (c : EngCmd) (pa : Nat) (va : DWord) : Out :=
  match bridgeTo core pa with
  | none => .next s
  | some d =>
    match c.instr with
    | .rast _ _ => (s.popEngine core).renderStop c 0 (.die va d)
    | .spawnd _ _ => ((s.discardCommand c).popEngine core).renderStop c 0 (.die va d)
    | .enq _ _ => ((s.discardCommand c).popEngine core).renderStop c 0 (.die va d)
    | _ => .next s

/-- BRIDGE_LINK_FAULT: a bridge lane has lost a packet of a copy, which is suspended; or of another access or command, which raises
DIE_UNAVAILABLE in its block, a load as it returns and a tile command as it completes (R388; log entry 56). -/
def execBridgeLinkFault (core : Nat) (site : LinkSite) (s : State) : Out :=
  match site with
  | .copy k =>
    match (s.core core).copies[k]? with
    | some e => .next (if e.plan.any fun p => p.remote.isSome then s else s.linkFails core k 0x2C e e.linkDet)
    | none => .next s
  | .access k =>
    match (s.core core).fabric[k]? with
    | some f => .next (if ((f.e.kind.pa?).bind (bridgeTo core)).isSome then s.loseAccess core k f else s)
    | none => .next s
  | .load b w k pa va lane =>
    match s.block? b with
    | some x =>
      .next (match bridgeTo core pa with
        | some d => if x.core ≠ core then s else s.modWave b w fun y =>
            { y with outs := y.outs.mapIdx fun i o => if i = k then { o with bad := o.bad ++ [⟨0x23, pa, va, lane, 0, d⟩] } else o }
        | none => s)
    | none => .next s
  | .tile row => .next (((s.core core).mat.map fun j => s.loseRow core row j).getD s)
  | .ray k pa va =>
    match (s.core core).rays[k]?, bridgeTo core pa with
    | some c, some d =>
      match c.instr with
      | .rayq _ _ => ((s.dropRay core k).reserve c (-1)).renderStop c 0 (.die va d)
      | _ => .next s
    | _, _ => .next s
  | .head pa va =>
    match s.engineHead core with
    | some c => s.loseHead core c pa va
    | none => .next s

/-- PEER_LINK_FAULT: a packet of the remote copy at entry k was lost, and the links to its neighbour are down (R388; log entry 56). -/
def execPeerLinkFault (core k : Nat) (s : State) : Out :=
  match (s.core core).copies[k]? with
  | some e =>
    match e.plan.bind fun p => p.remote with
    | some m =>
      let down := (linksTo m).foldl (fun v l => v ||| (1 : BitVec 12) <<< l) 0
      .next ({ s with fw := { s.fw with peersUp := s.fw.peersUp &&& ~~~down } }.linkFails core k 0x2D e e.linkDet)
    | none => .next s
  | none => .next s

/-- An entry of a store queue or of the fabric reaches the host. -/
def StoreKind.toHost (k : StoreKind) : Bool := (k.pa?.map fun p => decide (region p = .host)).getD false

/-- A copy has read from or written to host memory. -/
def CopyEntry.onHost (e : CopyEntry) : Bool :=
  e.phase ≠ .suspended && (e.read ++ e.dest ++ e.wrote).any fun r => decide (region r.1 = .host)

/-- A read of host memory that has not returned. -/
def OutLoad.onHost (o : OutLoad) : Bool := o.src.any fun r => decide (region r.pa = .host)

/-- Data that a link lost: the destination is unspecified, and the cause is its wave's. -/
def lostData (pa : Nat) (va : DWord) (lane : Option Nat) : BadData := ⟨0, pa, va, lane, 0, 0⟩

/-- A wave has an access to the host outstanding. -/
def State.hostOpen (s : State) (b w core : Nat) (y : Wave) : Bool :=
  (y.storeq.any fun q => q.kind.toHost) || (y.outs.any OutLoad.onHost) ||
    (s.core core).fabric.any fun f => decide (f.block = b ∧ f.wave = w) && f.e.kind.toHost

/-- A request on its way to the host ends unperformed; an old value that it was to return is unspecified. -/
def State.loseRequest (s : State) (f : FabricEntry) : State :=
  match f.e.kind with
  | .atomic _ _ pa n _ _ _ lane dst => s.answerAtomic f n lane 0 dst (if dst.isSome then [lostData pa f.e.va (some lane)] else [])
  | _ => if 2 ≤ f.e.scope then s.modWave f.block f.wave fun y => y.perform f.e.sid else s

/-- The requests of a block that were on their way to the host are lost, and what its loads there were to return; they are not performed,
and no longer counted. See log entry 11. -/
def State.loseHost (s : State) (b : Nat) (x : Block) : State :=
  let mine (f : FabricEntry) : Bool := decide (f.block = b) && f.e.kind.toHost
  let lost := (s.core x.core).fabric.filter mine
  let s := s.modCore x.core fun c => { c with fabric := c.fabric.filter fun f => !mine f }
  let s := s.modBlock b fun x => { x with waves := Table.map (fun _ y => { y with outs := y.outs.map fun o =>
    { o with bad := o.bad ++ (o.src.filter fun r => decide (region r.pa = .host)).map fun r => lostData r.pa r.va r.lane } }) x.waves }
  (lost.foldl State.loseRequest s).settle b

/-- HOST_LINK_FAULT: the host link goes down; every wave with an access to the host outstanding stops its block, and copies there are
suspended (R386). See log entry 11. -/
def execHostLinkFault (s : State) : Out :=
  let hit := s.blocks.flatMap fun e => (e.2.waves.filter fun f => s.hostOpen e.1 f.1 e.2.core f.2).map fun f => (e.1, f.1)
  let s := hit.foldl (fun s p => s.asyncFault p.1 p.2 0x2E 0 0 0 0) s
  let s := (s.blocks.filter fun e => hit.any fun p => p.1 = e.1).foldl (fun s e => s.loseHost e.1 e.2) s
  let copies := s.cores.flatMap fun c => (c.2.copies.filter CopyEntry.onHost).map fun e => (c.1, e.cmd)
  let s := copies.foldl (fun s p => match s.entryOf p.1 p.2 with
    | some (k, e) => s.linkFails p.1 k 0x2E e 0
    | none => s) s
  .next { s with host := { s.host with linkUp := false } }

end Sys2Proof.Machine
end

