-- ==== Sys2Proof/Machine/Gather.lean ====
section
/-! DEFINITION. Who takes a freed resource (R83, R108, R372, R401): the next block of a launch, and the gathering of a task wave. -/

namespace Sys2Proof.Machine

/-- A wave of the launch waits in GRIDWAIT (R372). -/
def State.gridWaits (s : State) (launch : Nat) : Bool :=
  s.blocks.values.any fun x => decide (x.launch = launch) && x.waves.values.any fun y => y.wait = some .gridwait

/-- A task wave of a predecessor goes before the launch's next members: it can be gathered on a core that they would take (R372). -/
def State.tasksFirst (s : State) (launch : Nat) (l : Launch) (hs : List Holder) : Bool :=
  s.gridWaits launch && hs.any fun h => (s.couldGather h.core).any fun g => l.early.contains g.1

/-- PLACE_BLOCK: the next block of the launch whose turn it is, or its whole gang, starts at its candidates; without them it waits,
and a gang holds a reservation (R83, R94 to R100, R104, R105, R372). -/
def execPlaceBlock (launch : Nat) (s : State) : Out :=
  match s.launch? launch with
  | none => .next s
  | some l =>
    if !s.mayPlace launch l then .next s
    else match s.placePlan launch l with
      | none =>
        let s := if l.gangs.any fun g => g.contains l.next then s.holdBack launch else s
        .next (s.modLaunch launch fun l => { l with starved := some (l.starved.getD s.now) })
      | some (ms, hs) =>
        if s.queueBefore l.prio l.queue ∨ s.tasksFirst launch l hs then .next s
        else match s.wakeFor hs with
          | (s, true) => .next s
          | (s, false) =>
            let s := (ms.zip hs).foldl (fun s p => s.startMember launch l p.1 p.2) s
            .next (({ s with disp := { s.disp with lastQueue := l.queue } } : State).modLaunch launch Launch.advance)

/-- The dispatcher takes resources of the core at this moment for another launch than those whose waves wait for launch pred (R108,
R372). -/
def State.dispatcherFirst (s : State) (core pred : Nat) : Bool :=
  s.launches.any fun e => ((s.servedNow e.1 e.2).any fun hs => hs.any fun h => h.core = core) &&
    !(s.gridWaits e.1 && e.2.early.contains pred)

/-- A waiting restore of equal or higher priority takes resources of the core at this moment (R401). -/
def State.restoreFirst (s : State) (core prio : Nat) : Bool :=
  s.placing && s.disp.requests.zipIdx.any fun p => decide (p.1.action < 2) &&
    match s.imageAt p.1.image with
    | none => false
    | some i =>
      ((s.launch? i.launch).any fun l => decide (l.prio ≤ prio)) && !s.requestBefore p.2 && !s.launchAhead i &&
      (((s.gangRequests i).bind fun l => s.restorePlaces l s.holders).any fun hs => hs.any fun h => h.core = core)

/-- TASK_GATHER: the head run of a deque becomes a task wave, when some variant of its kernel fits the core and neither the dispatcher
nor a waiting restore is served before it (R64, R108, R372, R401). -/
def execTaskGather (core : Nat) (s : State) : Out :=
  match s.runReady core with
  | none => .next s
  | some (l, ps) =>
    let r := runOf ps
    match s.taskKernel core l.ctx r.1 with
    | (s, .error c) => .next (s.discardPackets core r.1 c)
    | (s, .ok vs) =>
      match s.taskPlace core r.2 l vs with
      | some h => if s.dispatcherFirst core r.2 ∨ s.restoreFirst core l.prio then .next s else .next (s.startTask h l r.2 ps)
      | none => .next s

end Sys2Proof.Machine
end

