-- ==== Sys2Proof/Machine/Rings.lean ====
section
/-! DEFINITION. Stream rings (R280 to R284): SWAIT, SREL and the reset of a ring, and what the receiving copy engine does. -/

namespace Sys2Proof.Machine

/-- A ring as a block may use it: VALID for its context, on a network tile (R280, R283). -/
def Env.ownRing (e : Env) (n : Nat) : Option Ring :=
  let r := (e.s.core e.x.core).ring n
  if isTile e.x.core && r.valid && decide (r.ctx = e.x.ctx) then some r else none

/-- K of SWAIT and SREL (R268). -/
def ringK (o : FmtE) : Nat := (o.f.extractLsb' 0 7).toNat

/-- The ring and the count of an SWAIT or SREL that passes its checks at issue (R283). -/
def Env.ringArgs (e : Env) (o : FmtE) : Option Ring :=
  (e.ownRing o.t1.toNat).bind fun r => if 1 ≤ ringK o ∧ ringK o ≤ r.slots then some r else none

/-- RING_INVALID at issue. -/
def badRing (o : FmtE) : Act := failVal 0 0x1E o.t1.toNat

/-- Complete slots that are not released. -/
def Ring.held (r : Ring) : Nat := (r.tail - r.head).toNat

/-- SWAIT, R283. -/
def execSwait (h : Hdr) (o : FmtE) (s : State) : Out :=
  xAct h s fun e =>
    match e.ringArgs o with
    | none => badRing o
    | some r => if r.held < ringK o then .hold else .eff [.acquire 1, .engine (e.cmd (.swait h o)) none]

/-- SREL, R284. -/
def execSrel (h : Hdr) (o : FmtE) (s : State) : Out :=
  xAct h s fun e =>
    match e.ringArgs o with
    | none => badRing o
    | some r => if r.held < ringK o then badRing o else .eff [.engine (e.cmd (.srel h o)) none]

/-- MTS to RBASE: a write of RESET = 1 resets the ring where R280 allows it. -/
def execRingReset (h : Hdr) (o : FmtY) (s : State) : Out :=
  mtsSyl h o s fun e v =>
    let n := (o.sr.toNat - 0x040) / 4
    if !v.getLsbD 1 then .eff []
    else match e.ownRing n with
      | some r => if r.head = r.tail ∧ r.accepted = r.tail then .eff [.ringReset n] else failVal 1 0x1E n
      | none => failVal 1 0x1E n

/-- STREAM_RING_PLACE: the Daylight runtime places a ring for one context (R245, R280). -/
def execStreamRingPlace (p : RingPlacement) (s : State) : Out :=
  .next (s.modCore p.core fun c => c.setRing p.ring.toNat
    { Ring.reset with ctx := p.ctx, base := p.base.toNat, valid := true, slotsz := p.slotsz.toNat, slots := p.slots.toNat })

/-! ## The receiving engine -/

/-- RING_ACCEPT: the send at entry k of a core's copy table takes the next slot number, when the ring has a free slot; the bytes of its
box there are unspecified until it completes (R282, R341). -/
def execRingAccept (core k : Nat) (s : State) : Out :=
  match (s.core core).copies[k]? with
  | some e =>
    let t := e.cmd.ringOf
    let r := (s.core t.1).ring t.2
    if e.phase = .ringWait ∧ (r.accepted - r.head).toNat < r.slots ∧ !s.sendBefore core k e ∧ !s.heldAtChange e then
      let pa := windowPa t.1 (r.base * 4096 + r.accepted.toNat % r.slots * (r.slotsz * 256))
      .next (((s.modCore t.1 fun c => c.setRing t.2 { r with accepted := r.accepted + 1 }).forget pa (pa + e.buf.length)).modCopy core k fun e =>
        { e with phase := .accepted r.accepted.toNat, slot := some r.accepted.toNat })
    else .next s
  | none => .next s

/-- RING_SLOT_WRITTEN: the send at entry k of a core's copy table is expanded into its slot, and completes (R281, R282). -/
def execRingSlotWritten (core k : Nat) (s : State) : Out :=
  match (s.core core).copies[k]? with
  | some e =>
    match e.phase with
    | .accepted j =>
      let t := e.cmd.ringOf
      let r := (s.core t.1).ring t.2
      let pa := windowPa t.1 (r.base * 4096 + j % r.slots * (r.slotsz * 256))
      let s := s.write r.ctx pa e.buf
      let s := s.modCore t.1 fun c => c.setRing t.2 (Ring.advance 65 { r with done := toWord j :: r.done })
      .next (s.finishCopy core k e false)
    | _ => .next s
  | none => .next s

/-- A command of the same wave that reads memory for the matrix engine has not finished (R284). -/
def State.matrixReads (s : State) (core : Nat) (c : EngCmd) : Bool :=
  match (s.core core).mat with
  | some j => decide (j.cmd.owner = c.owner ∧ j.cmd.sid < c.sid)
  | none => false

/-- The wave's loads before a command have read their data. -/
def State.loadsDone (s : State) (c : EngCmd) : Bool :=
  match c.owner with
  | .block b w => ((s.wave? b w).map fun y => !y.earlierOpen c.sid true).getD true
  | .node _ _ => true

/-- SREL_DEQUEUE: an SREL at the head of the engine queue raises RHEAD, after the reads of its wave before it (R284); an SWAIT
passes without effect (R283). -/
def execSrelDequeue (core : Nat) (s : State) : Out :=
  match s.engineHead core with
  | some c =>
    match c.instr with
    | .swait _ _ => .next (s.popEngine core)
    | .srel _ o =>
      if s.loadsDone c ∧ !s.matrixReads core c then
        let n := o.t1.toNat
        .next ((s.popEngine core).modCore core fun q =>
          q.setRing n { q.ring n with head := (q.ring n).head + toWord (ringK o) })
      else .next s
    | _ => .next s
  | none => .next s

end Sys2Proof.Machine
end

