-- ==== Sys2Proof/Machine/Dispatch.lean ====
section
/-! DEFINITION. One arm per row of the opcode table: the meaning of each instruction. -/

namespace Sys2Proof.Machine

/-- The meaning of an instruction. -/
def exec (i : Instr) (s : State) : Host.Outcome State Fault Refusal :=
  match i with
  | .nop h o => Sys2Proof.Machine.execNop h o s
  | .sadd h o => Sys2Proof.Machine.execSadd h o s
  | .ssub h o => Sys2Proof.Machine.execSsub h o s
  | .smul h o => Sys2Proof.Machine.execSmul h o s
  | .smulh h o => Sys2Proof.Machine.execSmulh h o s
  | .smulhu h o => Sys2Proof.Machine.execSmulhu h o s
  | .sdiv h o => Sys2Proof.Machine.execSdiv h o s
  | .sdivu h o => Sys2Proof.Machine.execSdivu h o s
  | .sand h o => Sys2Proof.Machine.execSand h o s
  | .sor h o => Sys2Proof.Machine.execSor h o s
  | .sxor h o => Sys2Proof.Machine.execSxor h o s
  | .sandn h o => Sys2Proof.Machine.execSandn h o s
  | .sshl h o => Sys2Proof.Machine.execSshl h o s
  | .sshr h o => Sys2Proof.Machine.execSshr h o s
  | .ssra h o => Sys2Proof.Machine.execSsra h o s
  | .smin h o => Sys2Proof.Machine.execSmin h o s
  | .smax h o => Sys2Proof.Machine.execSmax h o s
  | .sminu h o => Sys2Proof.Machine.execSminu h o s
  | .smaxu h o => Sys2Proof.Machine.execSmaxu h o s
  | .scmp h o => Sys2Proof.Machine.execScmp h o s
  | .ssel h o => Sys2Proof.Machine.execSsel h o s
  | .spopc h o => Sys2Proof.Machine.execSpopc h o s
  | .sclz h o => Sys2Proof.Machine.execSclz h o s
  | .sbfx h o => Sys2Proof.Machine.execSbfx h o s
  | .sbfi h o => Sys2Proof.Machine.execSbfi h o s
  | .sadd64 h o => Sys2Proof.Machine.execSadd64 h o s
  | .saddi h o => Sys2Proof.Machine.execSaddi h o s
  | .sandi h o => Sys2Proof.Machine.execSandi h o s
  | .sori h o => Sys2Proof.Machine.execSori h o s
  | .sxori h o => Sys2Proof.Machine.execSxori h o s
  | .sshli h o => Sys2Proof.Machine.execSshli h o s
  | .sshri h o => Sys2Proof.Machine.execSshri h o s
  | .ssrai h o => Sys2Proof.Machine.execSsrai h o s
  | .scmpi h o => Sys2Proof.Machine.execScmpi h o s
  | .sli h o => Sys2Proof.Machine.execSli h o s
  | .sliHi h o => Sys2Proof.Machine.execSliHi h o s
  | .sliSx h o => Sys2Proof.Machine.execSliSx h o s
  | .clog h o => Sys2Proof.Machine.execClog h o s
  | .br h o => Sys2Proof.Machine.execBr h o s
  | .brl h o => Sys2Proof.Machine.execBrl h o s
  | .bri h o => Sys2Proof.Machine.execBri h o s
  | .brli h o => Sys2Proof.Machine.execBrli h o s
  | .brp h o => Sys2Proof.Machine.execBrp h o s
  | .loopb h o => Sys2Proof.Machine.execLoopb h o s
  | .exit h o => Sys2Proof.Machine.execExit h o s
  | .trap h o => Sys2Proof.Machine.execTrap h o s
  | .brk h o => Sys2Proof.Machine.execBrk h o s
  | .swpt h o => Sys2Proof.Machine.execSwpt h o s
  | .trigger h o => Sys2Proof.Machine.execTrigger h o s
  | .gridwait h o => Sys2Proof.Machine.execGridwait h o s
  | .wait h o => Sys2Proof.Machine.execWait h o s
  | .mfs h o => Sys2Proof.Machine.execMfs h o s
  | .mts h o => Sys2Proof.Machine.execMts h o s
  | .mtsTsh h o => Sys2Proof.Machine.execMtsTsh h o s
  | .mtsPlane h o => Sys2Proof.Machine.execMtsPlane h o s
  | .mtsSplit h o => Sys2Proof.Machine.execMtsSplit h o s
  | .mtsRot h o => Sys2Proof.Machine.execMtsRot h o s
  | .ringReset h o => Sys2Proof.Machine.execRingReset h o s
  | .mtsDrpth h o => Sys2Proof.Machine.execMtsDrpth h o s
  | .shelfctlWrite h o => Sys2Proof.Machine.execShelfctlWrite h o s
  | .shelfctlLoad h o => Sys2Proof.Machine.execShelfctlLoad h o s
  | .time h o => Sys2Proof.Machine.execTime h o s
  | .cyc h o => Sys2Proof.Machine.execCyc h o s
  | .fenceRel h o => Sys2Proof.Machine.execFenceRel h o s
  | .fenceAcq h o => Sys2Proof.Machine.execFenceAcq h o s
  | .fenceFull h o => Sys2Proof.Machine.execFenceFull h o s
  | .rfxResume h o => Sys2Proof.Machine.execRfxResume h o s
  | .rfxSkip h o => Sys2Proof.Machine.execRfxSkip h o s
  | .rfxKillb h o => Sys2Proof.Machine.execRfxKillb h o s
  | .rfxKilll h o => Sys2Proof.Machine.execRfxKilll h o s
  | .xinv h o => Sys2Proof.Machine.execXinv h o s
  | .xinvAll h o => Sys2Proof.Machine.execXinvAll h o s
  | .vadd h o => Sys2Proof.Machine.execVadd h o s
  | .vsub h o => Sys2Proof.Machine.execVsub h o s
  | .vadds h o => Sys2Proof.Machine.execVadds h o s
  | .vaddsu h o => Sys2Proof.Machine.execVaddsu h o s
  | .vsubs h o => Sys2Proof.Machine.execVsubs h o s
  | .vsubsu h o => Sys2Proof.Machine.execVsubsu h o s
  | .vmul h o => Sys2Proof.Machine.execVmul h o s
  | .vmulh h o => Sys2Proof.Machine.execVmulh h o s
  | .vmulhu h o => Sys2Proof.Machine.execVmulhu h o s
  | .vmad h o => Sys2Proof.Machine.execVmad h o s
  | .vand h o => Sys2Proof.Machine.execVand h o s
  | .vor h o => Sys2Proof.Machine.execVor h o s
  | .vxor h o => Sys2Proof.Machine.execVxor h o s
  | .vandn h o => Sys2Proof.Machine.execVandn h o s
  | .vshl h o => Sys2Proof.Machine.execVshl h o s
  | .vshr h o => Sys2Proof.Machine.execVshr h o s
  | .vsra h o => Sys2Proof.Machine.execVsra h o s
  | .vmin h o => Sys2Proof.Machine.execVmin h o s
  | .vmax h o => Sys2Proof.Machine.execVmax h o s
  | .vminu h o => Sys2Proof.Machine.execVminu h o s
  | .vmaxu h o => Sys2Proof.Machine.execVmaxu h o s
  | .vabsd h o => Sys2Proof.Machine.execVabsd h o s
  | .vcmp h o => Sys2Proof.Machine.execVcmp h o s
  | .vsel h o => Sys2Proof.Machine.execVsel h o s
  | .vmov h o => Sys2Proof.Machine.execVmov h o s
  | .vpopc h o => Sys2Proof.Machine.execVpopc h o s
  | .vclz h o => Sys2Proof.Machine.execVclz h o s
  | .vbfx h o => Sys2Proof.Machine.execVbfx h o s
  | .vbfi h o => Sys2Proof.Machine.execVbfi h o s
  | .vaddi h o => Sys2Proof.Machine.execVaddi h o s
  | .vandi h o => Sys2Proof.Machine.execVandi h o s
  | .vshli h o => Sys2Proof.Machine.execVshli h o s
  | .vshri h o => Sys2Proof.Machine.execVshri h o s
  | .vsrai h o => Sys2Proof.Machine.execVsrai h o s
  | .vli h o => Sys2Proof.Machine.execVli h o s
  | .vliHi h o => Sys2Proof.Machine.execVliHi h o s
  | .vliSx h o => Sys2Proof.Machine.execVliSx h o s
  | .vdot4 h o => Sys2Proof.Machine.execVdot4 h o s
  | .vpack h o => Sys2Proof.Machine.execVpack h o s
  | .vunpk h o => Sys2Proof.Machine.execVunpk h o s
  | .vcmpi h o => Sys2Proof.Machine.execVcmpi h o s
  | .vadd64 h o => Sys2Proof.Machine.execVadd64 h o s
  | .plog h o => Sys2Proof.Machine.execPlog h o s
  | .fadd h o => Sys2Proof.Machine.execFadd h o s
  | .fsub h o => Sys2Proof.Machine.execFsub h o s
  | .fmul h o => Sys2Proof.Machine.execFmul h o s
  | .ffma h o => Sys2Proof.Machine.execFfma h o s
  | .fmin h o => Sys2Proof.Machine.execFmin h o s
  | .fmax h o => Sys2Proof.Machine.execFmax h o s
  | .fcmp h o => Sys2Proof.Machine.execFcmp h o s
  | .fcvt h o => Sys2Proof.Machine.execFcvt h o s
  | .fcvti h o => Sys2Proof.Machine.execFcvti h o s
  | .icvtf h o => Sys2Proof.Machine.execIcvtf h o s
  | .fmaxk h o => Sys2Proof.Machine.execFmaxk h o s
  | .fclass h o => Sys2Proof.Machine.execFclass h o s
  | .fdot2 h o => Sys2Proof.Machine.execFdot2 h o s
  | .fmxq h o => Sys2Proof.Machine.execFmxq h o s
  | .fmxd h o => Sys2Proof.Machine.execFmxd h o s
  | .sfsin h o => Sys2Proof.Machine.execSfsin h o s
  | .sfcos h o => Sys2Proof.Machine.execSfcos h o s
  | .sfexp2 h o => Sys2Proof.Machine.execSfexp2 h o s
  | .sflog2 h o => Sys2Proof.Machine.execSflog2 h o s
  | .sfrcp h o => Sys2Proof.Machine.execSfrcp h o s
  | .sfrsq h o => Sys2Proof.Machine.execSfrsq h o s
  | .sfsqrt h o => Sys2Proof.Machine.execSfsqrt h o s
  | .sftwid h o => Sys2Proof.Machine.execSftwid h o s
  | .xshf h o => Sys2Proof.Machine.execXshf h o s
  | .xbfly h o => Sys2Proof.Machine.execXbfly h o s
  | .xup h o => Sys2Proof.Machine.execXup h o s
  | .xdn h o => Sys2Proof.Machine.execXdn h o s
  | .xred h o => Sys2Proof.Machine.execXred h o s
  | .xscan h o => Sys2Proof.Machine.execXscan h o s
  | .xballot h o => Sys2Proof.Machine.execXballot h o s
  | .xbcast h o => Sys2Proof.Machine.execXbcast h o s
  | .xvote h o => Sys2Proof.Machine.execXvote h o s
  | .ldb h o => Sys2Proof.Machine.execLdb h o s
  | .ldbz h o => Sys2Proof.Machine.execLdbz h o s
  | .ldh h o => Sys2Proof.Machine.execLdh h o s
  | .ldhz h o => Sys2Proof.Machine.execLdhz h o s
  | .ldw h o => Sys2Proof.Machine.execLdw h o s
  | .ldd h o => Sys2Proof.Machine.execLdd h o s
  | .ldq h o => Sys2Proof.Machine.execLdq h o s
  | .stb h o => Sys2Proof.Machine.execStb h o s
  | .sth h o => Sys2Proof.Machine.execSth h o s
  | .stw h o => Sys2Proof.Machine.execStw h o s
  | .std h o => Sys2Proof.Machine.execStd h o s
  | .stq h o => Sys2Proof.Machine.execStq h o s
  | .sldw h o => Sys2Proof.Machine.execSldw h o s
  | .sldd h o => Sys2Proof.Machine.execSldd h o s
  | .sstw h o => Sys2Proof.Machine.execSstw h o s
  | .sstd h o => Sys2Proof.Machine.execSstd h o s
  | .pref h o => Sys2Proof.Machine.execPref h o s
  | .cwb h o => Sys2Proof.Machine.execCwb h o s
  | .cinv h o => Sys2Proof.Machine.execCinv h o s
  | .aadd h o => Sys2Proof.Machine.execAadd h o s
  | .aand h o => Sys2Proof.Machine.execAand h o s
  | .aor h o => Sys2Proof.Machine.execAor h o s
  | .axor h o => Sys2Proof.Machine.execAxor h o s
  | .amin h o => Sys2Proof.Machine.execAmin h o s
  | .amax h o => Sys2Proof.Machine.execAmax h o s
  | .aminu h o => Sys2Proof.Machine.execAminu h o s
  | .amaxu h o => Sys2Proof.Machine.execAmaxu h o s
  | .axchg h o => Sys2Proof.Machine.execAxchg h o s
  | .axchgX64 h o => Sys2Proof.Machine.execAxchgX64 h o s
  | .acas h o => Sys2Proof.Machine.execAcas h o s
  | .afadd h o => Sys2Proof.Machine.execAfadd h o s
  | .aadd64 h o => Sys2Proof.Machine.execAadd64 h o s
  | .acas64 h o => Sys2Proof.Machine.execAcas64 h o s
  | .acas64X128 h o => Sys2Proof.Machine.execAcas64X128 h o s
  | .qpop h o => Sys2Proof.Machine.execQpop h o s
  | .qpeek h o => Sys2Proof.Machine.execQpeek h o s
  | .tscl h o => Sys2Proof.Machine.execTscl h o s
  | .tld h o => Sys2Proof.Machine.execTld h o s
  | .tst h o => Sys2Proof.Machine.execTst h o s
  | .tmma h o => Sys2Proof.Machine.execTmma h o s
  | .trnd h o => Sys2Proof.Machine.execTrnd h o s
  | .tzeroPlane h o => Sys2Proof.Machine.execTzeroPlane h o s
  | .tzeroTile h o => Sys2Proof.Machine.execTzeroTile h o s
  | .twin h o => Sys2Proof.Machine.execTwin h o s
  | .tbfly h o => Sys2Proof.Machine.execTbfly h o s
  | .tbrev h o => Sys2Proof.Machine.execTbrev h o s
  | .ttwg h o => Sys2Proof.Machine.execTtwg h o s
  | .ttrn h o => Sys2Proof.Machine.execTtrn h o s
  | .tmovvTv h o => Sys2Proof.Machine.execTmovvTv h o s
  | .tmovvVt h o => Sys2Proof.Machine.execTmovvVt h o s
  | .tmovvTvRx h o => Sys2Proof.Machine.execTmovvTvRx h o s
  | .tmovvVtRx h o => Sys2Proof.Machine.execTmovvVtRx h o s
  | .tmerge h o => Sys2Proof.Machine.execTmerge h o s
  | .cpy h o => Sys2Proof.Machine.execCpy h o s
  | .cpys h o => Sys2Proof.Machine.execCpys h o s
  | .cpym h o => Sys2Proof.Machine.execCpym h o s
  | .gath h o => Sys2Proof.Machine.execGath h o s
  | .redc h o => Sys2Proof.Machine.execRedc h o s
  | .cnvt h o => Sys2Proof.Machine.execCnvt h o s
  | .bsnd h o => Sys2Proof.Machine.execBsnd h o s
  | .swait h o => Sys2Proof.Machine.execSwait h o s
  | .srel h o => Sys2Proof.Machine.execSrel h o s
  | .cpyt h o => Sys2Proof.Machine.execCpyt h o s
  | .spawn h o => Sys2Proof.Machine.execSpawn h o s
  | .spawnd h o => Sys2Proof.Machine.execSpawnd h o s
  | .enq h o => Sys2Proof.Machine.execEnq h o s
  | .deq h o => Sys2Proof.Machine.execDeq h o s
  | .deqNb h o => Sys2Proof.Machine.execDeqNb h o s
  | .barv h o => Sys2Proof.Machine.execBarv h o s
  | .barw h o => Sys2Proof.Machine.execBarw h o s
  | .bart h o => Sys2Proof.Machine.execBart h o s
  | .barx h o => Sys2Proof.Machine.execBarx h o s
  | .cbar h o => Sys2Proof.Machine.execCbar h o s
  | .tlwait h o => Sys2Proof.Machine.execTlwait h o s
  | .tlsig h o => Sys2Proof.Machine.execTlsig h o s
  | .tlrd h o => Sys2Proof.Machine.execTlrd h o s
  | .rast h o => Sys2Proof.Machine.execRast h o s
  | .rayq h o => Sys2Proof.Machine.execRayq h o s
  | .rtile h o => Sys2Proof.Machine.execRtile h o s
  | .doubleFault die cause => Sys2Proof.Machine.execDoubleFault die cause s
  | .illegalOpcode mask detail => Sys2Proof.Machine.execIllegalOpcode mask detail s
  | .fetchFault addr sub => Sys2Proof.Machine.execFetchFault addr sub s
  | .loadReturn b w k => Sys2Proof.Machine.execLoadReturn b w k s
  | .storePerform site => Sys2Proof.Machine.execStorePerform site s
  | .atomicPerform core k => Sys2Proof.Machine.execAtomicPerform core k s
  | .hostAtomicopCompletion core k status => Sys2Proof.Machine.execHostAtomicopCompletion core k status s
  | .hostCompletionTimeout core k => Sys2Proof.Machine.execHostCompletionTimeout core k s
  | .staleLineExpire core line => Sys2Proof.Machine.execStaleLineExpire core line s
  | .tableUpdate r => Sys2Proof.Machine.execTableUpdate r s
  | .copyDequeue core => Sys2Proof.Machine.execCopyDequeue core s
  | .copyFragment core k => Sys2Proof.Machine.execCopyFragment core k s
  | .copyComplete core k => Sys2Proof.Machine.execCopyComplete core k s
  | .cpytRelease core k => Sys2Proof.Machine.execCpytRelease core k s
  | .basedieExecute core k => Sys2Proof.Machine.execBasedieExecute core k s
  | .ringAccept core k => Sys2Proof.Machine.execRingAccept core k s
  | .ringSlotWritten core k => Sys2Proof.Machine.execRingSlotWritten core k s
  | .srelDequeue core => Sys2Proof.Machine.execSrelDequeue core s
  | .matrixExecute core n => Sys2Proof.Machine.execMatrixExecute core n s
  | .matrixComplete core => Sys2Proof.Machine.execMatrixComplete core s
  | .tsclLatchWrite b => Sys2Proof.Machine.execTsclLatchWrite b s
  | .rasterBatch core => Sys2Proof.Machine.execRasterBatch core s
  | .rtileComplete core act => Sys2Proof.Machine.execRtileComplete core act s
  | .rayqComplete core act => Sys2Proof.Machine.execRayqComplete core act s
  | .taskPush core => Sys2Proof.Machine.execTaskPush core s
  | .enqArrive core => Sys2Proof.Machine.execEnqArrive core s
  | .taskGather core => Sys2Proof.Machine.execTaskGather core s
  | .taskSteal core victim => Sys2Proof.Machine.execTaskSteal core victim s
  | .stealRetry core => Sys2Proof.Machine.execStealRetry core s
  | .dequeFullTimeout b w => Sys2Proof.Machine.execDequeFullTimeout b w s
  | .queueFullTimeout b w => Sys2Proof.Machine.execQueueFullTimeout b w s
  | .waitSatisfied b w => Sys2Proof.Machine.execWaitSatisfied b w s
  | .watchdog b w => Sys2Proof.Machine.execWatchdog b w s
  | .blockExit b => Sys2Proof.Machine.execBlockExit b s
  | .blockRelease b => Sys2Proof.Machine.execBlockRelease b s
  | .kick v => Sys2Proof.Machine.execKick v s
  | .grcmdRegister v => Sys2Proof.Machine.execGrcmdRegister v s
  | .grcmdUnregister v => Sys2Proof.Machine.execGrcmdUnregister v s
  | .grcmdInvalid v => Sys2Proof.Machine.execGrcmdInvalid v s
  | .eqConfigWrite a => Sys2Proof.Machine.execEqConfigWrite a s
  | .eqlostClear a => Sys2Proof.Machine.execEqlostClear a s
  | .bar0RegisterWrite a => Sys2Proof.Machine.execBar0RegisterWrite a s
  | .bar0BadAccess a => Sys2Proof.Machine.execBar0BadAccess a s
  | .hostBar2Access a => Sys2Proof.Machine.execHostBar2Access a s
  | .replayStart handle => Sys2Proof.Machine.execReplayStart handle s
  | .nodeReady replay node => Sys2Proof.Machine.execNodeReady replay node s
  | .launchAccept queue => Sys2Proof.Machine.execLaunchAccept queue s
  | .placeBlock launch => Sys2Proof.Machine.execPlaceBlock launch s
  | .governorPoint replay node => Sys2Proof.Machine.execGovernorPoint replay node s
  | .skippedNodeComplete replay node => Sys2Proof.Machine.execSkippedNodeComplete replay node s
  | .launchComplete launch => Sys2Proof.Machine.execLaunchComplete launch s
  | .replayComplete replay => Sys2Proof.Machine.execReplayComplete replay s
  | .replayFinish replay => Sys2Proof.Machine.execReplayFinish replay s
  | .faultRecordWrite die => Sys2Proof.Machine.execFaultRecordWrite die s
  | .blockStop b => Sys2Proof.Machine.execBlockStop b s
  | .exitedBlockImage b => Sys2Proof.Machine.execExitedBlockImage b s
  | .saveImage b => Sys2Proof.Machine.execSaveImage b s
  | .restoreBlock k => Sys2Proof.Machine.execRestoreBlock k s
  | .preemptRequest t => Sys2Proof.Machine.execPreemptRequest t s
  | .switchRequest b target => Sys2Proof.Machine.execSwitchRequest b target s
  | .variantSwitch b => Sys2Proof.Machine.execVariantSwitch b s
  | .switchWithdraw b => Sys2Proof.Machine.execSwitchWithdraw b s
  | .migrate core hot => Sys2Proof.Machine.execMigrate core hot s
  | .migrateRecheck core => Sys2Proof.Machine.execMigrateRecheck core s
  | .thermalLimit celsius mhz => Sys2Proof.Machine.execThermalLimit celsius mhz s
  | .droopAlarm cluster => Sys2Proof.Machine.execDroopAlarm cluster s
  | .droopHalvingEnd cluster => Sys2Proof.Machine.execDroopHalvingEnd cluster s
  | .balanceSample die imb => Sys2Proof.Machine.execBalanceSample die imb s
  | .gatingStart die => Sys2Proof.Machine.execGatingStart die s
  | .gatingComplete die => Sys2Proof.Machine.execGatingComplete die s
  | .wakeComplete die => Sys2Proof.Machine.execWakeComplete die s
  | .shelfPoll p => Sys2Proof.Machine.execShelfPoll p s
  | .shedPark b => Sys2Proof.Machine.execShedPark b s
  | .shedForced b => Sys2Proof.Machine.execShedForced b s
  | .clampCheck pm => Sys2Proof.Machine.execClampCheck pm s
  | .clockStep pm => Sys2Proof.Machine.execClockStep pm s
  | .clampRelease => Sys2Proof.Machine.execClampRelease s
  | .classRestore => Sys2Proof.Machine.execClassRestore s
  | .ptpFirstLock tai => Sys2Proof.Machine.execPtpFirstLock tai s
  | .ptpLockChange locked tai => Sys2Proof.Machine.execPtpLockChange locked tai s
  | .ppsInEdge => Sys2Proof.Machine.execPpsInEdge s
  | .ppsOut => Sys2Proof.Machine.execPpsOut s
  | .mboxDoorbell a => Sys2Proof.Machine.execMboxDoorbell a s
  | .attest => Sys2Proof.Machine.execAttest s
  | .update write => Sys2Proof.Machine.execUpdate write s
  | .remap => Sys2Proof.Machine.execRemap s
  | .wdog => Sys2Proof.Machine.execWdog s
  | .preempt => Sys2Proof.Machine.execPreempt s
  | .dawnstate => Sys2Proof.Machine.execDawnstate s
  | .mboxUnknownCommand => Sys2Proof.Machine.execMboxUnknownCommand s
  | .reset => Sys2Proof.Machine.execReset s
  | .trainingComplete failed => Sys2Proof.Machine.execTrainingComplete failed s
  | .peerLinkUp link => Sys2Proof.Machine.execPeerLinkUp link s
  | .bridgeLinkFault core site => Sys2Proof.Machine.execBridgeLinkFault core site s
  | .peerLinkFault core k => Sys2Proof.Machine.execPeerLinkFault core k s
  | .hostLinkFault => Sys2Proof.Machine.execHostLinkFault s
  | .peerTimelineSignal p => Sys2Proof.Machine.execPeerTimelineSignal p s
  | .sramUncorrectable e => Sys2Proof.Machine.execSramUncorrectable e s
  | .evictUncorrectable line => Sys2Proof.Machine.execEvictUncorrectable line s
  | .scrubError granule => Sys2Proof.Machine.execScrubError granule s
  | .peerLinkRequest a => Sys2Proof.Machine.execPeerLinkRequest a s
  | .ppsinExpire => Sys2Proof.Machine.execPpsinExpire s
  | .timerValid => Sys2Proof.Machine.execTimerValid s
  | .streamRingPlace p => Sys2Proof.Machine.execStreamRingPlace p s
  | .namedQueueAssign p => Sys2Proof.Machine.execNamedQueueAssign p s
  | .poolRefill die size frames => Sys2Proof.Machine.execPoolRefill die size frames s

end Sys2Proof.Machine
end

