-- ==== Sys2Proof/Machine/Sched.lean ====
section
/-! DEFINITION. Who moves next: the choice of a wave and of its threads (R156 to R161), the run of a bundle or of its sub-bundles (R166,
R168 to R170), and the events of the module's own agents that are due (log entry 2). -/

namespace Sys2Proof.Machine

/-! ## One bundle -/

/-- The syllables of a bundle, one after another; the last one ends it. -/
def runSyllables : List Instr → State → Out
  | [], s => .next s
  | i :: is, s =>
    match exec i s with
    | .next t => runSyllables is t
    | .fault f => .fault f
    | .refused r => .refused r

/-! ## Cycles and masked slots (R166, R168, R169) -/

/-- The cluster is in cycles 7 to 70 of a droop response. -/
def Cluster.halved (c : Cluster) : Bool := c.droop ≠ 0 && decide (6 ≤ c.since ∧ c.since < 70)

/-- A core may issue a primary in this cycle: it has issued none, and of the halved cycles only 7, 9, … are open (R160, R166).
See log entry 20. -/
def State.coreMayIssue (s : State) (core : Nat) : Bool :=
  let c := s.cluster (clusOf core)
  (s.core core).issuedAt ≠ some c.cyc.toNat && (!c.halved || c.since % 2 = 0)

/-- The slots that a mask level masks (R102). -/
def maskedAt (level : Nat) : List Nat :=
  match level with
  | 0 => []
  | 1 => [2]
  | 2 => [2, 1]
  | _ => [2, 1, 4]

/-- The masked slots of a core. -/
def State.masked (s : State) (core : Nat) : List Nat :=
  let d := s.die (dieOf core)
  if clusOf core % 2 = (if d.heavy then 1 else 0) then maskedAt d.mlvl.toNat else []

/-- The slots are open in this cycle (R168). See log entry 20. -/
def State.slotsOpen (s : State) (core : Nat) (l : List Nat) : Bool :=
  s.cycOf core % 4 = 0 || l.all fun k => !(s.masked core).contains k

/-- The slots of a bundle cut into those of its sub-bundles: a new one begins at each masked slot but the first (R169). -/
def cutSlots (masked : List Nat) : List Nat → List (List Nat)
  | [] => []
  | k :: r =>
    match cutSlots masked r, r with
    | p :: ps, j :: _ => if masked.contains j then [k] :: p :: ps else (k :: p) :: ps
    | _, _ => [[k]]

/-- What a syllable in a slot adds to the slot set: 5 stands for SFU and 6 for XCH (R160). -/
def slotUnits (e : Nat × DWord) : List Nat :=
  let op := (sylOp e.2).toNat
  e.1 :: (if sylCls e.2 ≠ 1 then [] else if 0x60 ≤ op ∧ op ≤ 0x67 then [5] else if 0x70 ≤ op ∧ op ≤ 0x78 then [6] else [])

/-- The slot sets of the sub-bundles of a bundle on a core; one alone where nothing is masked. -/
def State.parts (s : State) (core : Nat) (ws : List DWord) : List (List Nat) :=
  let l := (slots 0 ws).zip ws
  (cutSlots (s.masked core) (slots 0 ws)).map fun p => (l.filter fun e => p.contains e.1).flatMap slotUnits

/-! ## Sub-bundles (R169, R170) -/

/-- The syllables staged behind a bundle in hand, which does not end with them. -/
def State.stageAll (s : State) (iu : Issue) (is : List Instr) : Out := runSyllables is { s with cur := some { iu with sub := true } }

/-- The syllables of a bundle whose classes are among some. -/
def ofClass (l : List (BitVec 3)) (is : List Instr) : List Instr := is.filter fun i => i.view.any fun v => l.contains v.cls

/-- The first sub-bundle issues, with slot set p: the U and V syllables read their sources and are staged, and the matrix registers are
captured; the registers that the M and X syllables name stay as they are until the commit, at which these act. See log entry 7. -/
def State.openSplit (s : State) (e : Env) (is : List Instr) (p : List Nat) (left : List (List Nat)) : Out :=
  match s.stageAll e.iu (ofClass [0, 1] is) with
  | .next t =>
    match t.cur with
    | none => .next t
    | some j =>
      let c := s.cycOf e.x.core
      let sp : Split :=
        { iu := { j with mcyc := if p.contains 3 then some c else none }, late := ofClass [2, 3] is, mtx := e.x.mtx, left := left, at' := c }
      .next (({ t with cur := none } : State).modWave e.iu.block e.iu.wave fun y =>
        { y with split := some sp, since := none, full := none, ask := none })
  | o => o

/-- A failure that a split bundle shows as its first sub-bundle issues: an issue check, or a check of a U or V syllable; those that M and
X make at the commit are made there (R164, R170, R358). -/
def Raise.early (r : Raise) : Bool := decide (r.stage = 0 ∨ r.slot ≤ 2)

/-- A bundle that masked slots split: held or failed as a whole, or begun (R164, R170). -/
def State.splitBundle (s : State) (e : Env) (is : List Instr) (p : List Nat) (left : List (List Nat)) : Out :=
  match s.stageAll e.iu is with
  | .next t =>
    match t.cur with
    | none => .next t
    | some j =>
      if j.held || countersFull e.y j.effs || j.raised.any Raise.early then
        .next ({ t with cur := some { j with sub := false } } : State).finish
      else s.openSplit e is p left
  | o => o

/-- The matrix registers of a block as the first sub-bundle captured them (R169). -/
def Matrix.captured (m : Matrix) (c : Option Matrix) : Matrix :=
  match c with
  | some c => { m with tsh := c.tsh, plane := c.plane, win := c.win, split := c.split }
  | none => m

/-- The last sub-bundle issues: the M and X syllables act on what was captured and on what has happened since, and the bundle ends, or is
held there (R164, R170). See log entry 7. -/
def State.endSplit (s : State) (sp : Split) : Out :=
  match (s.modBlock sp.iu.block fun x => { x with mtx := x.mtx.map fun m => m.captured sp.mtx }).stageAll sp.iu sp.late with
  | .next t =>
    match t.cur with
    | none => .next s
    | some j => .next ({ s with cur := some { j with sub := false } } : State).finish
  | o => o

/-- The next sub-bundle of a split bundle, in a cycle after the one before it. -/
def State.nextPart (s : State) (b w : Nat) (x : Block) (y : Wave) (sp : Split) : Option (Out × List Nat) :=
  let c := s.cycOf x.core
  match sp.left with
  | [] => none
  | p :: rest =>
    if c = sp.at' then none
    else if rest.isEmpty then some (s.endSplit sp, p)
    else
      let iu := { sp.iu with mcyc := if p.contains 3 then some c else sp.iu.mcyc }
      some (.next (s.setWave b w { y with split := some { sp with iu := iu, left := rest, at' := c } }), p)

/-- A decoded bundle issues, or is held (R162, R164); ps are the slot sets of its sub-bundles. -/
def State.issueDecoded (s : State) (is : List Instr) (ps : List (List Nat)) : Out :=
  match s.env with
  | none => .next s
  | some e =>
    if e.heldBack is then .next (s.holdIssue e.iu)
    else match ps with
      | p :: q :: r => s.splitBundle e (s.resolve is) p (q :: r)
      | _ => runSyllables (s.resolve is) s

/-- The bundle at a PC issues for the threads of wave w that stand there: it is fetched, decoded and run (R122, R156). With it stand
the slot sets of its sub-bundles, none where it fails before. -/
def State.issueAt (s : State) (b w : Nat) (x : Block) (y : Wave) (pc : PC) : Out × List (List Nat) :=
  match s.fetchBundle (x.seenBy y) pc with
  | (s, .error (a, c)) => (exec (.fetchFault (BitVec.ofNat 64 a) (BitVec.ofNat 6 c)) (s.begin b w (x.ctxOf y) (y.lanesAt pc) pc 0), [])
  | (s, .ok ws) =>
    let s := s.begin b w (x.ctxOf y) (y.lanesAt pc) pc ws.length
    match decodeBundle x.priv x.budget y.rotb.toNat ws with
    | .ok is => (s.issueDecoded is (s.parts x.core ws), s.parts x.core ws)
    | .error d =>
      (if d.name = .illegalOpcode then exec (.illegalOpcode d.mask (BitVec.ofNat 32 d.dval)) s
        else .next (s.decodeStop b w d.name.code d.mask 0 0 d.dval), [])

/-- The bundle was held: the wave, which noted no hold before, notes one now and does not wait. -/
def heldOut (o : Out) (b w : Nat) : Bool :=
  match o with
  | .next t => ((t.wave? b w).map fun y => y.since.isSome && y.wait.isNone).getD false
  | _ => false

/-! ## The threads of a wave (R156, R157) -/

/-- The PCs of the living threads, ascending, each once. -/
def Wave.subsets (y : Wave) : List PC :=
  (ascending ((lanesOf y.living).map fun l => (y.pcOf l).toNat)).map fun n => BitVec.ofNat 53 n

/-- A wave that may issue: it has threads and does not wait, and its block has not exited. -/
def Block.mayIssue (x : Block) (y : Wave) : Bool := y.living ≠ 0 && y.wait.isNone && !x.exited

/-- Wave w issues from the subset at pc, with its escape count set. -/
def State.issueSubset (s : State) (b w : Nat) (x : Block) (y : Wave) (pc : PC) (esc : Nat) : Out × List (List Nat) :=
  (s.setWave b w { y with esc := esc }).issueAt b w x { y with esc := esc } pc

/-- The subset at a PC is ready: its bundle would not be held, by WAIT or SWPT either (R157; log entry 84). -/
def State.subsetReady (s : State) (b w : Nat) (x : Block) (y : Wave) (pc : PC) : Bool := !heldOut (s.issueAt b w x y pc).1 b w

/-- Wave w issues from its lowest-PC subset, or takes its escape turn (R157). -/
def State.chooseSubset (s : State) (b w : Nat) (x : Block) (y : Wave) (p : PC) (ps : List PC) : Out × List (List Nat) :=
  if y.esc = 256 then
    match ps.find? fun q => s.subsetReady b w x y q with
    | some q => s.issueSubset b w x y q 0
    | none => s.issueSubset b w x y p 0
  else s.issueSubset b w x y p (if ps.any fun q => s.subsetReady b w x y q then y.esc + 1 else y.esc)

/-- What wave w does in this cycle, with its slot set: the next sub-bundle of a bundle it has begun, or a bundle; none if it cannot issue
at all. A stop of its block and the change to full service hold back new bundles, but not one that issues beside the primary whose fault
stopped the block (R159, R161, R168, R170, R426). -/
def State.turnOfWave (s : State) (b w : Nat) (beside : Bool) : Option (Out × List Nat) :=
  match s.block? b with
  | none => none
  | some x =>
    match x.waves.find? w with
    | none => none
    | some y =>
      match y.split, y.subsets with
      | some sp, _ => (s.nextPart b w x y sp).filter fun r => s.slotsOpen x.core r.2
      | none, [] => none
      | none, p :: ps =>
        if !(beside || (s.placing && x.stop.isNone)) ∨ !x.mayIssue y then none
        else
          let r := s.chooseSubset b w x y p ps
          if s.slotsOpen x.core (r.2.headD []) then some (r.1, r.2.headD []) else none

/-- The same, but for a bundle one of whose walks waits for an update of its entry (R237). -/
def State.tryWave (s : State) (b w : Nat) (beside : Bool) : Option (Out × List Nat) :=
  (s.turnOfWave b w beside).filter fun r => s.orderly r.1

/-- The same, begun without the note of an earlier hold, so that heldOut tells what this try came to. -/
def State.tryFresh (s : State) (b w : Nat) (beside : Bool) : Option (Out × List Nat) :=
  (s.modWave b w fun y => { y with since := none }).tryWave b w beside

/-- The state t after a held try of wave w: held since the first such try, its escape count as it was. -/
def State.noteHeld (s t : State) (b w : Nat) : State :=
  match s.wave? b w with
  | some y => t.modWave b w fun z => { z with since := some (y.since.getD s.now), esc := y.esc }
  | none => t

/-! ## The waves of a core (R159 to R161) -/

/-- The waves of a core in slot order after a place in it, with their places: block by block, by index (R160; log entry 54). -/
def State.slotOrder (s : State) (core last : Nat) : List (Nat × Nat × Nat) :=
  let l := (s.blocks.filter fun e => e.2.core = core).flatMap fun e => e.2.waveIds.map fun w => (16 * e.1 + w, e.1, w)
  l.filter (fun p => decide (last < p.1)) ++ l.filter fun p => decide (p.1 ≤ last)

/-- The priority of a block's waves (R83); that of a privileged block, which no queue has placed, is 0 (log entry 84). -/
def State.prioOf (s : State) (b : Nat) : Nat := (((s.block? b).bind fun x => s.launch? x.launch).map fun l => l.prio).getD 0

/-- The waves of a core in the order the scheduler tries them as primary: by priority, then in slot order after the last primary. -/
def State.tryOrder (s : State) (core : Nat) : List (Nat × Nat × Nat) :=
  (List.range 4).flatMap fun k => (s.slotOrder core (s.core core).lastPrimary).filter fun p => s.prioOf p.2.1 = k

/-- The cores with resident blocks, starting at a place that moves on with the steps. See log entry 2. -/
def State.busyCores (s : State) : List Nat :=
  let l := ascending (s.blocks.values.map fun x => x.core)
  let k := s.steps % l.length
  l.drop k ++ l.take k

/-- The wave that merges with a primary at a place with a slot set: the first after it in slot order that is ready and shares no slot
(R160, R166). -/
def State.partnerOf (s : State) (core key : Nat) (used : List Nat) : Option (Nat × Nat) :=
  if used.isEmpty ∨ (s.cluster (clusOf core)).halved then none
  else (s.slotOrder core key).findSome? fun p =>
    if p.1 = key then none
    else match s.tryFresh p.2.1 p.2.2 false with
      | none => none
      | some (o, m) => if m.isEmpty ∨ m.any used.contains ∨ heldOut o p.2.1 p.2.2 then none else some (p.2.1, p.2.2)

/-- The number of the next syllable of wave w that accesses memory. -/
def State.sidOf (s : State) (b w : Nat) : Nat := ((s.wave? b w).map fun y => y.nextSid).getD 0

/-- The last store or atomic that wave w has put in its queue under a number from n on. -/
def State.lastStore (s : State) (b w n : Nat) : Option (Nat × Nat × Nat) :=
  ((s.wave? b w).bind fun y => (y.storeq.filter fun q => q.kind.pa?.isSome && decide (n ≤ q.sid)).getLast?).map fun q => (b, w, q.sid)

/-- The first wave of a list that is ready issues as primary, and its partner is chosen; held ones note it, and one whose bundle fails
at fetch or decode stops and is not ready (R159, R160). -/
def State.issueFirst (s : State) (core : Nat) : List (Nat × Nat × Nat) → State × Option Out
  | [] => (s, none)
  | (k, b, w) :: r =>
    match s.tryFresh b w false with
    | none => State.issueFirst s core r
    | some (.next t, m) =>
      if heldOut (.next t) b w then State.issueFirst (s.noteHeld t b w) core r
      else if m.isEmpty then State.issueFirst t core r
      else
        let u := t.modCore core fun c => { c with lastPrimary := k, issuedAt := some (s.cycOf core) }
        (s, some (.next { u with partner := (s.partnerOf core k m).map fun p => ⟨p.1, p.2, t.lastStore b w (s.sidOf b w)⟩ }))
    | some (o, _) => (s, some o)

/-- The stores of wave w from number n on leave the core after an earlier one (R161). -/
def State.storesAfter (s : State) (b w n : Nat) (ahead : Option (Nat × Nat × Nat)) : State :=
  if ahead.isNone then s
  else s.modWave b w fun y => { y with storeq := y.storeq.map fun q => if n ≤ q.sid then { q with after := ahead } else q }

/-- The partner of the primary that has just issued issues in the same cycle; its stores stand behind the primary's in the core's store
order (R160, R161). -/
def State.issuePartner (s : State) (p : Partner) : Out :=
  match s.tryFresh p.b p.w true with
  | none => .next s
  | some (.next t, _) => .next (if heldOut (.next t) p.b p.w then s.noteHeld t p.b p.w else t.storesAfter p.b p.w (s.sidOf p.b p.w) p.ahead)
  | some (o, _) => o

/-- A wave of some core that may issue in this cycle issues. -/
def State.issueAny (s : State) : List Nat → State × Option Out
  | [] => (s, none)
  | c :: cs =>
    if !s.coreMayIssue c then State.issueAny s cs
    else match s.issueFirst c (s.tryOrder c) with
      | (t, none) => State.issueAny t cs
      | r => r

/-! ## Events that are due

Each list names rows of the opcode table that the module's own agents may cause now; a row whose condition fails leaves the state as
it is, and then nothing is due (log entry 2). Rows that only the outside causes stand in no list: they come through the agenda. -/

/-- The rows of one wave. -/
def Wave.due (y : Wave) (b w : Nat) : List (State → Out) :=
  (List.range y.outs.length).map (fun k => execLoadReturn b w k) ++
  (if y.storeq.isEmpty then [] else [execStorePerform (.leave b w)]) ++
  (if y.wait.isSome then [execWaitSatisfied b w] else []) ++
  (if y.full.isSome then [execDequeFullTimeout b w, execQueueFullTimeout b w] else []) ++
  (if y.since.isSome then [execWatchdog b w] else [])

/-- The rows of one block. -/
def State.blockDue (s : State) (b : Nat) (x : Block) : List (State → Out) :=
  (x.waves.flatMap fun e => e.2.due b e.1) ++
  [execTsclLatchWrite b, execBlockExit b, execBlockRelease b, execBlockStop b, execSaveImage b, execExitedBlockImage b, execShedPark b,
    execShedForced b, execVariantSwitch b, execSwitchWithdraw b] ++
  (((s.launch? x.launch).map fun l => l.variants).getD []).map fun v => execSwitchRequest b v.index

/-- The rows of entry k of a core's copy table. -/
def copyDue (core k : Nat) : List (State → Out) :=
  [execCopyFragment core k, execCopyComplete core k, execCpytRelease core k, execBasedieExecute core k, execRingAccept core k,
    execRingSlotWritten core k]

/-- The core the generator names for a steal, itself left out (R110; log entry 21). -/
def State.stealFrom (s : State) (core : Nat) : Nat :=
  let v := s.victim core
  if v = core then core / 128 * 128 + (core % 128 + 1) % clusterSize (dieOf core) else v

/-- The cores of a cluster whose deques hold packets are robbed by the others (R110). See log entry 21. -/
def State.stealDue (s : State) (core : Nat) (q : CoreSt) : List (State → Out) :=
  if q.deque.isEmpty then [] else
  (coresOf (clusOf core)).flatMap fun c => [execTaskSteal c (s.stealFrom c), execStealRetry c]

/-- The rows of one core. -/
def State.coreDue (s : State) (core : Nat) (q : CoreSt) : List (State → Out) :=
  ((List.range q.fabric.length).flatMap fun k => [execStorePerform (.arrive core k), execAtomicPerform core k]) ++
  ((List.range q.copies.length).flatMap fun k => copyDue core k) ++
  (if q.engineq.isEmpty then [] else
    [execCopyDequeue core, execSrelDequeue core, execRtileComplete core .leave, execRayqComplete core .leave, execTaskPush core,
      execEnqArrive core]) ++
  [execMatrixExecute core 1, execMatrixComplete core, execRasterBatch core] ++
  ((List.range q.rays.length).flatMap fun k => [execRtileComplete core (.finish k), execRayqComplete core (.finish k)]) ++
  (if q.deque.isEmpty then [] else [execTaskGather core]) ++ s.stealDue core q ++
  (q.dcache.filter fun d => decide (d.since + 20000 ≤ s.now)).map (fun d => execStaleLineExpire core (d.pa / 128)) ++
  [execMigrateRecheck core]

/-- The rows of one replay: its nodes and its end. -/
def Replay.due (r : Replay) (n : Nat) : List (State → Out) :=
  ((List.range r.nodes.length).flatMap fun k => [execNodeReady n k, execGovernorPoint n k, execSkippedNodeComplete n k]) ++
  [execReplayComplete n, execReplayFinish n]

/-- The rows of the dispatcher. -/
def State.dispatchDue (s : State) : List (State → Out) :=
  (s.host.kicks.map fun k => execReplayStart k.handle) ++
  (s.replays.flatMap fun e => if e.2.finished then [] else e.2.due e.1) ++
  (List.map (fun (e : Nat × List LaunchReq) => execLaunchAccept e.1) s.disp.queues) ++
  (s.launches.flatMap fun e => [execPlaceBlock e.1, execLaunchComplete e.1]) ++
  (List.range s.disp.requests.length).map fun k => execRestoreBlock k

/-- The rows of the dies, of the shelf, of the time port and of the firmware. See log entry 24. -/
def State.moduleDue (s : State) : List (State → Out) :=
  ((List.range 3).flatMap fun d => [execFaultRecordWrite d, execGatingStart d, execGatingComplete d, execWakeComplete d]) ++
  ((List.range 6).map fun k => execDroopHalvingEnd k) ++
  [execShelfPoll ⟨Config.shelfOk s.power.polled, Config.shelfVin s.power.polled, Config.shelfFreq s.power.polled,
      Config.shelfPower s.power.polled⟩, execClampCheck s.power.pm, execClockStep s.power.pm, execClampRelease, execClassRestore, execPpsinExpire, execPpsOut] ++
  (match s.fw.training with
    | some f => [execTrainingComplete f]
    | none => []) ++
  ((List.range 3).map fun d => execBalanceSample d (Config.imbalance d (s.die d).sampled)) ++
  (if s.host.mboxBusy then
    [execAttest, execUpdate .begins, execUpdate .ends, execRemap, execWdog, execPreempt,
      execDawnstate, execMboxUnknownCommand]
  else [])

/-- Every row that may be due, begun at a place that moves on with the steps. See log entry 2. -/
def State.due (s : State) : List (State → Out) :=
  let l := (s.blocks.flatMap fun e => s.blockDue e.1 e.2) ++ (s.cores.flatMap fun e => s.coreDue e.1 e.2) ++ s.dispatchDue ++ s.moduleDue
  let k := s.steps % l.length
  l.drop k ++ l.take k

/-- The row does something. -/
def changes (s : State) (o : Out) : Bool :=
  match o with
  | .next t => decide (t ≠ s)
  | _ => true

/-- The first event of the module's own agents that is due. See log entry 2. -/
def State.internal (s : State) : Option Out :=
  s.due.findSome? fun f => let o := f s; if changes s o && s.orderly o then some o else none

/-- A wave issues; with none ready, an event that is due happens; else nothing. -/
def State.waveMove (s : State) : Out :=
  match s.issueAny s.busyCores with
  | (_, some o) => o
  | (s, none) => (s.internal).getD (.next s)

/-- An event that is due happens; else a wave issues. -/
def State.eventMove (s : State) : Out :=
  match s.internal with
  | some o => o
  | none => s.waveMove

/-- A powered pair that is not idle begins its 2 µs anew (R104). -/
def State.noteIdle (s : State) : State :=
  (List.range 3).foldl (fun s d => if (s.die d).gate = .powered ∧ !s.idle d then s.setDie d { s.die d with gateSince := s.now } else s) s

/-- Since when a lower-numbered variant of a block has fitted (R412). -/
def State.noteGrowth (s : State) : State :=
  { s with blocks := Table.map (fun b x => if x.var.index = 0 then x else { x with grow := s.growing b x }) s.blocks }

/-- Switch requests whose 50 µs are over are withdrawn before anything else happens (R179). -/
def State.withdrawLate (s : State) : State :=
  { s with blocks := Table.map (fun _ x => if x.switchLate s.now then x.withdraw else x) s.blocks }

/-- Every block of a shed class that has come to its park is parked (R409). -/
def State.parkAll (s : State) : State :=
  if s.power.shed = 0 then s else s.blocks.foldl (fun s e => s.shedPark e.1) s

/-- Every block of a shed class whose time to park is over is forced (R409). -/
def State.forceAll (s : State) : State :=
  if s.power.shed = 0 then s else s.blocks.foldl (fun s e => s.shedForced e.1) s

/-- A time in picoseconds passes: the timer counts its nanoseconds, and the cycle counter of each powered cluster the periods of its clock
(R4, R85, R167, R183, R443). -/
def State.pass (s : State) (ps : Nat) : State :=
  let n := s.time.sub + ps
  let s := { s with time := { s.time with now := s.time.now + n / 1000, sub := n % 1000 } }
  (List.range 6).foldl (fun s k =>
    if (s.die (k / 2)).gate = .gated then s else s.setCluster k ((s.cluster k).advance ps)) s

/-- The barriers of a cluster whose cycle has ended since a state are tested, after every event of that cycle (R353, R357). -/
def State.endCycles (s old : State) : State :=
  { s with blocks := Table.map (fun _ x =>
      { x with barriers := if s.cycOf x.core = old.cycOf x.core then x.barriers else x.settleBarriers.barriers }) s.blocks }

/-- Time passes with a step, as much as the manual leaves open (log entry 3): blocks that have come to their park are parked first, the
cycles that end complete the phases of barriers, and then what is measured over time is noted. -/
def State.tick (s : State) : State :=
  let ps := Config.elapsed s.steps
  let s := { s with steps := s.steps + 1 }.parkAll
  ((s.pass ps).endCycles s).forceAll.noteIdle.noteGrowth.withdrawLate.runUpdates

/-- The outcome of a move with the time it takes; a primary that has a partner takes none, since both issue in one cycle (R160). -/
def ticked (o : Out) : Out :=
  match o with
  | .next s => .next (if s.partner.isSome then { s with steps := s.steps + 1 } else s.tick)
  | .fault f => .fault f
  | .refused r => .refused r

/-- A wave's or an agent's move, in turn. -/
def State.ownMove (s : State) : Out :=
  let t := { s with turn := !s.turn }
  if s.turn then t.waveMove else t.eventMove

/-- A move, or, while it has to wait for an update of an entry, another (R237). -/
def State.orElse (s : State) (o other : Out) : Out := if s.orderly o then o else other

/-- The next move: the partner of a primary, the first row of the agenda, a launch node that is ready, or a wave's or an agent's move.
See log entry 2. -/
def State.move (s : State) : Out :=
  match s.partner, s.agenda with
  | some p, _ => ({ s with partner := none } : State).issuePartner p
  | none, i :: rest => s.orElse (exec i { s with agenda := rest }) s.ownMove
  | none, [] =>
    match s.readyLaunch with
    | some (r, n) => s.orElse (execNodeReady r n s) s.ownMove
    | none => s.ownMove

/-! ## One instruction placed where the machine fetches -/

/-- A variant with the largest budget, for a block that runs one placed instruction. -/
def Variant.widest : Variant :=
  { kernel := 0, index := 0, entry := 0x1000, vregs := 128, waves := 1, sregs := 384, scratch := 0x10000, weight := 15, flags := 3,
    rotv := 0 }

/-- A privileged block of one wave with one thread, at the placed instruction, on the first network tile. -/
def Block.placed : Block :=
  { var := Variant.widest, launch := 0, ctx := 1, priv := true, task := false, blin := 0, core := 256, base := 0,
    waves := [(0, { Wave.empty with living := 1, pc := [(0, 0x1000)] })], barriers := [], kctx := [], mtx := some Matrix.initial,
    switch := none, stop := none, exited := false, movedAt := none, placedAt := 0, grow := [], frags := [], withdrawn := [], passing := [] }

/-- The state with an instruction's eight bytes at the PC of a resident wave that the next step issues: the page of the PC stands
in the core's TLB (log entry 1). -/
def State.placeWord (s : State) (w : DWord) : State :=
  let s := { s with agenda := [], turn := true, cur := none, partner := none, blocks := [(1, Block.placed)],
                    host := { s.host with phase := if s.placing then s.host.phase else 1 }, fw := { s.fw with training := none },
                    replays := if s.readyLaunch.isSome then [] else s.replays }
  let s := s.modCore 256 fun c => { c with tlb := [⟨1, 0x1000, 0x1000, 0x10E2⟩], icache := [], issuedAt := none }
  let s := (s.modDie 1 fun d => { d with mlvl := 0, inService := true }).setCluster 2 { s.cluster 2 with droop := 0 }
  s.write 1 0x1000 (bytesOfWord w)

end Sys2Proof.Machine
end

