-- ==== Sys2Proof/Machine/Step.lean ====
section
/-! DEFINITION. One step of the module, and the placing of one instruction where the next step fetches it. -/

namespace Sys2Proof.Machine

/-- One step: the next move, and the time it takes. -/
def step (s : State) : Host.Outcome State Fault Refusal := ticked s.move

/-- The state with the instruction whose bits are w where the next step fetches. See log entry 1. -/
def State.withFetchWord (s : State) (_nbits w : Nat) : State := s.placeWord (BitVec.ofNat 64 w)

end Sys2Proof.Machine
end

