-- ==== Sys2Proof/Safety.lean ====
section
/-! DEFINITION. What claims mean: a step that completes, the registers a frame speaks of, the invariant of the state, and the forms in
which a syllable's result is stated. -/

namespace Sys2Proof.Machine

/-! ## Registers -/

/-- The registers of a wave that its own instructions write (R155, R158, R174, R175). -/
structure Regs where
  s : Table Word
  v : Table Word
  p : Table Lanes
  c : BitVec 16
  loopc : Word
  rotb : BitVec 6
  rng : Table Word
  pc : Table PC
  living : Lanes
  deriving DecidableEq, Repr

/-- The registers of a wave. -/
def Wave.regs (y : Wave) : Regs :=
  { s := y.s, v := y.v, p := y.p, c := y.c, loopc := y.loopc, rotb := y.rotb, rng := y.rng, pc := y.pc, living := y.living }

/-- The registers of wave w of block b. -/
def State.regs? (s : State) (b w : Nat) : Option Regs := (s.wave? b w).map Wave.regs

/-- The matrix state of a block: tiles, planes, latches and their registers (R293). -/
def State.mtx? (s : State) (b : Nat) : Option (Option Matrix) := (s.block? b).map Block.mtx

/-- A die but for a DOUBLE_FAULT that the Daybreak monitor has still to handle (R390). -/
def Die.settled (d : Die) : Die := { d with double := none }

/-- CAUSE, FAULTMASK, FAULTADDR and FAULTDET of a wave (R382 to R384). -/
def State.stopRegs? (s : State) (b w : Nat) : Option (Word × Word × DWord × DWord) :=
  (s.wave? b w).map fun y => (y.cause, y.fmask, y.faddr, y.fdet)

/-- Nothing that memory, a register of any wave, the matrix state of any block, the module's timers, clusters, dies, contexts, graphs,
replays, images or host registers show has changed; a DOUBLE_FAULT of a die may have to be handled. -/
structure Quiet (s t : State) : Prop where
  regs : ∀ b w, t.regs? b w = s.regs? b w
  mtx : ∀ b, t.mtx? b = s.mtx? b
  mem : t.mem = s.mem
  unspec : t.unspec = s.unspec
  poison : t.poison = s.poison
  memErr : t.memErr = s.memErr
  sramErr : t.sramErr = s.sramErr
  tags : t.tags = s.tags
  locked : t.locked = s.locked
  steps : t.steps = s.steps
  turn : t.turn = s.turn
  cur : t.cur = s.cur
  time : t.time = s.time
  host : t.host = s.host
  disp : t.disp = s.disp
  power : t.power = s.power
  fw : t.fw = s.fw
  clusters : t.clusters = s.clusters
  dies : ∀ d, (t.die d).settled = (s.die d).settled
  ctxs : t.ctxs = s.ctxs
  updates : t.updates = s.updates
  partner : t.partner = s.partner
  graphs : t.graphs = s.graphs
  replays : t.replays = s.replays
  images : t.images = s.images

/-! ## Effects on registers -/

/-- An effect that writes registers of its own wave and nothing else. -/
def Eff.onRegs : Eff → Bool
  | .setS _ _ => true
  | .setV _ _ _ => true
  | .setP _ _ => true
  | .setC _ _ => true
  | .setPc _ _ => true
  | .kill _ => true
  | .setRng _ _ => true
  | .setLoop _ => true
  | .setRot _ => true
  | _ => false

/-- What a register effect does to its wave. -/
def Eff.toWave (f : Eff) (y : Wave) : Wave :=
  match f with
  | .setS r v => y.wrS r v
  | .setV r l v => y.wrV r l v
  | .setP p m => y.wrP p m
  | .setC c v => y.wrC c v
  | .setPc m a => (lanesOf m).foldl (fun y l => y.setPc l a) y
  | .kill m => { y with living := y.living &&& ~~~m }
  | .setRng l v => y.setRng l v
  | .setLoop v => { y with loopc := v }
  | .setRot v => { y with rotb := v }
  | _ => y

/-- The wave after the issued threads have moved to the next bundle. -/
def Issue.moved (iu : Issue) (y : Wave) : Wave :=
  { (lanesOf iu.lanes).foldl (fun y l => y.setPc l iu.next) y with since := none, full := none, ask := none, split := none }

end Sys2Proof.Machine

namespace Sys2Proof.Safety

open Sys2Proof.Machine

/-- Memory stands in its one canonical form (log entry 4). -/
def Canonical (s : State) : Prop := Memory.wf s.mem = true

/-- Every byte reads the same. -/
def SameMemory (s t : State) : Prop := ∀ a, t.byte a = s.byte a

/-! ## Operands, as the results of the scalar and vector rules name them -/

/-- S1, S2 and S3 of a scalar syllable of format A, after their modifiers (R134, R185). -/
def opA (e : Env) (o : FmtA) : Word := modify false 32 o.m1 (e.sreg o.s1.toNat)
@[inherit_doc opA] def opB (e : Env) (o : FmtA) : Word := modify false 32 o.m2 (e.sreg o.s2.toNat)
@[inherit_doc opA] def opC (e : Env) (o : FmtA) : Word := modify false 32 o.m3 (e.sreg o.s3.toNat)
/-- S1 of a scalar syllable of format B. -/
def opI (e : Env) (o : FmtB) : Word := modify false 32 o.m1 (e.sreg o.s1.toNat)
/-- The sign-extended 24-bit immediate (R195). -/
def immB (o : FmtB) : Word := o.imm.signExtend 32
/-- S1, S2 and S3 of a vector syllable as lane l reads them, at w-bit elements, after their modifiers (R134, R184). -/
def laneA (e : Env) (o : FmtA) (w l : Nat) : Word := modify false w o.m1 (e.src o.s1 l)
@[inherit_doc laneA] def laneB (e : Env) (o : FmtA) (w l : Nat) : Word := modify false w o.m2 (e.src o.s2 l)
@[inherit_doc laneA] def laneC (e : Env) (o : FmtA) (w l : Nat) : Word := modify false w o.m3 (e.src o.s3 l)

/-! ## What a syllable stages

The bundle in hand is s.cur; a syllable that is not the last adds to it and changes nothing else, and the last one ends the bundle
(State.stageSyl). Staged effects take place at commit (R165). -/

/-- A U syllable completes: its effects are staged in slot U if its condition holds, none otherwise (R124). -/
def StagesU (i : Instr) (h : Hdr) (l : Env → List Eff) : Prop :=
  ∀ s e, s.env = some e → exec i s = .next (s.stageSyl h.e e.iu 0 (.eff (if e.holds h then l e else [])))

/-- The same, where a condition on the operands stands before the effects; with the condition of the header false it does nothing. -/
def StagesUIf (i : Instr) (h : Hdr) (p : Env → Prop) (l : Env → List Eff) : Prop :=
  ∀ s e, s.env = some e → e.holds h = true → p e → exec i s = .next (s.stageSyl h.e e.iu 0 (.eff (l e)))

/-- A U syllable whose condition is false completes and stages nothing. -/
def SkipsU (i : Instr) (h : Hdr) : Prop :=
  ∀ s e, s.env = some e → e.holds h = false → exec i s = .next (s.stageSyl h.e e.iu 0 (.eff []))

/-- A U syllable whose check fails completes by staging the failure, with its stage, cause, address and details (R165, R381). -/
def FailsU (i : Instr) (h : Hdr) (p : Env → Prop) (f : Env → Act) : Prop :=
  ∀ s e, s.env = some e → e.holds h = true → p e → exec i s = .next (s.stageSyl h.e e.iu 0 (f e)) ∧ ∃ r, f e = .fail r

/-- A V syllable completes: its effects are staged in V0 or V1 for the lanes of IS (R119, R124). -/
def StagesV (i : Instr) (h : Hdr) (l : Env → Lanes → List Eff) : Prop :=
  ∀ s e, s.env = some e →
    exec i s = .next (s.stageSyl h.e { e.iu with vslot := e.iu.vslot + 1 } (if e.iu.vslot = 0 then 1 else 2) (.eff (l e (e.issueSet h))))

/-- An M syllable whose issue set is empty completes and stages nothing (R124). -/
def SkipsM (i : Instr) (h : Hdr) : Prop :=
  ∀ s e, s.env = some e → e.issueSet h = 0 → exec i s = .next (s.stageSyl h.e e.iu 3 (.eff []))

/-- An X syllable whose condition is false completes and stages nothing (R124). -/
def SkipsX (i : Instr) (h : Hdr) : Prop :=
  ∀ s e, s.env = some e → e.holds h = false → exec i s = .next (s.stageSyl h.e e.iu 4 (.eff []))

/-- An X syllable completes, where its condition holds, the engine queue has room and p holds: it stages l in slot X (R140). -/
def StagesX (i : Instr) (h : Hdr) (p : Env → Prop) (l : Env → List Eff) : Prop :=
  ∀ s e, s.env = some e → e.holds h = true → e.queueFull = false → p e →
    exec i s = .next (s.stageSyl h.e e.iu 4 (.eff (l e)))

/-- The matrix commands of class X (R300). -/
def matrixCommands : List (Hdr → FmtE → Instr) :=
  [.tld, .tst, .tmma, .trnd, .tzeroPlane, .tzeroTile, .twin, .tbfly, .tbrev, .ttwg, .ttrn, .tmovvTv, .tmovvVt, .tmovvTvRx, .tmovvVtRx, .tmerge]

/-- Every command of class X. -/
def engineCommands : List (Hdr → FmtE → Instr) :=
  matrixCommands ++
  [.cpy, .cpys, .cpym, .cpyt, .gath, .redc, .cnvt, .bsnd, .swait, .srel, .spawn, .spawnd, .enq, .deq, .deqNb, .barv, .barw, .bart, .barx,
    .cbar, .tlwait, .tlsig, .tlrd, .rast, .rayq, .rtile]

/-! ## Frames of instructions that write registers -/

/-- Instructions that write one scalar register D, of format A. -/
def scalarResults : List (Hdr → FmtA → Instr) :=
  [.sadd, .ssub, .smul, .smulh, .smulhu, .sdiv, .sdivu, .sand, .sor, .sxor, .sandn, .sshl, .sshr, .ssra, .smin, .smax, .sminu, .smaxu,
    .ssel, .spopc, .sclz, .sbfx, .sbfi]

/-- The same, of format B. -/
def scalarImmediates : List (Hdr → FmtB → Instr) := [.saddi, .sandi, .sori, .sxori, .sshli, .sshri, .ssrai]

/-- Instructions that write one vector register D in the lanes of IS and draw nothing, of format A. -/
def vectorResults : List (Hdr → FmtA → Instr) :=
  [.vadd, .vsub, .vadds, .vaddsu, .vsubs, .vsubsu, .vmul, .vmulh, .vmulhu, .vmad, .vand, .vor, .vxor, .vandn, .vshl, .vshr, .vsra, .vmin,
    .vmax, .vminu, .vmaxu, .vabsd, .vsel, .vmov, .vpopc, .vclz, .vbfx, .vbfi, .vdot4, .vpack, .vunpk, .ffma, .fmin, .fmax, .fclass, .fdot2,
    .fmaxk, .fmxd, .sfsin, .sfcos, .sfexp2, .sflog2, .sfrcp, .sfrsq, .sfsqrt, .xshf, .xbfly, .xup, .xdn, .xbcast, .xred, .xscan]

/-- The same, of format B. -/
def vectorImmediates : List (Hdr → FmtB → Instr) := [.vaddi, .vandi, .vshli, .vshri, .vsrai]

/-- Instructions with a mode field, which write D in the lanes of IS and in stochastic mode draw there (R202, R204). -/
def modeResults : List (Hdr → FmtA → Instr) := [.fadd, .fsub, .fmul, .fcvt, .fcvti, .icvtf, .fmxq]

/-- An instruction of format A or B that writes one scalar or vector register, and draws at most. -/
def RegisterForm (i : Instr) : Prop :=
  ∃ h, (∃ c ∈ scalarResults ++ vectorResults ++ modeResults, ∃ o, i = c h o) ∨ ∃ c ∈ scalarImmediates ++ vectorImmediates, ∃ o, i = c h o

/-- A bundle of one syllable with header h stands in hand at its first syllable, and no counter of its wave is above 255. -/
def Alone (e : Env) (h : Hdr) : Prop :=
  h.e = true ∧ e.iu.held = false ∧ e.iu.raised = [] ∧ e.iu.effs = [] ∧ e.iu.touch = [] ∧ e.iu.sub = false ∧ countersFull e.y [] = false

/-- The instruction answers a next state in which, of the registers of its wave, only the scalars ss, the vector registers vs and the
lane predicates ps in the lanes m, with draws the random numbers of the lanes m, the wave conditions cs and the PCs of the issued
threads, which now name the next bundle, may have changed; and no register of another wave, no matrix state, no byte of memory, no timer, no host, dispatch, power or firmware register, no
cluster, die (but for a DOUBLE_FAULT of a wave that single-steps) or context. -/
def FrameOf (draws : Bool) (s : State) (e : Env) (i : Instr) (m : Lanes) (ss vs ps cs : List Nat) : Prop :=
  ∃ t y, exec i s = .next t ∧ t.wave? e.iu.block e.iu.wave = some y ∧
    (∀ r, r ∉ ss → y.rdS r = e.y.rdS r) ∧ (∀ r l, l < 128 → r ∉ vs ∨ m.getLsbD l = false → y.rdV r l = e.y.rdV r l) ∧
    (∀ k l, k ∉ ps ∨ m.getLsbD l = false → (y.rdP k).getLsbD l = (e.y.rdP k).getLsbD l) ∧ (∀ k, k ∉ cs → y.rdC k = e.y.rdC k) ∧
    y.loopc = e.y.loopc ∧ y.rotb = e.y.rotb ∧ (draws = false → y.rng = e.y.rng) ∧ (∀ l, m.getLsbD l = false → y.rngOf l = e.y.rngOf l) ∧
    y.living = e.y.living ∧
    (∀ l, l < 128 → y.pcOf l = if e.iu.lanes.getLsbD l then e.iu.next else e.y.pcOf l) ∧
    (∀ b w, ¬(b = e.iu.block ∧ w = e.iu.wave) → t.regs? b w = s.regs? b w) ∧ (∀ b, t.mtx? b = s.mtx? b) ∧ SameMemory s t ∧
    t.time = s.time ∧ t.host = s.host ∧ t.disp = s.disp ∧ t.power = s.power ∧ t.fw = s.fw ∧ t.clusters = s.clusters ∧
    (∀ d, (t.die d).settled = (s.die d).settled) ∧ t.ctxs = s.ctxs

/-- The frame of an instruction that draws nothing. -/
def Frame (s : State) (e : Env) (i : Instr) (m : Lanes) (ss vs ps cs : List Nat) : Prop := FrameOf false s e i m ss vs ps cs

/-- What the commit of staged register effects comes to: they reach their own wave, after its threads have moved on, and nothing else. -/
def CommitsTo (s t : State) (iu : Issue) (y : Wave) : Prop :=
  t.regs? iu.block iu.wave = some (iu.effs.foldl (fun y f => f.toWave y) (iu.moved y)).regs ∧
  (∀ b w, ¬(b = iu.block ∧ w = iu.wave) → t.regs? b w = s.regs? b w) ∧ (∀ b, t.mtx? b = s.mtx? b) ∧
  t.cur = none ∧ t.host = s.host ∧ t.ctxs = s.ctxs ∧ ((∀ d, (t.die d).pools = (s.die d).pools) → t.mem = s.mem) ∧
  (iu.touch = [] → t.mem = s.mem ∧ t.unspec = s.unspec ∧ t.poison = s.poison ∧ ∀ d, (t.die d).settled = (s.die d).settled)

/-! ## Shapes of results -/

/-- The relation of a compare by its code (R126). -/
def relation (cc : Nat) (a b : Word) : Bool :=
  match cc with
  | 0 => a = b
  | 1 => a ≠ b
  | 2 => a.slt b
  | 3 => a.sle b
  | 4 => b.slt a
  | 5 => b.sle a
  | 6 => a.ult b
  | 7 => a.ule b
  | 8 => b.ult a
  | _ => b.ule a

/-- A vector instruction of two sources on elements of the width EW selects: each element of each lane of IS is f of the elements
(R184). -/
def Elementwise2 (c : Hdr → FmtA → Instr) (f : Nat → Nat → Nat → Nat) : Prop := ∀ h o,
  StagesV (c h o) h fun e m => e.setVs o.d m fun l =>
    let w := ewWidth o.ew
    pack w ((List.range (32 / w)).map fun i => f w (elem w (laneA e o w l) i) (elem w (laneB e o w l) i))

/-- R195: vector instructions with an immediate, element by element. -/
def ElementwiseI (c : Hdr → FmtB → Instr) (f : Nat → Nat → Nat → Nat) : Prop := ∀ h o,
  StagesV (c h o) h fun e m => e.setVs o.d m fun l =>
    let w := ewWidth o.ew
    pack w ((List.range (32 / w)).map fun i => f w (elem w (modify false w o.m1 (e.src o.s1 l)) i) o.imm.toNat)

/-- A floating-point instruction of two sources with a mode field: each element is f of the exact values, rounded once in the mode of
the instruction, and in stochastic mode each lane takes one draw an element (R202 to R205). -/
def FloatMode2 (c : Hdr → FmtA → Instr) (f : Mode → FVal → FVal → FVal) : Prop := ∀ h o,
  StagesV (c h o) h fun e m =>
    let w := formWidth o.ew
    e.setVs o.d m (fun l => pack w ((List.range (32 / w)).map fun i =>
      (formFmt o.ew).round (e.modeAt o l i) (f (e.modeAt o l i) (e.fval o o.m1 o.s1 l i) (e.fval o o.m2 o.s2 l i)))) ++
    e.draws o m (32 / w)

/-- An address that a PC can hold (R174). -/
def InRange (a : Int) : Prop := 0 ≤ a ∧ a < 2 ^ 52

/-- Every lane of an access of n bytes passes its checks, at places ps and with the pages bound that state t has (R226, R240), and no
copy of the core, and for a load no atomic before it, has still to act on the bytes (R248, R328). -/
def Reaches (e : Env) (sp : BitVec 2) (n : Nat) (k : XKind) (more : Place → Option XFault)
    (addr : Nat → Int × Nat) (uniform : Bool) (lanes : List Nat) (t : State) (ps : List Place) : Prop :=
  e.bound.placesOf e.x sp.toNat n k more addr uniform lanes = (t, ps, none) ∧
  (∀ l ∈ lanes, e.rawInSpan sp.toNat n (addr l) = false) ∧
  ∀ p ∈ ps, e.s.inSpan e.x.core e.x.ctx n p = false ∧ (k = .load → e.atomicAhead n p = false)

/-- The bundle once a syllable has translated places in a space: the pages of its global addresses are bound when the bundle commits
(R164, R240). -/
def Visits (e : Env) (sp : BitVec 2) (ps : List Place) : Issue :=
  e.iu.touching (if sp = 0 then ps.map fun p => p.addr.toNat else [])

/-- In s, the threads of wave w of block b stand at one PC, whose bundle decodes to the syllables is and takes the slots p of this cycle,
and nothing holds it before they are looked at: u is the state in which they run (R156, R159, R162, R168). -/
def Runs (s : State) (b w : Nat) (is : List Instr) (p : List Nat) (u : State) : Prop :=
  ∃ x y pc t ws e, s.block? b = some x ∧ x.waves.find? w = some y ∧ y.split = none ∧ x.mayIssue y = true ∧ y.subsets = [pc] ∧
    (s.setWave b w { y with esc := if y.esc = 256 then 0 else y.esc }).fetchBundle (x.seenBy y) pc = (t, .ok ws) ∧
    decodeBundle x.priv x.budget y.rotb.toNat ws = .ok is ∧ u = t.begin b w (x.ctxOf y) (y.lanesAt pc) pc ws.length ∧
    u.env = some e ∧ e.heldBack is = false ∧ u.parts x.core ws = [p] ∧ p ≠ [] ∧ s.slotsOpen x.core p = true

/-- What the syllables of a bundle come to, one after another. -/
def resultOf (is : List Instr) (u : State) : Out :=
  is.foldl (fun o i => match o with
    | .next v => exec i v
    | o => o) (.next u)

end Sys2Proof.Safety
end

