-- ==== Sys2Proof/Certificates/Slice0/Obligations.lean ====
section
/-! DEFINITION. What the model is claimed to do: a proposition for each group of rules. Each docstring names the rules of spec/ that it
formalises. The instructions complete where these say so; the staged effects take place at commit (CommitWritesTheStagedRegisters). -/

open Sys2Proof Sys2Proof.Machine Sys2Proof.Safety

/-! ## Integer instructions -/

/-- R187 for the scalar multiply and add instructions: the result of each, as the register effect that its syllable stages. R187 for the
scalar logic and shift instructions: shift distances are taken modulo 32. R187 for the scalar minimum and maximum instructions. -/
def Obligations.ScalarArithmeticResults : Prop :=
  (∀ (h : Hdr) (o : FmtA),
     StagesU (.sadd h o) h (fun e => [setS o.d (opA e o + opB e o)]) ∧
     StagesU (.ssub h o) h (fun e => [setS o.d (opA e o - opB e o)]) ∧
     StagesU (.smul h o) h (fun e => [setS o.d (opA e o * opB e o)]) ∧
     StagesU (.smulh h o) h (fun e => [setS o.d (BitVec.ofInt 32 ((opA e o).toInt * (opB e o).toInt / 2 ^ 32))]) ∧
     StagesU (.smulhu h o) h (fun e => [setS o.d (BitVec.ofNat 32 ((opA e o).toNat * (opB e o).toNat / 2 ^ 32))])) ∧
  (∀ (h : Hdr) (o : FmtA),
     StagesU (.sand h o) h (fun e => [setS o.d (opA e o &&& opB e o)]) ∧
     StagesU (.sor h o) h (fun e => [setS o.d (opA e o ||| opB e o)]) ∧
     StagesU (.sxor h o) h (fun e => [setS o.d (opA e o ^^^ opB e o)]) ∧
     StagesU (.sandn h o) h (fun e => [setS o.d (opA e o &&& ~~~opB e o)]) ∧
     StagesU (.sshl h o) h (fun e => [setS o.d (opA e o <<< ((opB e o).toNat % 32))]) ∧
     StagesU (.sshr h o) h (fun e => [setS o.d (opA e o >>> ((opB e o).toNat % 32))]) ∧
     StagesU (.ssra h o) h (fun e => [setS o.d ((opA e o).sshiftRight ((opB e o).toNat % 32))])) ∧
  (∀ (h : Hdr) (o : FmtA),
     StagesU (.smin h o) h (fun e => [setS o.d (if (opB e o).slt (opA e o) then opB e o else opA e o)]) ∧
     StagesU (.smax h o) h (fun e => [setS o.d (if (opA e o).slt (opB e o) then opB e o else opA e o)]) ∧
     StagesU (.sminu h o) h (fun e => [setS o.d (if (opB e o).ult (opA e o) then opB e o else opA e o)]) ∧
     StagesU (.smaxu h o) h (fun e => [setS o.d (if (opA e o).ult (opB e o) then opB e o else opA e o)]))

/-- R188: SDIV and SDIVU are U opcodes 06 and 07 of format A; they divide S1 by S2 toward zero, with the results the manual gives for a
zero divisor and for the overflow. -/
def Obligations.ScalarDivisionResults : Prop := ∀ (h : Hdr) (o : FmtA),
  StagesU (.sdiv h o) h (fun e => [setS o.d (
    if opB e o = 0 then (if (opA e o).slt 0 then 1 else BitVec.allOnes 32)
    else if opA e o = BitVec.intMin 32 ∧ opB e o = BitVec.allOnes 32 then BitVec.intMin 32
    else BitVec.ofInt 32 (Int.tdiv (opA e o).toInt (opB e o).toInt))]) ∧
  StagesU (.sdivu h o) h (fun e => [setS o.d (if opB e o = 0 then BitVec.allOnes 32 else opA e o / opB e o)]) ∧
  (Instr.sdiv h o).view = some ⟨0, 0x06, h, .a o⟩ ∧ (Instr.sdivu h o).view = some ⟨0, 0x07, h, .a o⟩

/-- R126, R181, R189 to R191: scalar compares write a wave condition, CLOG combines two, SSEL selects by one. -/
def Obligations.ScalarCompareAndSelectResults : Prop := ∀ (h : Hdr) (o : FmtA) (b : FmtB),
  StagesU (.scmp h o) h (fun e => [.setC (Spec.idx o.d).toNat (relation o.cc (opA e o) (opB e o))]) ∧
  StagesU (.scmpi h b) h (fun e => [.setC (Spec.idx b.d).toNat (relation b.cc (opI e b) ((b.imm.extractLsb' 0 19).signExtend 32))]) ∧
  StagesU (.ssel h o) h (fun e => [setS o.d (if e.y.rdC (Spec.idx o.s3).toNat then opA e o else opB e o)]) ∧
  StagesU (.clog h o) h (fun e =>
    [.setC (Spec.idx o.d).toNat ((Spec.idx o.s3).getLsbD
      ((if e.y.rdC (Spec.idx o.s1).toNat then 2 else 0) + (if e.y.rdC (Spec.idx o.s2).toNat then 1 else 0)))])

/-- R193, R194: the scalar bit instructions. -/
def Obligations.ScalarBitResults : Prop := ∀ (h : Hdr) (o : FmtA),
  StagesU (.spopc h o) h (fun e => [setS o.d (toWord (((List.range 32).filter fun i => (opA e o).getLsbD i).length))]) ∧
  StagesU (.sclz h o) h (fun e => [setS o.d (toWord (if opA e o = 0 then 32 else 31 - Nat.log2 (opA e o).toNat))]) ∧
  StagesU (.sbfx h o) h (fun e => [setS o.d (toWord (opBfx (opA e o).toNat (opB e o).toNat))]) ∧
  StagesU (.sbfi h o) h (fun e => [setS o.d (toWord (opBfi (opA e o).toNat (opB e o).toNat (opC e o).toNat))])

/-- R195: the scalar instructions with an immediate. R195 for the vector instructions with an immediate. R196, R197: long immediates and
64-bit additions, scalar and vector. -/
def Obligations.ImmediateAndPairResults : Prop :=
  (∀ (h : Hdr) (o : FmtB),
     StagesU (.saddi h o) h (fun e => [setS o.d (opI e o + immB o)]) ∧
     StagesU (.sandi h o) h (fun e => [setS o.d (opI e o &&& immB o)]) ∧
     StagesU (.sori h o) h (fun e => [setS o.d (opI e o ||| immB o)]) ∧
     StagesU (.sxori h o) h (fun e => [setS o.d (opI e o ^^^ immB o)]) ∧
     StagesU (.sshli h o) h (fun e => [setS o.d (opI e o <<< (o.imm.toNat % 32))]) ∧
     StagesU (.sshri h o) h (fun e => [setS o.d (opI e o >>> (o.imm.toNat % 32))]) ∧
     StagesU (.ssrai h o) h (fun e => [setS o.d ((opI e o).sshiftRight (o.imm.toNat % 32))])) ∧
  (ElementwiseI Instr.vaddi (fun w a i => trunc w (sext w a + sext 24 i)) ∧
     ElementwiseI Instr.vandi (fun w a i => a &&& trunc w (sext 24 i)) ∧
     ElementwiseI Instr.vshli (fun w a i => a * 2 ^ (i % w) % 2 ^ w) ∧
     ElementwiseI Instr.vshri (fun w a i => a / 2 ^ (i % w)) ∧
     ElementwiseI Instr.vsrai (fun w a i => trunc w (sext w a / 2 ^ (i % w)))) ∧
  (∀ (h : Hdr) (c : FmtC) (o : FmtA),
     StagesU (.sli h c) h (fun _ => [setS c.d c.imm]) ∧
     StagesU (.sliHi h c) h (fun _ => [.setS (c.d.toNat + 1 - 128) c.imm]) ∧
     StagesU (.sliSx h c) h (fun _ => setS64 c.d (c.imm.signExtend 64)) ∧
     StagesV (.vli h c) h (fun e m => e.setVs c.d m fun _ => c.imm) ∧
     StagesV (.vliHi h c) h (fun e m => (lanesOf m).map fun l => e.setV (c.d.toNat + 1) l c.imm) ∧
     StagesV (.vliSx h c) h (fun e m => e.setVs64 c.d m fun _ => c.imm.signExtend 64) ∧
     StagesU (.sadd64 h o) h (fun e => setS64 o.d (
       (if o.m1 = 7 then -e.src64 o.s1 0 else e.src64 o.s1 0) +
       (let b := if o.ew = 0 then e.src64 o.s2 0 else if o.ew = 1 then (e.src o.s2 0).signExtend 64 else (e.src o.s2 0).setWidth 64
        if o.m2 = 7 then -b else b))) ∧
     StagesV (.vadd64 h o) h (fun e m => e.setVs64 o.d m fun l =>
       (if o.m1 = 7 then -e.src64 o.s1 l else e.src64 o.s1 l) +
       (let b := if o.ew = 0 then e.src64 o.s2 l else if o.ew = 1 then (e.src o.s2 l).signExtend 64 else (e.src o.s2 l).setWidth 64
        if o.m2 = 7 then -b else b)))

/-- R187 for the vector instructions whose element result wraps: element i of each lane, modulo 2^w. R187 for the vector instructions
that compare or saturate, and VMAD. -/
def Obligations.VectorElementResults : Prop :=
  (Elementwise2 Instr.vadd (fun w a b => (a + b) % 2 ^ w) ∧
     Elementwise2 Instr.vsub (fun w a b => (a + (2 ^ w - b)) % 2 ^ w) ∧
     Elementwise2 Instr.vmul (fun w a b => a * b % 2 ^ w) ∧
     Elementwise2 Instr.vmulh (fun w a b => trunc w (sext w a * sext w b / 2 ^ w)) ∧
     Elementwise2 Instr.vmulhu (fun w a b => a * b / 2 ^ w) ∧
     Elementwise2 Instr.vand (fun _ a b => a &&& b) ∧
     Elementwise2 Instr.vor (fun _ a b => a ||| b) ∧
     Elementwise2 Instr.vxor (fun _ a b => a ^^^ b) ∧
     Elementwise2 Instr.vandn (fun w a b => a &&& (2 ^ w - 1 - b)) ∧
     Elementwise2 Instr.vshl (fun w a b => a * 2 ^ (b % w) % 2 ^ w) ∧
     Elementwise2 Instr.vshr (fun w a b => a / 2 ^ (b % w)) ∧
     Elementwise2 Instr.vsra (fun w a b => trunc w (sext w a / 2 ^ (b % w)))) ∧
  (Elementwise2 Instr.vmin (fun w a b => if sext w b < sext w a then b else a) ∧
     Elementwise2 Instr.vmax (fun w a b => if sext w a < sext w b then b else a) ∧
     Elementwise2 Instr.vminu (fun _ a b => min a b) ∧
     Elementwise2 Instr.vmaxu (fun _ a b => max a b) ∧
     Elementwise2 Instr.vadds (fun w a b => trunc w (sat (sext w a + sext w b) (-2 ^ (w - 1)) (2 ^ (w - 1) - 1))) ∧
     Elementwise2 Instr.vaddsu (fun w a b => min (a + b) (2 ^ w - 1)) ∧
     Elementwise2 Instr.vsubs (fun w a b => trunc w (sat (sext w a - sext w b) (-2 ^ (w - 1)) (2 ^ (w - 1) - 1))) ∧
     Elementwise2 Instr.vsubsu (fun _ a b => a - b) ∧
     Elementwise2 Instr.vabsd (fun w a b => (sext w a - sext w b).natAbs) ∧
     ∀ h o, StagesV (.vmad h o) h fun e m => e.setVs o.d m fun l =>
       let w := ewWidth o.ew
       pack w ((List.range (32 / w)).map fun i =>
         trunc w (sext w (elem w (laneA e o w l) i) * sext w (elem w (laneB e o w l) i) + sext w (elem w (laneC e o w l) i))))

/-- R181, R189 to R191: vector compares write a lane predicate in the lanes of IS, VSEL selects by one, PLOG combines two. -/
def Obligations.VectorCompareAndSelectResults : Prop := ∀ (h : Hdr) (o : FmtA) (b : FmtB),
  StagesV (.vcmp h o) h (fun e m => [e.setPs (Spec.idx o.d).toNat m fun l =>
    (List.range (32 / ewWidth o.ew)).all fun i =>
      icmpHolds o.cc (ewWidth o.ew) (elem (ewWidth o.ew) (laneA e o (ewWidth o.ew) l) i) (elem (ewWidth o.ew) (laneB e o (ewWidth o.ew) l) i)]) ∧
  StagesV (.vcmpi h b) h (fun e m => [e.setPs (Spec.idx b.d).toNat m fun l =>
    (List.range (32 / ewWidth b.ew)).all fun i =>
      icmpHolds b.cc (ewWidth b.ew) (elem (ewWidth b.ew) (modify false (ewWidth b.ew) b.m1 (e.src b.s1 l)) i)
        (trunc (ewWidth b.ew) (sext 19 b.imm.toNat))]) ∧
  StagesV (.vsel h o) h (fun e m => e.setVs o.d m fun l =>
    if (e.pred (Spec.idx o.s3).toNat).getLsbD l then laneA e o 32 l else laneB e o 32 l) ∧
  StagesV (.plog h o) h (fun e m => [e.setPs (Spec.idx o.d).toNat m fun l =>
    (Spec.idx o.s3).getLsbD ((if (e.pred (Spec.idx o.s1).toNat).getLsbD l then 2 else 0) +
      (if (e.pred (Spec.idx o.s2).toNat).getLsbD l then 1 else 0))])

/-- R192 to R194, R198 to R200: moves, counts, bit fields, VDOT4, VPACK and VUNPK. -/
def Obligations.VectorBitAndPackResults : Prop := ∀ (h : Hdr) (o : FmtA),
  let w := ewWidth o.ew
  StagesV (.vmov h o) h (fun e m => e.setVs o.d m fun l => laneA e o w l) ∧
  StagesV (.vpopc h o) h (fun e m => e.setVs o.d m fun l =>
    pack w ((List.range (32 / w)).map fun i => popcount w (elem w (laneA e o w l) i))) ∧
  StagesV (.vclz h o) h (fun e m => e.setVs o.d m fun l =>
    pack w ((List.range (32 / w)).map fun i => clz w (elem w (laneA e o w l) i))) ∧
  StagesV (.vbfx h o) h (fun e m => e.setVs o.d m fun l => toWord (opBfx (laneA e o 32 l).toNat (laneB e o 32 l).toNat)) ∧
  StagesV (.vbfi h o) h (fun e m => e.setVs o.d m fun l =>
    toWord (opBfi (laneA e o 32 l).toNat (laneB e o 32 l).toNat (laneC e o 32 l).toNat)) ∧
  StagesV (.vdot4 h o) h (fun e m => e.setVs o.d m fun l =>
    laneC e o 32 l + BitVec.ofInt 32 (((List.range (32 / w)).map fun i =>
      sext w (elem w (laneA e o w l) i) * sext w (elem w (laneB e o w l) i)).sum)) ∧
  StagesV (.vpack h o) h (fun e m => e.setVs o.d m fun l =>
    opPack w (modify false (2 * w) o.m1 (e.src o.s1 l)) (modify false (2 * w) o.m2 (e.src o.s2 l))) ∧
  StagesV (.vunpk h o) h (fun e m => e.setVs o.d m fun l => opUnpk w (o.s3.getLsbD 0) (o.s3.getLsbD 1) (laneA e o w l))

/-! ## Floating-point instructions -/

/-- R202 to R205: FADD, FSUB and FMUL round the exact result of each element once in the mode of the instruction, and take the draws
that stochastic rounding needs. R206 to R210: FFMA and FDOT2 round once to nearest even, FMIN, FMAX and FCLASS work on patterns, FCMP
writes a predicate. -/
def Obligations.FloatArithmeticResults : Prop :=
  (FloatMode2 Instr.fadd (fun md a b => a.add md b) ∧
     FloatMode2 Instr.fsub (fun md a b => a.add md b.negate) ∧
     FloatMode2 Instr.fmul (fun _ a b => a.mul b)) ∧
  (∀ (h : Hdr) (o : FmtA),
     let w := formWidth o.ew
     let f := formFmt o.ew
     StagesV (.ffma h o) h (fun e m => e.setVs o.d m fun l => pack w ((List.range (32 / w)).map fun i =>
       f.round .rne (((e.fval o o.m1 o.s1 l i).mul (e.fval o o.m2 o.s2 l i)).add .rne (e.fval o o.m3 o.s3 l i)))) ∧
     StagesV (.fmin h o) h (fun e m => e.setVs o.d m fun l => pack w ((List.range (32 / w)).map fun i =>
       f.minMax false (elem w (e.fsrc o o.m1 o.s1 l) i) (elem w (e.fsrc o o.m2 o.s2 l) i))) ∧
     StagesV (.fmax h o) h (fun e m => e.setVs o.d m fun l => pack w ((List.range (32 / w)).map fun i =>
       f.minMax true (elem w (e.fsrc o o.m1 o.s1 l) i) (elem w (e.fsrc o o.m2 o.s2 l) i))) ∧
     StagesV (.fcmp h o) h (fun e m => [e.setPs (Spec.idx o.d).toNat m fun l => (List.range (32 / w)).all fun i =>
       fcmpHolds o.cc (e.fval o o.m1 o.s1 l i) (e.fval o o.m2 o.s2 l i)]) ∧
     StagesV (.fclass h o) h (fun e m => e.setVs o.d m fun l => pack w ((List.range (32 / w)).map fun i =>
       f.classify (elem w (e.fsrc o o.m1 o.s1 l) i))) ∧
     StagesV (.fdot2 h o) h (fun e m => e.setVs o.d m fun l =>
       toWord (fp32.round .rne (((fp32.value (modify true 32 o.m3 (e.src o.s3 l)).toNat).add .rne
         ((f.value (elem 16 (e.fsrc o o.m1 o.s1 l) 0)).mul (f.value (elem 16 (e.fsrc o o.m2 o.s2 l) 0)))).add .rne
         ((f.value (elem 16 (e.fsrc o o.m1 o.s1 l) 1)).mul (f.value (elem 16 (e.fsrc o o.m2 o.s2 l) 1)))))))

/-- R211 to R217: conversions between formats and to and from integers, and the block formats. -/
def Obligations.FloatConversionResults : Prop := ∀ (h : Hdr) (o : FmtA),
  let w := formWidth o.ew
  let src := (o.s2.extractLsb' 0 3).toNat
  let dst := (o.s2.extractLsb' 3 3).toNat
  StagesV (.fcvt h o) h (fun e m =>
    e.setVs o.d m (fun l => opFcvt src dst (o.s2.extractLsb' 6 3).toNat (e.modeAt o l) (convModify src o.m1 (e.src o.s1 l)) (e.src o.d l)) ++
    e.draws o m (min (32 / convWidth src) (32 / convWidth dst))) ∧
  StagesV (.fcvti h o) h (fun e m =>
    e.setVs o.d m (fun l => pack w ((List.range (32 / w)).map fun i =>
      toInt w (o.s2.getLsbD 0) (e.modeAt o l i) (e.fval o o.m1 o.s1 l i))) ++ e.draws o m (32 / w)) ∧
  StagesV (.icvtf h o) h (fun e m =>
    e.setVs o.d m (fun l => pack w ((List.range (32 / w)).map fun i => (formFmt o.ew).round (e.modeAt o l i)
      (intValue w (o.s2.getLsbD 0) (elem w (modify false w o.m1 (e.src o.s1 l)) i)))) ++ e.draws o m (32 / w)) ∧
  StagesV (.fmaxk h o) h (fun e m => e.setVs o.d m fun l =>
    toWord (sortable16 (formFmt o.ew) (elem 16 (e.fsrc o o.m1 o.s1 l) 0) * 65536 + (65535 - (e.src o.s2 l).toNat % 65536))) ∧
  StagesV (.fmxq h o) h (fun e m =>
    let val (l : Nat) := fp32.value (modify true 32 o.m1 (e.src o.s1 l)).toNat
    let scale (l : Nat) := mxScale src (((lanesOf m).filter fun j => j / 32 = l / 32).map val)
    e.setVs o.d m (fun l => toWord (scale l * 256 + mxElem src (scale l) (e.modeAt o l 0) (val l))) ++ e.draws o m 1) ∧
  StagesV (.fmxd h o) h (fun e m => e.setVs o.d m fun l =>
    let x := (e.src o.s1 l).toNat
    let v := (convFmt src).value (x % 2 ^ (convFmt src).bits)
    if x / 256 % 256 = 255 ∨ v.isNan then 0x7FC00000 else toWord (fp32.round .rne (v.scale ((x / 256 % 256 : Nat) - 127))))

/-- R218, R219: the special functions, element by element, and the twiddle pair. The result of a special function is the model's choice
(log entry 9): the value on which both ends of an enclosing interval agree, and a free one where they differ. -/
def Obligations.SpecialFunctionResults : Prop := ∀ (h : Hdr) (o : FmtA),
  let w := formWidth o.ew
  let unary (op : Nat) (e : Env) (m : Lanes) : List Eff := e.setVs o.d m fun l =>
    pack w ((List.range (32 / w)).map fun i => sfResult op (formFmt o.ew) (elem w (e.fsrc o o.m1 o.s1 l) i))
  StagesV (.sfsin h o) h (unary 0x60) ∧
  StagesV (.sfcos h o) h (unary 0x61) ∧
  StagesV (.sfexp2 h o) h (unary 0x62) ∧
  StagesV (.sflog2 h o) h (unary 0x63) ∧
  StagesV (.sfrcp h o) h (unary 0x64) ∧
  StagesV (.sfrsq h o) h (unary 0x65) ∧
  StagesV (.sfsqrt h o) h (unary 0x66) ∧
  StagesV (.sftwid h o) h (fun e m => e.setVs64 o.d m fun l =>
    pair (twidWord true (e.src o.s1 l) (e.src o.s2 l)) (twidWord false (e.src o.s1 l) (e.src o.s2 l)))

/-- R29, R30: a pattern that is not a NaN rounds to itself in every mode, for each format. -/
def Obligations.RepresentableValuesRoundToThemselves : Prop := ∀ (code x u : Nat) (md : Mode),
  x < 2 ^ (convFmt code).bits → (convFmt code).value x ≠ .nan → u < 2 ^ 16 → md ∈ [.rne, .rtz, .rdn, .rup, .rs u] →
    (convFmt code).round md ((convFmt code).value x) = x

/-! ## Exchange instructions -/

/-- R220 to R224: movements take the source lane's value where that lane supplies, reductions and scans combine the supplying lanes of
the segment, ballots and votes read a predicate. -/
def Obligations.LaneExchangeResults : Prop := ∀ (h : Hdr) (o : FmtA),
  let w := segWidth o
  let move (j : Env → Lanes → Nat → Nat) (e : Env) (m : Lanes) : List Eff := e.setVs o.d m fun l =>
    if m.getLsbD (j e m l) then e.src o.s1 (j e m l) else e.src o.s1 l
  StagesV (.xshf h o) h (move fun e _ l => l - l % w + e.dist o l % w) ∧
  StagesV (.xbfly h o) h (move fun e _ l => l - l % w + (l ^^^ e.dist o l) % w) ∧
  StagesV (.xup h o) h (move fun e _ l => if e.dist o l ≤ l % w then l - e.dist o l else l) ∧
  StagesV (.xdn h o) h (move fun e _ l => if l % w + e.dist o l < w then l + e.dist o l else l) ∧
  StagesV (.xbcast h o) h (move fun _ m l => (segLanes m w l).headD l) ∧
  StagesV (.xred h o) h (fun e m => e.setVs o.d m fun l =>
    pack (xWidth o) ((List.range (32 / xWidth o)).map fun i =>
      (treeFold (xCombine (xOp o) (xWidth o) (formFmt o.ew)) (o.s3.extractLsb' 0 3).toNat
        ((List.range w).map fun k => if m.getLsbD (l - l % w + k) then some (e.xelem o i (l - l % w + k)) else none)).getD 0)) ∧
  StagesV (.xscan h o) h (fun e m => e.setVs o.d m fun l =>
    pack (xWidth o) ((List.range (32 / xWidth o)).map fun i =>
      (serial (xCombine (xOp o) (xWidth o) (formFmt o.ew))
        (((segLanes m w l).filter fun j => if o.s3.getLsbD 7 then decide (j < l) else decide (j ≤ l)).map (e.xelem o i))).getD
        (xIdentity (xOp o) (xWidth o)))) ∧
  StagesV (.xballot h o) h (fun e m => (lanesOf m).flatMap fun l => (List.range 4).map fun k =>
    e.setV (o.d.toNat + k) l ((m &&& e.pred (Spec.idx o.s1).toNat).extractLsb' (32 * k) 32)) ∧
  StagesV (.xvote h o) h (fun e m => [e.setPs (Spec.idx o.d).toNat m fun l =>
    voteOf (xOp o) ((segLanes m w l).map fun j => (e.pred (Spec.idx o.s1).toNat).getLsbD j)])

/-! ## Control and state instructions -/

/-- R171, R173, R176, R177: branches send the issued threads to their target where one can be held, LOOPB counts and rotates, EXIT ends
threads. R173, R174, R176: a target that no PC can hold raises FETCH_FAULT with DINFO 0x0B, a misaligned one MISALIGNED, and a LOOPB at
LOOPC 0 LOOP_STATE_INVALID; the bundle does not commit. That FETCH_FAULT goes before MISALIGNED, and the DVAL of MISALIGNED, are the
model's choice (log entry 85). -/
def Obligations.BranchResults : Prop :=
  (∀ (h : Hdr) (a : FmtA) (o : FmtJ),
     StagesU (.nop h a) h (fun _ => []) ∧
     StagesUIf (.br h o) h (fun e => e.iu.lanes ≠ 0 ∧ InRange (branchTarget e.iu.here o.off))
       (fun e => [.setPc e.iu.lanes (BitVec.ofInt 53 (branchTarget e.iu.here o.off))]) ∧
     StagesUIf (.brl h o) h (fun e => e.iu.lanes ≠ 0 ∧ InRange (branchTarget e.iu.here o.off))
       (fun e => .setPc e.iu.lanes (BitVec.ofInt 53 (branchTarget e.iu.here o.off)) :: setS64 o.l (e.iu.next.setWidth 64)) ∧
     StagesUIf (.bri h o) h (fun e => (e.src64 o.l 0).toNat < 2 ^ 52 ∧ (e.src64 o.l 0).toNat % 8 = 0)
       (fun e => [.setPc e.iu.lanes ((e.src64 o.l 0).extractLsb' 0 53)]) ∧
     StagesUIf (.brli h o) h (fun e => (e.src64 o.l 0).toNat < 2 ^ 52 ∧ (e.src64 o.l 0).toNat % 8 = 0)
       (fun e => .setPc e.iu.lanes ((e.src64 o.l 0).extractLsb' 0 53) :: setS64 o.l (e.iu.next.setWidth 64)) ∧
     StagesUIf (.brp h o) h (fun e => e.branchLanes o ≠ 0 ∧ InRange (branchTarget e.iu.here o.off))
       (fun e => [.setPc (e.branchLanes o) (BitVec.ofInt 53 (branchTarget e.iu.here o.off))]) ∧
     StagesUIf (.brp h o) h (fun e => e.branchLanes o = 0) (fun _ => []) ∧
     StagesUIf (.loopb h o) h (fun e => e.y.loopc = 1 ∧ InRange (branchTarget e.iu.here o.off))
       (fun e => [.setLoop 0, .setRot (nextBase e.x.var.rotv e.y.rotb)]) ∧
     StagesUIf (.loopb h o) h (fun e => 2 ≤ e.y.loopc.toNat ∧ e.iu.lanes ≠ 0 ∧ InRange (branchTarget e.iu.here o.off))
       (fun e => [.setPc e.iu.lanes (BitVec.ofInt 53 (branchTarget e.iu.here o.off)), .setLoop (e.y.loopc - 1),
         .setRot (nextBase e.x.var.rotv e.y.rotb)]) ∧
     StagesU (.exit h o) h (fun e => [.kill (e.branchLanes o)])) ∧
  (∀ (h : Hdr) (o : FmtJ) (i : Instr),
     (i = .br h o ∨ i = .brl h o → FailsU i h (fun e => e.iu.lanes ≠ 0 ∧ ¬InRange (branchTarget e.iu.here o.off))
       fun e => failWith 1 0x08 (BitVec.ofInt 64 (branchTarget e.iu.here o.off)) 0x0B none 0) ∧
     FailsU (.brp h o) h (fun e => e.branchLanes o ≠ 0 ∧ ¬InRange (branchTarget e.iu.here o.off))
       (fun e => failWith 1 0x08 (BitVec.ofInt 64 (branchTarget e.iu.here o.off)) 0x0B none 0) ∧
     FailsU (.loopb h o) h (fun e => e.y.loopc ≠ 0 ∧ ¬InRange (branchTarget e.iu.here o.off))
       (fun e => failWith 1 0x08 (BitVec.ofInt 64 (branchTarget e.iu.here o.off)) 0x0B none 0) ∧
     (i = .bri h o ∨ i = .brli h o → FailsU i h (fun e => 2 ^ 52 ≤ (e.src64 o.l 0).toNat)
       fun e => failWith 1 0x08 (e.src64 o.l 0) 0x0B none 0) ∧
     (i = .bri h o ∨ i = .brli h o → FailsU i h (fun e => (e.src64 o.l 0).toNat < 2 ^ 52 ∧ (e.src64 o.l 0).toNat % 8 ≠ 0)
       fun e => failWith 1 0x09 (e.src64 o.l 0) 0 none 8) ∧
     FailsU (.loopb h o) h (fun e => e.y.loopc = 0) (fun _ => failWith 1 0x27 0 0 none 0))

/-- R178, R180, R370, R371: TRAP and BRK stop at commit with the bundle's address and their immediate, WAIT passes when each counter is
at or below its limit, TRIGGER and GRIDWAIT mark the wave. R179: SWPT is a NOP without a standing switch request, past another fixed
point, once the 50 µs of its fixing are over, and where the kernel has no map of it; the first one reached that has a map fixes the
point, and at the fixed point it holds its threads, which the request remembers, and its bundle has no other effect; once the block has
converged there it goes on holding them, whatever the time. That threads which a switch has moved, or which a withdrawn request held, pass
it once whatever request stands is the model's reading (log entry 41). -/
def Obligations.TrapWaitAndSwitchPointResults : Prop :=
  (∀ (h : Hdr) (o : FmtC) (y : FmtY),
     StagesU (.trap h o) h (fun e => [.trap 0x07 (e.iu.here.setWidth 64) (o.imm.setWidth 64)]) ∧
     StagesU (.brk h o) h (fun e =>
       if (e.s.ctx e.x.ctx).debug then [.trap 0x35 (e.iu.here.setWidth 64) (o.imm.setWidth 64)] else []) ∧
     StagesUIf (.wait h o) h (fun e => e.y.count .ld ≤ o.imm.toNat % 256 ∧ e.y.count .st ≤ o.imm.toNat / 256 % 256 ∧
       e.y.count .cp ≤ o.imm.toNat / 65536 % 256 ∧ e.y.count .tl ≤ o.imm.toNat / 16777216) (fun _ => []) ∧
     StagesU (.trigger h y) h (fun _ => [.trigger]) ∧
     StagesU (.gridwait h y) h (fun _ => [.wait .gridwait false])) ∧
  (∀ (h : Hdr) (o : FmtC) (s : State) (e : Env), s.env = some e →
     let moved := Table.get 0 e.x.passing e.iu.wave &&& e.iu.lanes
     let nop : Prop := exec (.swpt h o) s = .next (s.stageSyl h.e e.iu 0 (.eff []))
     (moved ≠ 0 → exec (.swpt h o) s = .next (s.stageSyl h.e e.iu 0 (.eff [.passed moved]))) ∧
     (moved = 0 → e.holds h = false ∨ e.x.switch = none → nop) ∧
     (moved = 0 → ∀ q n t, e.x.switch = some q → q.fixed = some (n, t) → (n ≠ o.imm.toNat % 256 ∨ (t + 50000 ≤ s.now ∧ e.x.allHeld q = false)) → nop) ∧
     (moved = 0 → e.holds h = true → ∀ q n t, e.x.switch = some q → q.fixed = some (n, t) → n = o.imm.toNat % 256 →
       s.now < t + 50000 ∨ e.x.allHeld q = true →
       exec (.swpt h o) s = .next ((s.modBlock e.iu.block fun x =>
         { x with switch := some { q with held := q.held.put e.iu.wave (Table.get 0 q.held e.iu.wave ||| e.iu.lanes) } }).stageSyl h.e e.iu 0 .hold)) ∧
     (moved = 0 → e.holds h = true → ∀ q t ms, e.x.switch = some q → q.fixed = none → s.readMaps e.x = (t, .ok ms) →
       ((∀ m ∈ ms, m.id ≠ o.imm.toNat % 256) → exec (.swpt h o) s = .next (t.stageSyl h.e e.iu 0 (.eff []))) ∧
       ((∃ m ∈ ms, m.id = o.imm.toNat % 256) → exec (.swpt h o) s = .next ((t.modBlock e.iu.block fun x =>
         { x with switch := some { q with
            fixed := some (o.imm.toNat % 256, t.now)
            held := q.held.put e.iu.wave (Table.get 0 q.held e.iu.wave ||| e.iu.lanes) } }).stageSyl h.e e.iu 0 .hold))))

/-- R182, R183: MFS reads the special register, TIME the timer at the start of its cycle (the model's reading, log entry 3), and CYC the
cluster's counter. R141, R175, R182, R280, R296, R298,
R299, R404, R405: MTS writes the special register when its value is allowed; one that sets SAT of a plane under TRAP also raises
ACCUMULATOR_SATURATED (R40). -/
def Obligations.SpecialRegisterResults : Prop :=
  (∀ (h : Hdr) (o : FmtY),
     StagesUIf (.mfs h o) h (fun e => o.sr.toNat ≠ 0 ∧ (srIsMatrix o.sr.toNat → e.x.owner) ∧ ¬e.srBusy false o.sr.toNat)
       (fun e => if (srKind o.sr.toNat).map Prod.fst = some 64 then setS64 o.d (e.readSr o.sr.toNat)
         else [setS o.d (loWord (e.readSr o.sr.toNat))]) ∧
     StagesUIf (.mfs h o) h (fun _ => o.sr = 0) (fun e => e.setVs o.d e.iu.lanes fun l => toWord l) ∧
     StagesU (.time h o) h (fun e => setS64 o.d (BitVec.ofNat 64 (e.s.timeRead e.x))) ∧
     StagesU (.cyc h o) h (fun e => setS64 o.d (e.s.cluster (clusOf e.x.core)).cyc)) ∧
  (∀ (h : Hdr) (o : FmtY),
     let may (e : Env) : Prop := (srIsMatrix o.sr.toNat → e.x.owner) ∧ ¬e.srBusy true o.sr.toNat
     let v (e : Env) : Word := loWord (e.mtsValue o)
     StagesUIf (.mts h o) h (fun e => may e ∧ o.sr = 0x050) (fun e => [.setLoop (v e)]) ∧
     StagesUIf (.mts h o) h (fun e => may e ∧ o.sr ≠ 0x050 ∧ ¬(0x120 ≤ o.sr.toNat ∧ o.sr.toNat ≤ 0x12F ∧ 2400 < (v e).toNat % 65536))
       (fun e => [.setSr o.sr.toNat (e.mtsValue o &&& (0xFFFFFFFF00000000 ||| (srMask o.sr.toNat).setWidth 64))]) ∧
     StagesUIf (.mtsRot h o) h (fun e => may e ∧ ((v e).toNat % 64 = 0 ∨ (v e).toNat % 64 < e.x.var.rotv))
       (fun e => [.setRot (BitVec.ofNat 6 ((v e).toNat % 64))]) ∧
     StagesUIf (.mtsTsh h o) h (fun e => may e ∧ tshOk (v e &&& 0xFFFFF01F))
       (fun e => [.setSr o.sr.toNat ((v e &&& 0xFFFFF01F).setWidth 64)]) ∧
     StagesUIf (.mtsPlane h o) h (fun e => may e ∧ -160 ≤ planeFloor (v e &&& 0x707FF) ∧ planeFloor (v e &&& 0x707FF) ≤ 127 ∧
         (v e &&& 0x707FF).toNat / 65536 < 4)
       (fun e =>
         let old := (e.x.mtx.map fun m => Table.get 0 m.plane (o.sr.toNat - 0x030)).getD 0
         .setSr o.sr.toNat ((v e &&& 0x707FF).setWidth 64) ::
           if old.getLsbD 9 = false ∧ (v e).getLsbD 9 = true ∧ (v e).getLsbD 10 = true then [.saturated (o.sr.toNat - 0x030)] else []) ∧
     StagesUIf (.mtsSplit h o) h (fun e => may e ∧ (v e).toNat % 4 ≠ 3 ∧ (v e).toNat / 4 % 4 ≠ 3)
       (fun e => [.setSr o.sr.toNat ((v e &&& 0xF).setWidth 64)]) ∧
     StagesUIf (.mtsDrpth h o) h (fun e => may e ∧ 10 ≤ (v e).toNat % 128 ∧ (v e).toNat % 128 ≤ 120)
       (fun e => [.setSr o.sr.toNat ((v e &&& 0x807F).setWidth 64)]) ∧
     StagesUIf (.shelfctlWrite h o) h (fun e => may e ∧ ((v e).toNat / 65536 % 256 = 50 ∨ (v e).toNat / 65536 % 256 = 60) ∧ (v e).toNat % 256 ≠ 0)
       (fun e => [.setSr o.sr.toNat ((v e &&& 0x80FF7FFF).setWidth 64)]) ∧
     StagesUIf (.shelfctlLoad h o) h (fun e => may e ∧ ascends true e.s.power.curveF ∧ ascends false e.s.power.curveV ∧
         ((v e).toNat / 65536 % 256 = 50 ∨ (v e).toNat / 65536 % 256 = 60) ∧ (v e).toNat % 256 ≠ 0)
       (fun e => [.setSr o.sr.toNat (((v e ||| 0x40000000) &&& 0xC0FF7FFF).setWidth 64)]) ∧
     StagesUIf (.ringReset h o) h (fun e => may e ∧ (v e).getLsbD 1 = false) (fun _ => []) ∧
     StagesUIf (.ringReset h o) h (fun e => may e ∧ (v e).getLsbD 1 = true ∧
         ∃ r, e.ownRing ((o.sr.toNat - 0x040) / 4) = some r ∧ r.head = r.tail ∧ r.accepted = r.tail)
       (fun _ => [.ringReset ((o.sr.toNat - 0x040) / 4)]))

/-- R338, R369, R391, R392: fences, instruction-cache invalidation and the resume requests of a privileged wave. -/
def Obligations.FenceAndSystemResults : Prop := ∀ (h : Hdr) (o : FmtY),
  let fits (e : Env) : Prop := (e.src64 o.s1 0).toNat % 64 = 0 ∧ e.s.disp.requests.length < 64
  StagesU (.fenceRel h o) h (fun _ => [.fence 1 (o.f.extractLsb' 2 3).toNat]) ∧
  StagesU (.fenceAcq h o) h (fun _ => [.fence 2 (o.f.extractLsb' 2 3).toNat]) ∧
  StagesU (.fenceFull h o) h (fun _ => [.fence 3 (o.f.extractLsb' 2 3).toNat]) ∧
  StagesUIf (.xinv h o) h (fun e => (e.src o.s1 0).toNat < 256) (fun e => [.xinv (some (e.src o.s1 0).toNat)]) ∧
  StagesU (.xinvAll h o) h (fun _ => [.xinv none]) ∧
  StagesUIf (.rfxResume h o) h fits (fun e => [.rfx 0 (o.f.getLsbD 3) (e.src64 o.s1 0).toNat]) ∧
  StagesUIf (.rfxSkip h o) h fits (fun e => [.rfx 1 (o.f.getLsbD 3) (e.src64 o.s1 0).toNat]) ∧
  StagesUIf (.rfxKillb h o) h fits (fun e => [.rfx 2 (o.f.getLsbD 3) (e.src64 o.s1 0).toNat]) ∧
  StagesUIf (.rfxKilll h o) h fits (fun e => [.rfx 3 (o.f.getLsbD 3) (e.src64 o.s1 0).toNat])

/-! ## Memory instructions -/

/-- R253, R255: a load whose lanes pass their checks, and whose bytes no copy and no atomic before it has still to act on, is counted in
LD and owes its data to the destination registers; LDB and LDH extend the sign, LDBZ and LDHZ zeros. R252, R254, R255: a store puts one
entry a lane into the wave's store queue, in lane order, with the low bytes of the data register, pair or quad at the translated address. -/
def Obligations.LoadAndStoreResults : Prop :=
  (∀ (h : Hdr) (o : FmtM) (s t : State) (e : Env) (ps : List Place),
     s.env = some e → e.issueSet h ≠ 0 →
     let vector (lane : Option Nat) (k : Nat) (w : Word) : RegW := .v (e.phys (o.d.toNat + k)) (lane.getD 0) w
     let scalar (_ : Option Nat) (k : Nat) (w : Word) : RegW := .s (o.d.toNat + k - 128) w
     let loads (i : Instr) (n : Nat) (signed once : Bool) (lanes : List Nat) (dst : Option Nat → Nat → Word → RegW) : Prop :=
       Reaches e o.sp n .load (fun _ => none) (e.formAddr o.sp o.b (offOf o)) once lanes t ps →
       exec i s = .next (s.stageSyl h.e (Visits e o.sp ps) 3 (.eff (
         .load (ps.flatMap fun p => (e.loadAt t o n signed p).zipIdx.map fun q => dst p.lane q.2 q.1)
           (ps.map fun p => ⟨p.x.pa, n, BitVec.ofInt 64 p.addr, p.lane⟩) (ps.filterMap fun p => e.readBad t (p.hits o) n p) (if o.ord.getLsbD 0 then some o.sc.toNat else none) ::
         cacheEffs o.sp o.ch ps)))
     let m := lanesOf (e.issueSet h)
     loads (.ldb h o) 1 true false m vector ∧ loads (.ldbz h o) 1 false false m vector ∧ loads (.ldh h o) 2 true false m vector ∧
     loads (.ldhz h o) 2 false false m vector ∧ loads (.ldw h o) 4 false false m vector ∧ loads (.ldd h o) 8 false false m vector ∧
     loads (.ldq h o) 16 false false m vector ∧ loads (.sldw h o) 4 false true [0] scalar ∧ loads (.sldd h o) 8 false true [0] scalar) ∧
  (∀ (h : Hdr) (o : FmtM) (s t : State) (e : Env) (ps : List Place),
     s.env = some e → e.issueSet h ≠ 0 →
     let stores (i : Instr) (n : Nat) (once : Bool) (lanes : List Nat) : Prop :=
       Reaches e o.sp n .store (fun _ => none) (e.formAddr o.sp o.b (offOf o)) once lanes t ps →
       exec i s = .next (s.stageSyl h.e (Visits e o.sp ps) 3 (.eff [.store (ps.map fun p => (.bytes p.space p.x.home p.x.pa
         (leBytes n (if n ≤ 4 then (e.src o.d (p.lane.getD 0)).toNat else if n = 8 then (e.src64 o.d (p.lane.getD 0)).toNat
           else (e.src128 o.d.toNat (p.lane.getD 0)).toNat)), BitVec.ofInt 64 p.addr)) o.sc.toNat (o.ord.getLsbD 1) false false]))
     let m := lanesOf (e.issueSet h)
     stores (.stb h o) 1 false m ∧ stores (.sth h o) 2 false m ∧ stores (.stw h o) 4 false m ∧ stores (.std h o) 8 false m ∧
     stores (.stq h o) 16 false m ∧ stores (.sstw h o) 4 true [0] ∧ stores (.sstd h o) 8 true [0])

/-- R256 to R258: PREF brings the lines of cacheable places in and never faults, with CH 1 as the next to be evicted; CWB waits for the
stores to its lines and CINV drops its lines, both counted in ST. R264, R304: QPOP and QPEEK return the oldest entry of each lane's reply
queue, QPOP frees it; TSCL reads 128 bytes for a latch. -/
def Obligations.CacheAndReplyQueueResults : Prop :=
  (∀ (h : Hdr) (o : FmtM) (s t : State) (e : Env) (ps : List Place)
       (f : Option (XFault × Option Nat)), s.env = some e → e.issueSet h ≠ 0 →
     (e.linePlaces o .pref (e.issueSet h) = (t, ps, f) →
       let ls := linesOf (ps.filter fun p => cacheable 0 p.x.home)
       exec (.pref h o) s = .next (s.stageSyl h.e e.iu 3 (.eff (if f.isSome ∨ o.ch = 3 ∨ ls = [] then [] else [.pref ls (o.ch = 1)])))) ∧
     (e.linePlaces o .store (e.issueSet h) = (t, ps, none) →
       exec (.cwb h o) s = .next (s.stageSyl h.e (Visits e 0 ps) 3 (.eff [.cwb (linesOf ps) o.sc.toNat])) ∧
       exec (.cinv h o) s = .next (s.stageSyl h.e (Visits e 0 ps) 3 (.eff [.cinv (linesOf ps)]))) ∧
     Eff.counter (.cwb (linesOf ps) o.sc.toNat) = some .st ∧ Eff.counter (.cinv (linesOf ps)) = some .st) ∧
  (∀ (h : Hdr) (o : FmtM) (s : State) (e : Env) (r : Nat → BitVec 128) (x : Xlat),
     s.env = some e → e.issueSet h ≠ 0 →
     let q := (o.off.extractLsb' 0 2).toNat
     let ws := (lanesOf (e.issueSet h)).flatMap fun l => (List.range 4).map fun k => RegW.v (e.phys (o.d.toNat + k)) l ((r l).extractLsb' (32 * k) 32)
     ((∀ l ∈ lanesOf (e.issueSet h), (Table.get [] e.y.replies (128 * q + l)).head? = some (r l)) →
       exec (.qpop h o) s = .next (s.stageSyl h.e e.iu 3 (.eff [.load ws [] [] none, .qpop q (e.issueSet h)])) ∧
       exec (.qpeek h o) s = .next (s.stageSyl h.e e.iu 3 (.eff [.load ws [] [] none]))) ∧
     (e.x.owner = true → (s.address e.x 1 ((e.src o.b 0).toNat + offOf o) 0 128 128 .load).2 = .ok x →
       e.rawInSpan 1 128 ((e.src o.b 0).toNat + offOf o, 0) = false →
       e.atomicAhead 128 ⟨none, 1, (e.src o.b 0).toNat + offOf o, x⟩ = false →
       exec (.tscl h o) s = .next (s.stageSyl h.e e.iu 3 (.eff [.tscl (o.d.toNat % 4) (e.readBytes s false x.pa 128)]))))

/-- R259 to R263: an atomic puts one entry a lane into the store queue, with its operation, its width, its operands and the register
that receives the old value, if it returns one. -/
def Obligations.AtomicResults : Prop := ∀ (h : Hdr) (o : FmtT) (s t : State) (e : Env) (ps : List Place),
  s.env = some e → e.issueSet h ≠ 0 →
  let atomics (i : Instr) (code : Nat) (op : AOp) (n : Nat) : Prop :=
    Reaches e o.sp n .atomic (atomicCheck code op) (e.formAddr o.sp o.b (sext 9 o.aoff.toNat)) false (lanesOf (e.issueSet h)) t ps →
    exec i s = .next (s.stageSyl h.e (Visits e o.sp ps) 3 (.eff [.store (ps.map fun p => (.atomic p.space p.x.home p.x.pa n op
        (e.atomicArgs o op n (p.lane.getD 0)).1 (e.atomicArgs o op n (p.lane.getD 0)).2 (p.lane.getD 0)
        (if o.d.toNat < 128 then some (e.phys o.d.toNat) else none), BitVec.ofInt 64 p.addr))
      o.sc.toNat (o.ord.getLsbD 1) (decide (o.d.toNat < 128)) (o.ord.getLsbD 0)]))
  atomics (.aadd h o) 0x20 .add 4 ∧ atomics (.aand h o) 0x21 .and 4 ∧ atomics (.aor h o) 0x22 .or 4 ∧ atomics (.axor h o) 0x23 .xor 4 ∧
  atomics (.amin h o) 0x24 .min 4 ∧ atomics (.amax h o) 0x25 .max 4 ∧ atomics (.aminu h o) 0x26 .minu 4 ∧
  atomics (.amaxu h o) 0x27 .maxu 4 ∧ atomics (.axchg h o) 0x28 .xchg 4 ∧ atomics (.axchgX64 h o) 0x28 .xchg 8 ∧
  atomics (.acas h o) 0x29 .cas 4 ∧ atomics (.afadd h o) 0x2A .fadd 4 ∧ atomics (.aadd64 h o) 0x2B .add 8 ∧
  atomics (.acas64 h o) 0x2C .cas 8 ∧ atomics (.acas64X128 h o) 0x2C .cas 16

/-! ## Engine commands -/

/-- R300, R306 to R324: a matrix command of a converged owner that passes its checks at issue enters the engine queue, counted in TL,
with the shapes, the window registers, the plane words, the slot word and the operands it read; a TTWG also sets the committed descriptor, and a
stochastic TRND takes its draws. -/
def Obligations.MatrixCommandsAreQueued : Prop := ∀ (h : Hdr) (o : FmtE) (s : State) (e : Env) (m : Matrix) (seen : List Nat) (rows : List (List (Nat × Nat))),
  s.env = some e → e.holds h = true → e.queueFull = false → e.iu.lanes = e.y.living → e.x.mtx = some m →
  let w := e.slot o
  let a := m.shape o.t1.toNat
  let b := m.shape o.t2.toNat
  let c := m.shape o.t3.toNat
  let v := (e.lead o.s1).toNat
  let queued (i : Instr) (p : Prop) (f : EngCmd → EngCmd) (fmt : Word) (more : List Eff) (after : List Eff) : Prop := p →
    exec i s = .next (s.stageSyl h.e e.iu 4 (.eff (more ++ .engine (f (e.mtxCmd i o m fmt)) (some .tl) :: after)))
  let loaded (i : Instr) (k : XKind) : Prop :=
    let sp := (o.f.extractLsb' 0 2).toNat
    let at' : Int × Nat := if sp = 0 then ((e.lead64 o.s1).toNat, 0) else if sp = 1 then (v, 0) else (v % 2 ^ 24, v / 2 ^ 24)
    e.bound.tileRows e.x sp at'.2 at'.1 (sext 32 (e.lead o.s2).toNat) (tshRb a) k (tshRows a) 0 = (seen, .ok rows) →
    exec i s = .next (s.stageSyl h.e (e.iu.touching seen) 4 (.eff [.engine { e.mtxCmd i o m 0 with
      rows := rows, q1 := if sp = 0 then [loWord (e.lead64 o.s1), hiWord (e.lead64 o.s1)] else [e.lead o.s1], q2 := [e.lead o.s2] } (some .tl)]))
  let data := ¬(tshRows a ≤ v % 2 ^ 16 ∨ tshRb a ≤ 512 * (v / 2 ^ 16))
  let srnd := slotSrnd w = true ∧ s.dawn = false
  loaded (.tld h o) .load ∧ loaded (.tst h o) .store ∧
  queued (.tmma h o) (slotOk w = true ∧ tshCode b = slotA w ∧ tshCode c = slotB w ∧ tshCols b = tshCols c ∧ (slotA w = 0xF → evenPlane o.t1.toNat = true))
    id w [] [] ∧
  queued (.trnd h o) (slotOk w = true ∧ tshCode a = slotD w ∧ tshCols a ≤ 128 ∧ (slotD w = 0xF → evenPlane o.t2.toNat = true) ∧ ¬srnd) id w [] [] ∧
  queued (.trnd h o) (slotOk w = true ∧ tshCode a = slotD w ∧ tshCols a ≤ 128 ∧ (slotD w = 0xF → evenPlane o.t2.toNat = true) ∧ srnd)
    (fun q => { q with seeds := (List.range 128).map e.rngOf }) w [] [.trndDraw (tshRows a) (tshCols a) (if slotD w = 0xF then 2 else 1)] ∧
  queued (.tzeroPlane h o) True id 0 [] [] ∧ queued (.tzeroTile h o) True id 0 [] [] ∧
  queued (.twin h o) (slotOk w = true ∧ (slotA w = 0 ∨ slotA w = 4 ∨ slotA w = 5 ∨ slotA w = 6) ∧
    (let d := winOf ((List.range 8).map fun k => Table.get 0 m.win k)
     d.ok = true ∧ tshCode b = slotB w ∧ tshCols b = d.kh * d.kw * d.ch ∧
     d.ibase + (d.ih - 1) * d.ipitch + d.iw * d.ch * (codeBits (slotA w) / 8) ≤ e.x.var.scratch)) id w [] [] ∧
  queued (.ttrn h o) (codeMx (tshCode b) = false ∧ tshCode a = tshCode b ∧ tshRows a = tshCols b ∧ tshCols a = tshRows b) id 0 [] [] ∧
  queued (.tmerge h o) (tshShape a = tshShape b ∧ codeMx (tshCode a) = false ∧ tshCode c = 0 ∧ tshRows c = tshRows a ∧ tshCols c = tshCols a)
    id 0 [] [] ∧
  queued (.tmovvTv h o) data (fun q => { q with q1 := [e.lead o.s1], target := e.phys o.s2.toNat }) 0 [] [] ∧
  queued (.tmovvVt h o) data (fun q => { q with q1 := [e.lead o.s1], seeds := (List.range 128).map fun l => e.src o.s2 l }) 0 [] [] ∧
  queued (.tmovvTvRx h o) (e.lead o.s1 = 0) (fun q => { q with q1 := [e.lead o.s1], target := e.phys o.s2.toNat }) 0 [] [] ∧
  queued (.tmovvVtRx h o) (e.lead o.s1 = 0) (fun q => { q with q1 := [e.lead o.s1], seeds := (List.range 128).map fun l => e.src o.s2 l }) 0 [] [] ∧
  queued (.ttwg h o) (descOk (e.lead o.s1) (e.lead o.s2) = true) (fun q => { q with q1 := [e.lead o.s1], q2 := [e.lead o.s2] }) 0
    [.ttwg (e.lead o.s1).toNat (e.lead o.s2)] [] ∧
  queued (.tbfly h o) (∃ d, m.committed = some d ∧ v < (radices d.2).length ∧ tshCode b = 0xF ∧ tshCols b = d.1 ∧ tshShape a = tshShape b)
    (fun q => { q with q1 := [e.lead o.s1] }) 0 [] [] ∧
  queued (.tbrev h o) (∃ d, m.committed = some d ∧ tshCols b = d.1 ∧ codeMx (tshCode b) = false ∧ 8 ≤ codeBits (tshCode b) ∧ tshShape a = tshShape b)
    id 0 [] []

/-- R140, R266, R268, R276, R281: a copy, base-die or send command enters the engine queue, counted in CP, with the leader's operands,
the outer indices where it reads them, its traffic class and the instant that its operand names. R283, R284: SWAIT passes and acquires
when its ring holds K complete slots, and is held until then; SREL needs K of them. -/
def Obligations.CopyAndRingCommandResults : Prop :=
  (∀ (h : Hdr) (o : FmtE) (i : Instr) (ol : Bool),
     ((i = .cpy h o ∨ i = .cpys h o ∨ i = .cpym h o ∨ i = .cpyt h o ∨ i = .bsnd h o) ∧ ol = true) ∨
       ((i = .gath h o ∨ i = .redc h o ∨ i = .cnvt h o) ∧ ol = false) →
     StagesX i h (fun _ => True) fun e =>
       let q2 := e.leadQuad o.s2
       let oo := if ol then e.outer o else (0, 0)
       [.engine { e.cmd i with q1 := e.leadQuad o.s1, q2 := q2, o0 := oo.1, o1 := oo.2, tc := e.tclassOf o,
                               inst := instantOf e.s.now (q2.getD 3 0) } (some .cp)]) ∧
  (∀ (h : Hdr) (o : FmtE) (r : Ring),
     StagesX (.swait h o) h (fun e => e.ringArgs o = some r ∧ ringK o ≤ (r.tail - r.head).toNat)
       (fun e => [.acquire 1, .engine (e.cmd (.swait h o)) none]) ∧
     (∀ s e, s.env = some e → e.holds h = true → e.queueFull = false → e.ringArgs o = some r → (r.tail - r.head).toNat < ringK o →
       exec (.swait h o) s = .next (s.stageSyl h.e e.iu 4 .hold)) ∧
     StagesX (.srel h o) h (fun e => e.ringArgs o = some r ∧ ringK o ≤ (r.tail - r.head).toNat) (fun e => [.engine (e.cmd (.srel h o)) none]))

/-- R106, R112, R265, R373 to R377, R427: SPAWN and SPAWND reserve a deque entry, ENQ a queue entry, and the packet goes with the command,
with what is wrong in the memory it was read from raised at the commit; DEQ takes the oldest packet that no earlier request is owed, and is
held where there is none; DEQ.nb says whether there was one, and the queue notes that it found none. Each loses its access, with
DIE_UNAVAILABLE, where the die of its deque or queue is out of service. That DEQ and DEQ.nb take no entry of the engine queue is the
model's reading (log entry 52). -/
def Obligations.TaskCommandResults : Prop := ∀ (h : Hdr) (o : FmtE) (bs : List Byte) (n : NamedQueue) (x : Xlat) (pa : Nat),
  let q (e : Env) : Nat := (e.lead o.s2).toNat
  let off (e : Env) : Nat := (e.lead o.s1).toNat
  let up (e : Env) (d : Nat) : Prop := (e.s.die d).inService = true
  let down (e : Env) (d : Nat) : Prop := (e.s.die d).inService = false
  let pushed (e : Env) : Prop := e.packet (off e) = .ok bs ∧ e.s.ownedQueue e.x.ctx (q e) = some n
  let asked (e : Env) : Prop := e.rawInSpan 1 64 (off e, 0) = false ∧ e.packetPlace (off e) = .ok pa ∧ e.s.ownedQueue e.x.ctx (q e) = some n
  let granted (e : Env) : Prop :=
    asked e ∧ up e (q e / 64) ∧ e.asksAhead (q e) false < n.packets.length ∧ e.bufferBusy pa = false
  StagesX (.spawn h o) h (fun e => e.packet (off e) = .ok bs ∧ up e (dieOf e.x.core) ∧ e.s.dequeFull e.x.core = false)
    (fun e => [.dequeResv e.x.core, .engine { e.cmd (.spawn h o) with packet := bs, target := e.x.core } none] ++ e.packetBad (off e)) ∧
  StagesX (.spawn h o) h (fun e => e.packet (off e) = .ok bs ∧ down e (dieOf e.x.core)) 
    (fun e => .dieLost (dieOf e.x.core) 0 :: e.packetBad (off e)) ∧
  (∀ s e, s.env = some e → e.holds h = true → e.queueFull = false → e.packet (off e) = .ok bs →
    let va := (e.lead64 o.s2).toNat
    let d := homeOf e.x.core x
    (e.bound.address e.x 0 va 0 1 1 .load).2 = .ok x →
    (up e (dieOf d) → e.s.dequeFull d = false → exec (.spawnd h o) s = .next (s.stageSyl h.e (e.iu.touching [va]) 4 (.eff ([.dequeResv d,
      .engine { e.cmd (.spawnd h o) with packet := bs, target := d } none] ++ e.packetBad (off e))))) ∧
    (down e (dieOf d) → exec (.spawnd h o) s = .next (s.stageSyl h.e (e.iu.touching [va]) 4 (.eff
      (.dieLost (dieOf d) (e.lead64 o.s2) :: e.packetBad (off e)))))) ∧
  StagesX (.enq h o) h (fun e => pushed e ∧ up e (q e / 64) ∧
      n.packets.length + n.resv + e.asksAhead (q e) true < n.cap)
    (fun e => [.queueResv (q e), .engine { e.cmd (.enq h o) with packet := bs, target := q e } none] ++ e.packetBad (off e)) ∧
  StagesX (.enq h o) h (fun e => pushed e ∧ down e (q e / 64)) (fun e => .dieLost (q e / 64) 0 :: e.packetBad (off e)) ∧
  StagesX (.deq h o) h granted (fun e => [.dequeue (q e) (off e)]) ∧
  StagesX (.deqNb h o) h granted (fun e => [.dequeue (q e) (off e), .setC o.t3.toNat true]) ∧
  (∀ s e, s.env = some e → e.holds h = true → e.queueFull = false → asked e → up e (q e / 64) →
    n.packets.length ≤ e.asksAhead (q e) false →
    exec (.deq h o) s = .next (s.stageSyl h.e e.iu 4 (.holdQueue (q e) false)) ∧
    exec (.deqNb h o) s = .next (s.stageSyl h.e e.iu 4 (.eff [.setC o.t3.toNat false, .missed (q e)]))) ∧
  StagesX (.deq h o) h (fun e => asked e ∧ down e (q e / 64)) (fun e => [.dieLost (q e / 64) 0]) ∧
  (∀ s e, s.env = some e → e.holds h = true → e.queueFull = false → asked e → down e (q e / 64) →
    ∃ v, exec (.deqNb h o) s = .next (s.stageSyl h.e e.iu 4 (.eff [.dieLost (q e / 64) 0, .setC o.t3.toNat v])))

/-- R353 to R367: barriers, cohort barriers and timelines at issue; a TLRD of a timeline whose die is out of service raises
DIE_UNAVAILABLE and reads a free value (R364, R390). That none of them takes an entry of the engine queue is the model's reading (log
entry 52). -/
def Obligations.SynchronisationResults : Prop := ∀ (h : Hdr) (o : FmtE) (c : Cohort),
  let n := o.t1.toNat
  let sc (natural : Nat) : Nat := if o.f.extractLsb' 0 3 = 0 then natural else (o.f.extractLsb' 0 3).toNat
  let arr := o.f.getLsbD 3
  let may (e : Env) : Prop := e.iu.lanes = e.y.living ∧ (e.x.barrier n).part.getLsbD e.iu.wave = true ∧ (e.x.barrier n).arrv.getLsbD e.iu.wave = false
  let k := (o.f.extractLsb' 6 8).toNat
  StagesX (.barv h o) h (fun e => may e ∧ (e.x.barrier n).expb.toNat + (e.lead o.s1).toNat < 2 ^ 32) (fun e => [.barv n (e.lead o.s1) (sc 1)]) ∧
  StagesX (.barw h o) h (fun e => arr = true ∧ may e) (fun e => [.wait (.barw n (sc 1) (e.lead o.s1)) (o.f.getLsbD 4), .barArrive n (sc 1)]) ∧
  StagesX (.barw h o) h (fun _ => arr = false) (fun e => [.wait (.barw n (sc 1) (e.lead o.s1)) (o.f.getLsbD 4)]) ∧
  StagesX (.bart h o) h (fun _ => True) (fun e =>
    if ((e.x.barrier n).phase - e.lead o.s1).getLsbD 31 then [.setC o.t3.toNat false] else [.setC o.t3.toNat true, .acquire (sc 1)]) ∧
  StagesX (.barx h o) h (fun e => 0 < (e.lead o.s1).toNat ∧ (e.lead o.s1).toNat < 2 ^ e.x.var.waves ∧ (e.x.barrier n).arrv = 0 ∧
      (e.x.barrier n).cred = 0 ∧ (e.x.barrier n).expb = (e.x.barrier n).ebase)
    (fun e => [.barx n (BitVec.ofNat 16 (e.lead o.s1).toNat) (e.lead o.s2)]) ∧
  StagesX (.cbar h o) h (fun e => e.cohort? k = some c ∧ arr = false) (fun e => [.wait (.cbar k (sc 4) (e.lead o.s1)) (o.f.getLsbD 4)]) ∧
  StagesX (.cbar h o) h (fun e => e.cohort? k = some c ∧ arr = true ∧ e.iu.lanes = e.y.living ∧ (e.x.blin, e.iu.wave) ∉ c.warr)
    (fun e => [.wait (.cbar k (sc 4) (e.lead o.s1)) (o.f.getLsbD 4), .cbarArrive k (sc 4)]) ∧
  StagesX (.tlwait h o) h (fun e => e.readable (e.lead o.s1) = true)
    (fun e => [.wait (.tlwait (sc 4) (e.lead o.s1) (e.lead64 o.s2)) false]) ∧
  StagesX (.tlsig h o) h (fun e => ((e.lead o.s1).toNat / 2 ^ 28 = 2 ∨ (e.lead o.s1).toNat / 2 ^ 28 = 4) ∧ handleBitsOk (e.lead o.s1) = true)
    (fun e => [.signal (if (e.lead o.s1).toNat / 2 ^ 28 = 4 then 5 else sc 4) (e.lead o.s1) (o.f.getLsbD 5) (e.lead64 o.s2)]) ∧
  StagesX (.tlrd h o) h (fun e => e.readable (e.lead o.s1) = true ∧ e.s.timelineLost (e.lead o.s1) = false)
    (fun e => setS64 o.s2 (BitVec.ofNat 64 (e.s.handleValue e.x (e.lead o.s1)))) ∧
  ∀ s e, s.env = some e → e.holds h = true → e.queueFull = false → e.readable (e.lead o.s1) = true → e.s.timelineLost (e.lead o.s1) = true →
    ∃ v, exec (.tlrd h o) s = .next (s.stageSyl h.e e.iu 4 (.eff (setS64 o.s2 v ++ [.dieLost 1 0])))

/-- R285, R287 to R289: on a render core RAST, RAYQ and RTILE enter the engine queue; on a network tile each raises
RENDER_INPUT_INVALID. -/
def Obligations.RenderCommandResults : Prop := ∀ (h : Hdr) (o : FmtE),
  StagesX (.rast h o) h (fun e => isTile e.x.core = false)
    (fun e => [.engine { e.cmd (.rast h o) with q1 := [loWord (e.lead64 o.s1), hiWord (e.lead64 o.s1)] } none]) ∧
  StagesX (.rayq h o) h (fun e => isTile e.x.core = false)
    (fun e => [.engine { e.cmd (.rayq h o) with q1 := [loWord (e.lead64 o.s1), hiWord (e.lead64 o.s1)], q2 := [e.lead o.s2] } none]) ∧
  StagesX (.rtile h o) h (fun e => isTile e.x.core = false) (fun e => [.engine { e.cmd (.rtile h o) with q1 := [e.lead o.s1] } none]) ∧
  ∀ s e, s.env = some e → e.holds h = true → e.queueFull = false → isTile e.x.core = true →
    exec (.rast h o) s = .next (s.stageSyl h.e e.iu 4 (failWith 0 0x1F (e.lead64 o.s1) 0 none 0)) ∧
    exec (.rayq h o) s = .next (s.stageSyl h.e e.iu 4 (failWith 0 0x1F (e.lead64 o.s1) 0 none 0)) ∧
    exec (.rtile h o) s = .next (s.stageSyl h.e e.iu 4 (failWith 0 0x1F 0 0 none 0))

/-! ## The memory system -/

/-- R163, R253, R329, R332: data that returns is written to its registers and leaves LD; lanes whose data were bad get free values (log
entry 6). The head of a store queue is written at once where it is for the core's own scratchpad, or goes out on the fabric, once a store
of the primary beside which it issued has left (R161); a store on the fabric is written at its executing point, or, where that die is out
of service, is noted as failed with the cause 0x23 (R388). R265, R381: a syllable whose lanes have all ended raises the failure of its
lowest lane. R260 to R262: an atomic at its executing point leaves op(old, operands) at its location and answers the old value and what is
wrong with it; an AtomicOp of the host aperture does so on Successful Completion, and any other status, or none in time, is noted with the
cause 0x21; the status detail where none comes is free (the model's choice, log entry 12). -/
def Obligations.AccessesArePerformed : Prop :=
  (∀ (s : State) (b w k : Nat) (x : Block) (y : Wave),
     s.block? b = some x → s.wave? b w = some y →
     (∀ o, y.outs[k]? = some o →
       exec (.loadReturn b w k) s = .next (((s.setWave b w ({ (returnWrites s.steps o).foldl Wave.wrReg y with
         outs := dropAt y.outs k }.perform o.sid)).noteBad b w o.sid o.bad).settle b) ∧
       (o.bad = [] → returnWrites s.steps o = o.writes)) ∧
     (∀ q r sp h pa bs, y.storeq = q :: r → q.kind = .bytes sp h pa bs → (q.rel = true → s.released x.core y q.sid q.scope = true) →
       s.primaryAhead q = false →
       let out := s.setWave b w { y with storeq := r }
       (s.writesHere x.core pa = true → exec (.storePerform (.leave b w)) s =
         .next (((out.write q.ctx pa bs).modWave b w fun z => z.perform q.sid).settleCore x.core)) ∧
       (s.writesHere x.core pa = false →
         let t := (out.updateLine x.core q.ctx pa bs q.clears).sendFabric b w x q pa
         exec (.storePerform (.leave b w)) s = .next ((if q.scope ≤ 1 then t.modWave b w fun z => z.perform q.sid else t).settleCore x.core))) ∧
     (∀ core f sp h pa bs, s.laneHead core k = some f → f.e.kind = .bytes sp h pa bs → region pa ≠ .none →
       let ends (t : State) : Host.Outcome State Fault Refusal :=
         .next ((if 2 ≤ f.e.scope then t.modWave f.block f.wave fun z => z.perform f.e.sid else t).settleCore core)
       (s.dieGone pa = none →
         exec (.storePerform (.arrive core k)) s = ends (((s.dropFabric core k).write f.ctx pa bs).clearPoison f.e.clears)) ∧
       (∀ d, s.dieGone pa = some d → exec (.storePerform (.arrive core k)) s =
         ends ((s.dropFabric core k).noteBad f.block f.wave f.e.sid [⟨0x23, pa, f.e.va, some f.e.place, 0, d⟩]))) ∧
     (∀ sid (l : List BadData) d, y.late = l.map (fun c => (sid, c)) → s.sidOpen x.core b w y sid = false → d ∈ l →
       (∀ c ∈ l, c ≠ d → d.lane.getD 0 < c.lane.getD 0) → s.settleBad b w = (s.setWave b w { y with late := [] }).badFault b w d)) ∧
  (∀ (s : State) (core k : Nat) (f : FabricEntry) (sp h pa n : Nat) (op : AOp)
       (a b : BitVec 128) (lane : Nat) (dst : Option Nat),
     s.laneHead core k = some f → f.e.kind = .atomic sp h pa n op a b lane dst →
     (∀ i < n, s.tstOpen core f.block (pa + i) (some (f.wave, f.e.sid)) = false) →
     let t := (s.dropFabric core k).dropLines core [pa]
     let done := .next ((((t.errorsFound pa n).writeNum f.ctx pa n (atomicNew op n (s.num pa n) a.toNat b.toNat)).answerAtomic f n lane
       (s.num pa n) dst (t.badData pa n f.e.va (some lane)).toList).settleCore core)
     ((region pa = .hbm ∨ region pa = .scratch) → t.dieGone pa = none → exec (.atomicPerform core k) s = done) ∧
     (region pa = .host →
       exec (.hostAtomicopCompletion core k 0) s = done ∧
       (∀ status : BitVec 16, status ≠ 0 → exec (.hostAtomicopCompletion core k status) s =
         .next (s.hostAtomicFails core k f pa n lane dst status.toNat)) ∧
       exec (.hostCompletionTimeout core k) s =
         .next (s.hostAtomicFails core k f pa n lane dst ((Config.freeWord s.steps 4).toNat % 2 ^ 16))))

/-- R69, R71, R346, R347: a read, a write or an AtomicOp of the host acts on the bytes behind the BAR2 window, and its answer is kept; an
offset behind which the window has nothing is answered with no data. A request of a peer module acts on the bytes to which its address
translates here, and one that does not translate leaves them. R334, R386, R387: a line leaves a data cache; an evicted line that cannot be
corrected is poisoned and charged to the context of its tag; the scrubber poisons a granule without a record. An error in a register of a
running block damages it and stops its wave with the cause 0x28; one in a scratchpad is left to the loads that have read it or will; one in
a tile or plane, or in a block that is stopping, stands until the next command or the save that reads it. Model choices: writes of the host
carry no tag (log entry 29), ranges that follow each other in the window (log entry 61), translation here for a peer (log entry 59), and
what an error damages and who finds it (log entry 62). -/
def Obligations.OutsideRequestsAndMemoryErrors : Prop :=
  (∀ (s : State) (a : Nat),
     let gone (op : MemOp) : Prop := windowAt s.host.bar2 a (opSize op) = none →
       exec (.hostBar2Access ⟨a, op⟩) s = .next { s with host := { s.host with readData := none } }
     let answers (op : MemOp) (t : Nat → State) (bs : Nat → List Byte) : Prop := ∀ pa, windowAt s.host.bar2 a (opSize op) = some pa →
       exec (.hostBar2Access ⟨a, op⟩) s = .next { t pa with host := { (t pa).host with readData := some (bs pa) } }
     let rmw (op : MemOp) (n : Nat) (new : Nat → Nat) : Prop := answers op (fun pa => s.writeNum 0 pa n (new pa)) fun pa => leBytes n (s.num pa n)
     (∀ op, gone op) ∧ (∀ n, answers (.read n) (fun _ => s) fun pa => s.bytes pa n) ∧
     (∀ bs, answers (.write bs) (fun pa => s.write 0 pa bs) fun _ => []) ∧
     (∀ n v, rmw (.fetchAdd n v) n fun pa => atomicNew .add n (s.num pa n) v.toNat 0) ∧
     (∀ n v, rmw (.swap n v) n fun pa => atomicNew .xchg n (s.num pa n) v.toNat 0 % 2 ^ (8 * n)) ∧
     (∀ n c v, rmw (.cas n c v) n fun pa => atomicNew .cas n (s.num pa n) c.toNat v.toNat)) ∧
  (∀ (s t : State) (a : PeerRequest),
     let reach := s.placeAll ⟨256, a.ctx, none⟩ 0 0 (opKind a.op) (piecesOf [((a.va.toNat : Int), opSize a.op)])
     (∀ f, reach = (t, .error f) → exec (.peerLinkRequest a) s = .next t) ∧
     ∀ ps, reach = (t, .ok ps) →
       let pa := (ps.map Prod.fst).headD 0
       (∀ n, a.op = .read n → exec (.peerLinkRequest a) s = .next t) ∧
       (∀ bs, a.op = .write bs → exec (.peerLinkRequest a) s = .next (t.writePlaces a.ctx ps bs)) ∧
       (∀ n v, a.op = .fetchAdd n v →
         exec (.peerLinkRequest a) s = .next (t.writeNum a.ctx pa n (atomicNew .add n (t.num pa n) v.toNat 0))) ∧
       (∀ n v, a.op = .swap n v →
         exec (.peerLinkRequest a) s = .next (t.writeNum a.ctx pa n (atomicNew .xchg n (t.num pa n) v.toNat 0 % 2 ^ (8 * n)))) ∧
       (∀ n c v, a.op = .cas n c v →
         exec (.peerLinkRequest a) s = .next (t.writeNum a.ctx pa n (atomicNew .cas n (t.num pa n) c.toNat v.toNat)))) ∧
  (∀ (s : State) (core line granule : Nat) (e : SramError),
     exec (.staleLineExpire core line) s = .next (s.modCore core fun c => { c with dcache := c.dcache.filter fun d => d.pa / 128 ≠ line }) ∧
     exec (.evictUncorrectable line) s = .next ((s.poisonLine line).charge 0x2B 4 (Table.get 0 s.tags line) (homeCore (128 * line))
       (BitVec.ofNat 64 (128 * line)) 0 0 0) ∧
     exec (.scrubError granule) s =
       .next { s with poison := Table.set false s.poison granule true, memErr := Table.set false s.memErr granule false } ∧
     (∀ x, s.block? e.b = some x →
       (e.structureCode.toNat < 2 → x.stop = none → exec (.sramUncorrectable e) s =
         .next ((s.damage e).asyncFault e.b e.w 0x28 0 0 (mkDet e.structureCode.toNat none e.index.toNat) 0)) ∧
       (e.structureCode.toNat = 2 → e.index.toNat < scratchSize x.core → exec (.sramUncorrectable e) s =
         .next (s.scratchError (windowPa x.core e.index.toNat / 64 * 64))) ∧
       (2 < e.structureCode.toNat ∨ (e.structureCode.toNat < 2 ∧ x.stop.isSome = true) → exec (.sramUncorrectable e) s =
         .next { s with sramErr := s.sramErr ++ [e] })))

/-- R237 to R241, R243: with no other request standing, a table update of an existing context whose expected value is in the master entry
and that passes its checks writes the entry or its group and keeps the lists of locked and pinned frames; one that removes or weakens a
translation shoots its range down, stands until the accesses before it are performed, and is acknowledged then; a refused one changes
nothing. A refill adds frames of the die that its pool does not hold, zeroed, to a pool of at most 64. That a refill drops the frames it may
not take, and that what an old leaf locked and pinned is free at the acknowledgement, are the model's choices (log entry 72), and so is the
tag of the entry's line (log entry 29). -/
def Obligations.TableEvents : Prop := ∀ (s : State) (r : TableReq),
  (s.updates = [] → ∀ a, s.ctxExists r.ctx = true → s.entryAddr r.va.toNat r.level 5 0 (rootOf (s.ctx r.ctx).ptbase) = some a →
    (pteG r.expect = true → r.group = true) →
    let es := groupEntries a r.group
    (s.updateOk r = true → (∀ m ∈ es, s.num m 8 = r.expect.toNat) →
      let t := (es.foldl (fun t m => t.writeEntry m r.new) s).pinNew r
      let c := coverOf r r.expect
      (needsShootdown r.expect r.new = false → exec (.tableUpdate r) s = .next { t.unpinOld r with updates := [] }) ∧
      (needsShootdown r.expect r.new = true →
        exec (.tableUpdate r) s = .next { t.shootdown r.ctx c.1 c.2 with updates := [⟨r, true, s.inFlight⟩] })) ∧
    ((s.updateOk r = false ∨ ∃ m ∈ es, s.num m 8 ≠ r.expect.toNat) → exec (.tableUpdate r) s = .next s)) ∧
  (∀ l, s.updates = [⟨r, true, l⟩] → (∀ a ∈ l, a ∉ s.inFlight) → s.runUpdates = { ({ s with updates := [] } : State).unpinOld r with updates := [] }) ∧
  (∀ die size frames, die < 3 → size < 6 →
    let bytes := leafSize (4 - size / 2) (size % 2 = 1)
    let held := Table.get [] (s.die die).pools size
    let new := (frames.filter fun f => s.frameOk die f bytes && !held.contains f).take (64 - held.length)
    exec (.poolRefill die size frames) s =
      .next ((new.foldl (fun t f => (t.zero f (f + bytes)).dropFrame f (f + bytes)) s).modDie die fun d =>
        { d with pools := d.pools.put size (held ++ new), refill := d.refill.put size false }))

/-! ## The engines -/

/-- R267, R271, R275, R276: a copy or base-die command leaves the engine queue for an entry of the copy table and its value checks; a
timed copy waits for its release-buffer space and for its instant; an entry whose fragments have all moved completes; a base-die command
runs its units in order. R280 to R284: the runtime places a ring; a send takes the next slot number where a slot is free, whose bytes
are unspecified until it completes; its bytes reach its slot, RTAIL passes the slots written in order, and the send completes; SREL raises RHEAD by K and SWAIT passes. -/
def Obligations.CopyAndRingEvents : Prop :=
  (∀ (s : State) (core k : Nat),
     (∀ c, s.engineHead core = some c → c.copy?.isSome = true → (s.core core).copies.length < 128 → s.mayStart c = true →
       s.cmdReleased core c = true → s.replyRoom c = true →
       exec (.copyDequeue core) s = .next ((((s.popEngine core).modCore core fun x =>
         { x with copies := x.copies ++ [CopyEntry.new c none .running] }).reserve c 1).checkCopy core (s.core core).copies.length c)) ∧
     (let s' := s.openEntry core k
      ∀ e p q kd o, (s'.core core).copies[k]? = some e → e.plan = some p → s'.runner e.cmd = some q → e.cmd.copy? = some (kd, o) →
        s'.mayBegin core k e q kd = true →
        (kd.baseDie = false →
          (e.phase = .running → ∀ t u mask f r, s'.takeMask core k e q p = (t, .ok mask) → (p.frags kd e.cmd mask)[e.frag]? = some f →
            (∀ v ws, p.buffered kd = false → p.remote = none → t.readFrag q p e.cmd e.dest mask f = (u, .ok r) →
              let u' := u.modCopy core k fun g => { g with read := g.read ++ rangesOfPlaces r.2 }
              let d := p.dstElem o e.cmd mask
              u'.placeRuns p.dst (f.runs p.dst.esz d) (u'.writers q kd p) = (v, .ok ws) →
              exec (.copyFragment core k) s = .next (v.putFrag core k e.shared ws (((List.range f.n).zip (chunks p.dst.esz f.n r.1)).flatMap
                fun b => if (d (f.i + b.1) f.j).isSome then b.2 else []))) ∧
            (p.buffered kd = true → kd ≠ .cpyt → t.readFrag q p e.cmd e.dest [] f = (u, .ok r) →
              exec (.copyFragment core k) s = .next (u.modCopy core k fun g =>
                { g with frag := e.frag + 1, buf := g.buf ++ r.1, read := g.read ++ rangesOfPlaces r.2 }))) ∧
          (let n := p.src.boxElems * p.src.esz
           e.phase = .gated → e.reserved = 0 → (s'.die q.die).release + n ≤ 2 ^ 23 →
            exec (.copyFragment core k) s = .next ((s'.modDie q.die fun d => { d with release := d.release + n }).modCopy core k fun e =>
              { e with reserved := n, phase := .running }))) ∧
        (∀ t n ws, kd.baseDie = true → e.phase = .running → s'.replyTurn core e.cmd = true →
          (s'.die (s'.baseDieOf q e.cmd kd)).inService = true →
          (s'.ownRead e.dest fun s => s.baseRun (s.baseRunner q e.cmd kd) e.cmd kd e.shared (e.cmd.units kd - e.frag) e.frag) = (t, n, ws, none) →
          let t' := (t.forgetAll ws).modCopy core k fun f => { f with frag := n, wrote := f.wrote ++ ws }
          ∀ f, (t'.core core).copies[k]? = some f → exec (.basedieExecute core k) s = .next (t'.finishCopy core k f false))) ∧
     (∀ e, (s.core core).copies[k]? = some e →
       (e.phase = .gated → e.reserved ≠ 0 → e.cmd.inst.toNat ≤ s.now → s.heldAtChange e = false →
         exec (.cpytRelease core k) s = .next (s.modCopy core k fun e => { e with phase := .running })) ∧
       (∀ p mask kd o, e.plan = some p → e.mask = some mask → e.cmd.copy? = some (kd, o) → e.phase = .running → kd.baseDie = false →
         kd ≠ .bsnd → e.frag = p.fragCount kd e.cmd mask e.buf → exec (.copyComplete core k) s = .next (s.finishCopy core k e false)))) ∧
  (∀ (s : State) (core k : Nat),
     (∀ p : RingPlacement, exec (.streamRingPlace p) s = .next (s.modCore p.core fun c => c.setRing p.ring.toNat
       { Ring.reset with ctx := p.ctx, base := p.base.toNat, valid := true, slotsz := p.slotsz.toNat, slots := p.slots.toNat })) ∧
     (∀ e, (s.core core).copies[k]? = some e →
       let t := e.cmd.ringOf
       let r := (s.core t.1).ring t.2
       (e.phase = .ringWait → (r.accepted - r.head).toNat < r.slots → s.sendBefore core k e = false → s.heldAtChange e = false →
         let pa := windowPa t.1 (r.base * 4096 + r.accepted.toNat % r.slots * (r.slotsz * 256))
         exec (.ringAccept core k) s =
           .next (((s.modCore t.1 fun c => c.setRing t.2 { r with accepted := r.accepted + 1 }).forget pa (pa + e.buf.length)).modCopy core k
             fun e => { e with phase := .accepted r.accepted.toNat, slot := some r.accepted.toNat })) ∧
       (∀ j, e.phase = .accepted j →
         exec (.ringSlotWritten core k) s = .next (((s.write r.ctx (windowPa t.1 (r.base * 4096 + j % r.slots * (r.slotsz * 256))) e.buf).modCore
           t.1 fun c => c.setRing t.2 (Ring.advance 65 { r with done := toWord j :: r.done })).finishCopy core k e false))) ∧
     (∀ c h o, s.engineHead core = some c →
       (c.instr = .swait h o → exec (.srelDequeue core) s = .next (s.popEngine core)) ∧
       (c.instr = .srel h o → s.loadsDone c = true → s.matrixReads core c = false →
         exec (.srelDequeue core) s = .next ((s.popEngine core).modCore core fun q =>
           q.setRing o.t1.toNat { q.ring o.t1.toNat with head := (q.ring o.t1.toNat).head + toWord (ringK o) }))))

/-- R300, R302, R304, R305, R310: the matrix engine takes the command at the head of the queue and runs it, or lets its next K-blocks
in, each in its cycle; a command whose work is done completes, leaves TL, and stops its block for what it found; a latch write is made
when its instant has come and no K-block of an earlier cycle has still to enter. A tile or plane of a command that holds an error is found
as the command goes on (R302). Model choices: the cycle in which a command starts and how many K-blocks a step lets in (log entry 48), and
of two planes that saturate under TRAP the one that is named (log entry 64). -/
def Obligations.MatrixEngineEvents : Prop := ∀ (s : State) (core b w n : Nat) (x : Block) (m : Matrix),
  s.block? b = some x → x.mtx = some m →
  (∀ c, (s.core core).mat = none → s.nextMatrix core = some c → c.owner = .block b w →
    let j := s.newJob core c
    let t := (s.popEngine core).modCore core fun q => { q with mat := some j }
    j.cmd = c ∧ j.start = max (s.cycOf core) (c.cyc + 1) ∧ j.entered = 0 ∧ j.total = c.kBlocks ∧
    exec (.matrixExecute core n) s = .next (t.advanceJob core b w x m j n)) ∧
  (∀ j, (s.core core).mat = some j → j.cmd.owner = .block b w →
    (j.entered < j.total → exec (.matrixExecute core n) s = .next (s.advanceJob core b w x m j n)) ∧
    (s.jobDone core j = true →
      let t := ((s.modCore core fun q => { q with mat := none }).spoilRows b j.cmd).modWave b w fun y => y.perform j.cmd.sid
      exec (.matrixComplete core) s = .next ((match j.found with
        | some f => t.matrixFault b w f
        | none => t).settle b))) ∧
  (∀ p ps, m.pend = p :: ps → p.due ≤ s.cycOf x.core → s.entersBefore b x.core p.due = false →
    let l := p.bytes.zipIdx.foldl (fun t q => Table.set 0x7F t (128 * p.latch + q.2) q.1) m.latch
    exec (.tsclLatchWrite b) s =
      .next (((s.setMtx b { m with pend := ps, latch := l }).modWave b p.wave fun y => y.perform p.sid).settle b))

/-- R285 to R289: RASTER_BATCH pushes the fragments of the raster slice that wait, or takes the next batch, whose records are read, checked
and binned and whose fragments are counted as tasks of the launch and pushed; a batch that is not in order raises RENDER_INPUT_INVALID; an RTILE leaves the queue with its reply
entry reserved and, when its tile's fragment tasks have ended, answers MASK, COL and ROW, and FRAGS, and closes the tile; a RAYQ leaves
with its rays and is answered in every lane. -/
def Obligations.RenderEvents : Prop := ∀ (s : State) (core k : Nat) (c : EngCmd) (h : Hdr) (o : FmtE),
  ((s.core core).raster.pend ≠ [] →
    exec (.rasterBatch core) s = .next (s.pushFrags core (s.core core).raster.pend.length)) ∧
  (∀ q, (s.core core).raster.pend = [] → s.engineHead core = some c → c.instr = .rast h o → s.runner c = some q → s.mayStart c = true →
    let t := s.popEngine core
    let a := (pair (c.w1 0) (c.w1 1)).toNat
    (a % 64 ≠ 0 → exec (.rasterBatch core) s = .next (t.renderFault c a)) ∧
    ∀ u hd, a % 64 = 0 → t.renderRead q a 64 = (u, .ok hd) →
      (batchOf hd = none → exec (.rasterBatch core) s = .next (u.renderFault c a)) ∧
      ∀ b v bs ps, batchOf hd = some b → u.renderRead q b.prims (48 * b.nprim) = (v, .ok bs) → primsOf b.nprim bs = some ps →
        let r := (v.core core).raster.bin b ps core c.launch
        (256 < r.tiles.length → exec (.rasterBatch core) s = .next (v.renderFault c a)) ∧
        (r.tiles.length ≤ 256 → exec (.rasterBatch core) s = .next (((v.modLaunch c.launch fun l =>
          { l with tasksOpen := l.tasksOpen + r.pend.length }).modCore core fun x => { x with raster := r }).pushFrags core r.pend.length))) ∧
  (s.engineHead core = some c → s.mayStart c = true → s.replyRoom c = true →
    (c.instr = .rtile h o → exec (.rtileComplete core .leave) s = .next (s.leaveRender core c)) ∧
    (∀ a b x, c.instr = .rayq h o → s.runner c = some ⟨a, b, some x⟩ → exec (.rayqComplete core .leave) s = .next (s.leaveRayq core c x))) ∧
  ((s.core core).rays[k]? = some c → s.replyTurn core c = true →
    (c.instr = .rtile h o →
      let r := (s.core core).raster
      let n := c.tileName
      r.pend = [] → (∀ t, r.tile? n.1 n.2 = some t → t.live = 0) →
      exec (.rtileComplete core (.finish k)) s = .next (((s.modCore core fun x => { x with raster :=
        { r with tiles := r.tiles.filter fun u => !(decide (u.col = n.1 ∧ u.row = n.2)) } }).dropRay core k).answer c
          fun _ => tileAnswer c (r.tile? n.1 n.2))) ∧
    (∀ q t rs, c.instr = .rayq h o → s.runner c = some q →
      s.rayLanes q (pair (c.w1 0) (c.w1 1)).toNat c.packet (lanesOf c.lanes) = (t, .ok rs) →
      exec (.rayqComplete core (.finish k)) s =
        .next ((t.dropRay core k).answer c fun l => ((rs.find? fun r => r.1 = l).map Prod.snd).getD 0)))

/-- R106 to R111, R374, R375, R377: packets are pushed at the head of a deque and written at the tail of a named queue, not in a cycle in
which a DEQ.nb has found it empty; a head run becomes a
task wave where the dispatcher and a waiting restore are not served first (R108, R372, R401); an idle core takes a tail run of its cluster and tries again 200 cycles after it found none. -/
def Obligations.TaskEvents : Prop := ∀ (s : State) (core : Nat),
  (∀ c h o, s.engineHead core = some c →
    ((c.instr = .spawn h o ∨ c.instr = .spawnd h o) → s.cmdReleased core c = true →
      exec (.taskPush core) s = .next (((s.popEngine core).modCore c.target fun q =>
        { q with deque := ⟨c.packet, c.launch, none⟩ :: q.deque, dequeResv := q.dequeResv - 1 }).breakIdle (dieOf c.target))) ∧
    (∀ n, c.instr = .enq h o → s.queue? c.target = some n →
      (s.queueMissed n = false → exec (.enqArrive core) s =
        .next ((s.popEngine core).setQueue c.target { n with packets := n.packets ++ [c.packet], resv := n.resv - 1 })) ∧
      (s.queueMissed n = true → exec (.enqArrive core) s = .next s))) ∧
  (∀ p : QueueAssignment, exec (.namedQueueAssign p) s = .next (s.setQueue p.queue { ctx := p.ctx, cap := 2 ^ p.k, packets := [], resv := 0, missed := [] })) ∧
  (∀ p ps l t vs, headRun 128 (s.core core).deque = p :: ps → s.launch? p.launch = some l → s.placing = true →
    s.power.isShed l.pclass = false → (s.die (dieOf core)).hasPower = true → (s.die (dieOf core)).inService = true →
    s.taskKernel core l.ctx (tentryOf p.bytes) = (t, .ok vs) →
    (∀ h, t.firstFit t.holders (t.bounds p.launch l.prio false core) vs core = some h → t.dispatcherFirst core p.launch = false →
      t.restoreFirst core l.prio = false → exec (.taskGather core) s = .next (t.startTask h l p.launch (p :: ps))) ∧
    (t.firstFit t.holders (t.bounds p.launch l.prio false core) vs core = none ∨ t.dispatcherFirst core p.launch = true →
      exec (.taskGather core) s = .next t)) ∧
  (∀ victim, s.mayThieve core = true → coreExists victim = true → victim ≠ core → clusOf victim = clusOf core → (s.core core).stealAt = 0 →
    exec (.taskSteal core victim) s = .next (s.takeTail core victim)) ∧
  (s.mayThieve core = true → (s.core core).stealAt ≠ 0 → (s.core core).stealAt ≤ s.cycOf core → s.victim core ≠ core →
    exec (.stealRetry core) s = .next (s.takeTail core (s.victim core)))

/-! ## Waves and blocks -/

/-- R107, R375, R386: a push held for 1 ms by a deque or a queue that is still full fails with the cause 0x1A and the detail 1 or 4; a wave that
has waited, or has been held, beyond the limit of its context stops with the cause 0x20. R351, R362, R371, R93, R417: a wave whose
condition holds acquires and becomes ready; one that waits for a timeline of a die out of service stops with the cause 0x23 (R364, R390); a
GRIDWAIT on a launch that ended without completing stops with the cause 0x26; a block
whose waves have retired exits; its core lets it go when its engine work and every copy of its scratchpad is done; a peer's signal moves
a timeline. R116, R122: a bundle that cannot be fetched stops its wave with the cause 0x08 and the address, and one with an illegal
opcode with the cause 0x01; nothing of it issues, and its address is where the wave stops. Model choices: the DVAL of a full deque (log
entry 12) and what exactly an exit and a release wait for (log entry 16). -/
def Obligations.WaitExitAndDecodeEvents : Prop :=
  (∀ (s : State) (b w : Nat),
     (∀ e h o p, s.heldFull b w = true →
       ((s.heldPush b w = some (e, .spawn h o, p) ∧ (e.spawn (.spawn h o) p).2 = .holdFull) ∨
         (s.heldPush b w = some (e, .spawnd h o, p) ∧ (e.spawnd (.spawnd h o) p).2 = .holdFull) →
         exec (.dequeFullTimeout b w) s = .next (s.raiseIssue e.iu ⟨0, 4, 0x1A, 0, 1, none, 0⟩ 0x10)) ∧
       (s.heldPush b w = some (e, .enq h o, p) → (e.enq (.enq h o) p).2 = .holdQueue (e.lead p.s2).toNat true →
         exec (.queueFullTimeout b w) s = .next (s.raiseIssue e.iu ⟨0, 4, 0x1A, 0, 4, none, e.lead p.s2⟩ 0x10))) ∧
     (∀ x y t, s.block? b = some x → s.wave? b w = some y → y.since = some t → x.stop = none →
       t + (s.ctx (x.ctxOf y)).wdogMs * 1000000 < s.now →
       exec (.watchdog b w) s = .next (s.asyncFault b w 0x20 0 0 (mkDet ((y.wait.map Wait.kind).getD 0) none 0) 0))) ∧
  (∀ (s : State) (b w : Nat) (x : Block),
     s.block? b = some x →
     (∀ y z, s.wave? b w = some y → y.wait = some z → x.stop = none → s.fw.training = none →
       (s.waitLost z = true → exec (.waitSatisfied b w) s = .next (s.asyncFault b w 0x23 0 0 (s.dieDet 1) 0)) ∧
       (s.waitLost z = false → s.waitHolds (x.seenBy y) z = true →
         exec (.waitSatisfied b w) s = .next ((s.setWave b w y.endWait).acquire x.core z.scope)) ∧
       (∀ n, z = .gridwait → s.gridState x.launch = .broken n →
         exec (.waitSatisfied b w) s = .next ((s.setWave b w y.endWait).asyncFault b w 0x26 0 0 (mkDet 0 none n) 0))) ∧
     (s.mayExit b x = true → exec (.blockExit b) s = .next ((s.setBlock b { x with exited := true, switch := none }).enterExit x)) ∧
     (x.exited = true → x.stop = none → s.engineOpen b x = false → s.rangeBusy b x = false → exec (.blockRelease b) s = .next (s.dropBlock b)) ∧
     (∀ p : PeerSignal, exec (.peerTimelineSignal p) s = .next (s.signal p.ctx p.n.toNat p.inc p.value))) ∧
  (∀ (s : State) (iu : Issue), s.cur = some iu →
     (∀ addr sub, exec (.fetchFault addr sub) s = .next (s.decodeStop iu.block iu.wave 0x08 0 addr sub.toNat 0)) ∧
     (∀ mask detail, exec (.illegalOpcode mask detail) s = .next (s.decodeStop iu.block iu.wave 0x01 mask 0 0 detail.toNat)))

/-! ## The host, graphs and launches -/

/-- R72 to R75, R78, R79, R90, R422: a kick that is not refused enters the FIFO with its handle's next replay number, and a refused one
posts an event of kind 2; GRCMD registers the graph at GRADDR under the lowest free handle, unregisters one that no replay uses, and
refuses other codes with REASON 9; a write of a BAR0 register acts on that register, a full mailbox message is taken or answered busy,
and a bad access is answered with Completer Abort and changes nothing else. Model choices: the lowest free handle (log entry 37), the
completion of a registration in one step (log entry 13) and the bits of GRCMD that a registration ignores (log entry 75). -/
def Obligations.HostRegisterEvents : Prop := ∀ (s : State), s.working = true →
  (∀ (v : BitVec 64) (g : Graph), let h := v.toNat / 2 ^ 52
    (s.kickReason v = 0 → s.graph? h = some g → exec (.kick v) s =
      .next { s with graphs := s.graphs.put h { g with replays := g.replays + 1 },
                     host := { s.host with kicks := s.host.kicks ++ [⟨h, v.toNat % 2 ^ 52 / 64 * 64, toWord (g.replays + 1)⟩] } }) ∧
    (s.kickReason v ≠ 0 → exec (.kick v) s = .next (s.postEvent 2 0 h 0 (leBytes 1 (s.kickReason v))))) ∧
  (∀ v : BitVec 32, s.host.grstat.toNat / 2 ^ 30 ≠ 1 →
    (∀ t h nb eb k, grCode v = 1 → s.ctxExists s.host.grctx.toNat = true →
      s.readGraph (dispatcher s.host.grctx.toNat) s.host.graddr.toNat = (t, .ok (h, nb, eb)) → (graphReason h nb eb).1 = 0 →
      t.freeHandle = some k → exec (.grcmdRegister v) s =
        .next { t with graphs := t.graphs.put k { handle := k, ctx := s.host.grctx.toNat, nodes := (graphReason h nb eb).2.1,
                                                  edges := (graphReason h nb eb).2.2, replays := 0 },
                       host := { t.host with grstat := grstat 2 k 0 } }) ∧
    (grCode v = 2 → let h := grHandle v
      h ≠ 0 → (s.graph? h).isSome = true → s.replaying h = false →
      exec (.grcmdUnregister v) s = .next { s with graphs := s.graphs.erase h, host := { s.host with grstat := grstat 2 h 0 } }) ∧
    (grCode v = 0 → exec (.grcmdInvalid v) s = .next { s with host := { s.host with grstat := grstat 3 0 9 } })) ∧
  (∀ v : DWord, exec (.eqConfigWrite ⟨0x40, 8, v⟩) s = .next (s.modHost fun h => h.setEqbase v) ∧
    exec (.eqConfigWrite ⟨0x48, 4, v⟩) s = .next (s.modHost fun h => h.setEqsize (loWord v).toNat) ∧
    exec (.eqlostClear ⟨0x54, 4, v⟩) s = .next (s.modHost fun h => if loWord v = 0 then { h with eqlost := 0 } else h) ∧
    exec (.bar0RegisterWrite ⟨0x10, 8, v⟩) s = .next (s.modHost fun h => { h with graddr := v }) ∧
    exec (.bar0RegisterWrite ⟨0x18, 4, v⟩) s = .next (s.modHost fun h => { h with grctx := loWord v &&& 0xFF }) ∧
    exec (.bar0RegisterWrite ⟨0x28, 4, v⟩) s = .next (s.modHost fun h => { h with qprio := loWord v }) ∧
    exec (.bar0RegisterWrite ⟨0x4C, 4, v⟩) s = .next (s.modHost fun h => h.setEqhead (loWord v).toNat) ∧
    (∀ off, 0x100 ≤ off → off < 0x1FC → off % 4 = 0 → exec (.bar0RegisterWrite ⟨off, 4, v⟩) s =
      .next (s.modHost fun h => { h with mboxin := putBytes h.mboxin (off - 0x100) (leBytes 4 (loWord v).toNat) })) ∧
    exec (.mboxDoorbell ⟨0x1FC, 4, v⟩) s =
      .next (s.modHost fun h => { h with mboxin := putBytes h.mboxin 252 (leBytes 4 (loWord v).toNat) }).doorbell) ∧
  (∀ a : Bar0Access, bar0Ok a.offset a.width = false →
    exec (.bar0BadAccess a) s = .next (s.modHost fun h => { h with readData := none }))

/-- R79 to R81, R56, R87 to R89: the first kick of a handle starts a replay; a ready node runs under its kind; the head of a launch
queue is accepted when no other queue goes before (R83, log entry 65); a governor point grants, skips the other optional nodes and
reports them; a skipped node completes. R81, R82, R94, R418, R419: in its queue's turn a launch places its next member or its whole gang
at its candidates; a launch with nothing left writes its record, signals, and its node is done; a launch that was ended closes; a replay
whose nodes are done posts one event of kind 1; an abandoned one finishes. -/
def Obligations.GraphAndLaunchEvents : Prop :=
  (∀ (s : State),
     (∀ h k g, s.working = true → (∀ r ∈ s.replays.values, r.handle = h → r.finished = true) → s.host.kicks.find? (fun k => k.handle = h) = some k →
       s.graph? h = some g → exec (.replayStart h) s = .next ((s.modHost fun x => { x with kicks := x.kicks.erase k }).startKick g k)) ∧
     (∀ replay node r g x, s.graphOf replay = some (r, g) → g.nodes[node]? = some x →
       (s.nodeReady replay r g node = true → r.nodes[node]? ≠ some .running →
         (x.kind = 1 → exec (.nodeReady replay node) s = .next { s.setNode replay node .queued with
           disp := { s.disp with queues := s.disp.queues.put x.queue (Table.get [] s.disp.queues x.queue ++ [⟨replay, node⟩]) } }) ∧
         ((x.kind = 2 ∨ x.kind = 6) → exec (.nodeReady replay node) s = .next ((s.setNode replay node .running).modCore hostDma
           fun c => { c with engineq := c.engineq ++ [nodeCommand replay node r x] })) ∧
         (x.kind = 3 → exec (.nodeReady replay node) s = .next (s.nodeWait replay node g x)) ∧
         (x.kind = 4 → exec (.nodeReady replay node) s = .next (s.nodeSignal replay node g x))) ∧
       (x.kind = 5 → s.nodeReady replay r g node = true →
         let n := grant g x r.deadline.toNat s.now
         let t := s.modReplay replay fun r => { r with
           grants := r.grants.put node n
           nodes := (r.nodes.mapIdx fun i st => if x.first + n ≤ i ∧ i < x.first + x.gmax ∧ st = .waiting then .skipped else st).set node .done }
         exec (.governorPoint replay node) s =
           .next (if n < x.gmax then t.postEvent 3 0x37 r.handle r.number (leBytes 2 node ++ leBytes 2 (x.gmax - n)) else t)) ∧
       (s.working = true → r.nodes[node]? = some .skipped → (∀ p ∈ g.preds node, r.nodes[p]? = some .done) →
         exec (.skippedNodeComplete replay node) s = .next (s.completeSkipped replay node r g x))) ∧
     (∀ queue q rest r g x, Table.get [] s.disp.queues queue = q :: rest → s.placing = true →
       s.queueBefore (s.queuePrio queue) queue = false →
       let t := { s with disp := { s.disp with queues := Table.set [] s.disp.queues queue rest, lastQueue := queue } }
       t.graphOf q.replay = some (r, g) → g.nodes[q.node]? = some x → ∀ u,
       (∀ l, t.readLaunch g.ctx x.a.toNat = (u, .ok l) → exec (.launchAccept queue) s = .next (u.enterLaunch q.replay q.node r g x l)) ∧
       (∀ f, t.readLaunch g.ctx x.a.toNat = (u, .error f) →
         exec (.launchAccept queue) s = .next (u.endNode q.replay q.node f.cause 0 f.addr f.det)))) ∧
  (∀ (s : State),
     (∀ launch l, s.launch? launch = some l →
       (∀ ms hs t, s.placePlan launch l = some (ms, hs) → s.queueBefore l.prio l.queue = false → s.tasksFirst launch l hs = false →
         s.wakeFor hs = (t, false) →
         let u := (ms.zip hs).foldl (fun s p => s.startMember launch l p.1 p.2) t
         exec (.placeBlock launch) s =
           .next (({ u with disp := { u.disp with lastQueue := l.queue } } : State).modLaunch launch Launch.advance)) ∧
       (l.status = .placed → s.launchDone launch l = true → exec (.launchComplete launch) s =
         .next (((s.closeLaunch l 1).setNode l.replay l.node .done).modLaunch launch fun l => { l with status := .completed })) ∧
       (∀ state cause, l.status = .ending state cause → s.endingDone launch = true →
         exec (.launchComplete launch) s = .next (s.closeEnded launch l state cause))) ∧
     (∀ replay r, s.replay? replay = some r → r.finished = false →
       (r.abandoned = false → (∀ n ∈ r.nodes, n = .done) → exec (.replayComplete replay) s =
         .next ((s.postEvent 1 0 r.handle r.number []).modReplay replay fun r => { r with finished := true })) ∧
       (r.abandoned = true → (∀ n ∈ r.nodes, n = .done ∨ n = .dead) → exec (.replayFinish replay) s =
         .next (s.modReplay replay fun r => { r with finished := true }))))

/-! ## Stopping, saving and restoring -/

/-- R380, R393, R395, R445: a stopping block withdraws the copies that have not begun and takes back its waiting tile commands; at its
boundary it is saved; an exited block is saved without waves; pre-emption, shedding at a barrier and a forced park ask a block to stop.
R385: the record found first on a die is written at the end of its fault ring, and one of a fault posts an event of kind 5; R390: where
the ring's memory faults, the record becomes a DOUBLE_FAULT. Model choices: the queued commands of an exited block saved as copies not
started, and where an image stands (log entry 39), and the section that a fault of a save is found in (log entry 73). -/
def Obligations.StopAndSaveEvents : Prop :=
  (∀ (s : State) (b : Nat) (x : Block), s.block? b = some x →
     (∀ st, x.stop = some st →
       let mine := (s.core x.core).copies.filter fun e => e.cmd.ofBlock b
       let queue := (s.core x.core).engineq.filter fun q => q.ofBlock b
       exec (.blockStop b) s = .next (if x.exited then s.withdrawCopies x.core b st else (s.withdrawCopies x.core b st).recallRays x.core b) ∧
       (s.atBoundary b x = true → exec (.saveImage b) s = .next (s.saveBlock b x st false (mine ++ x.withdrawn) queue)) ∧
       (x.exited = true → s.exitedQuiet b x = true →
         exec (.exitedBlockImage b) s = .next (s.saveBlock b x st true (mine ++ x.withdrawn ++ queue.map fun q => CopyEntry.new q none .running) []))) ∧
     (∀ t, s.disp.requests.length < 64 → exec (.preemptRequest t) s =
       .next { s with disp := { s.disp with requests := s.disp.requests ++ [⟨0, 4, false, none, some t⟩] } }) ∧
     (s.shedBlock x = true →
       (s.atBarrier x = true → exec (.shedPark b) s = .next (s.askStop b 0x31)) ∧
       (s.forceAt x ≤ s.now → s.atBarrier x = false → x.exited = false → x.stop = none →
         let t := s.askStop b 0x32
         exec (.shedForced b) s = .next { t with power := { t.power with forcing := true } }))) ∧
  (∀ (s : State) (die base k : Nat) (r : FaultRec),
     (s.die die).ringBase = some base → firstRecord (s.die die).waiting = some (k, r) → (s.die die).ringCount < 4096 →
     s.recordAhead die r = false →
     (s.ringFaults die (base + 64 * (s.die die).ringCount) = true → (s.die die).dayStopped = false → exec (.faultRecordWrite die) s =
       .next ((s.modDie die fun d => { d with waiting := dropAt d.waiting k }).doubleFault die r)) ∧
     (s.ringFaults die (base + 64 * (s.die die).ringCount) = false →
     let t := (s.write 0 (base + 64 * (s.die die).ringCount) r.bytes).modDie die fun d =>
       { d with waiting := dropAt d.waiting k, ringCount := d.ringCount + 1 }
     exec (.faultRecordWrite die) s =
       .next (if 1 ≤ r.cause ∧ r.cause ≤ 0x2F then t.postEvent 5 r.cause (tagHandle r.tag) r.replay [] else t)))

/-- R391, R394, R399 to R402, R415: a request about an image enters the dispatcher's queue, or is refused with a FIRMWARE_ABORT record.
RESTORE_BLOCK carries request k out: it writes the image, and those of its gang, back at their places and they run (resume, skip), ends the
block (killb) or the launch (killl), brings the blocks that a pre-emption names to their boundaries, or refuses an image that has gone; it
waits while placing is stopped, a member of the gang is not saved or asked for, another request or launch is ahead, no place is free or
a pair wakes. -/
def Obligations.RestoreEvents : Prop := ∀ (s : State) (k : Nat) (r : Request),
  (s.refusal r = 0 → s.acceptRequest r = { s with disp := { s.disp with requests := s.disp.requests ++ [r] } }) ∧
  (s.refusal r ≠ 0 → s.acceptRequest r = s.firmwareAbort (s.refusal r) (s.imageAt r.image)) ∧
  (s.disp.requests[k]? = some r →
    (∀ t, r.target = some t → exec (.restoreBlock k) s = .next ((s.dropRequest k).preempt (s.targets t))) ∧
    (r.target = none → s.imageAt r.image = none → exec (.restoreBlock k) s = .next ((s.dropRequest k).firmwareAbort 1 none)) ∧
    (∀ i, r.target = none → s.imageAt r.image = some i →
      (r.action = 2 → exec (.restoreBlock k) s = .next ((s.dropRequest k).killImage i)) ∧
      (r.action = 3 → exec (.restoreBlock k) s = .next ((s.dropRequest k).endLaunch i.launch 3 i.icause)) ∧
      (r.action < 2 →
        (∀ l hs t, s.gangRequests i = some l → s.placing = true →
          (l.any (fun p => p.1.core.isSome) = true ∨ (s.requestBefore k = false ∧ s.launchAhead i = false)) →
          s.restorePlaces l s.holders = some hs →
          (s.wakeFor hs = (t, false) →
            exec (.restoreBlock k) s = .next ((l.zip hs).foldl (fun s p => s.restoreOne p.1.1 p.1.2 p.2) t)) ∧
          (s.wakeFor hs = (t, true) → exec (.restoreBlock k) s = .next t)) ∧
        (s.gangRequests i = none ∨ s.placing = false ∨ (∃ l, s.gangRequests i = some l ∧
            (s.restorePlaces l s.holders = none ∨
              (l.any (fun p => p.1.core.isSome) = false ∧ (s.requestBefore k = true ∨ s.launchAhead i = true)))) →
          exec (.restoreBlock k) s = .next s))))

/-- R386, R390: DOUBLE_FAULT stops the Daylight runtime of its die, takes the die out of service, posts the record with the details of the
underlying fault and ends every launch with blocks there; the blocks of the runtime are gone. -/
def Obligations.DoubleFaultsTakeTheirDieOutOfService : Prop := ∀ (s : State) (die : Nat) (cause : BitVec 6),
  let ls := ascending ((s.blocks.values.filter fun x => dieOf x.core = die ∧ !x.priv).map fun x => x.launch)
  let r : FaultRec := (s.die die).double.getD (s.recordE cause.toNat 0 (die * 256) 0)
  let t := (s.report { r with cause := 0x3F, flags := r.flags ||| 8, image := 0 }).modDie die fun d =>
    { d with dayStopped := true, inService := false, double := none }
  exec (.doubleFault die cause) s = .next (ls.foldl State.monitorEnds { t with
    fw := { t.fw with doubleFaults := t.fw.doubleFaults + 1 },
    blocks := t.blocks.filter fun e => !(e.2.priv && decide (dieOf e.2.core = die)) })

/-- R53, R54, R113, R114, R179, R412 to R414: the first variant that qualifies becomes the target of a switch request; with every thread
held at its point the block moves to it; 50 µs after its point was fixed a request is withdrawn, and the threads that it held pass the point; a
hot core's block is brought to its boundary to move, or the core rests for 200 µs. What counts as nothing on its way to a block that
switches is the model's reading (log entry 41). -/
def Obligations.SwitchAndMigrationEvents : Prop := ∀ (s : State),
  (∀ b x, s.block? b = some x →
    (∀ target t ms v base, s.switchable x = true → s.readMaps x = (t, .ok ms) → v.index = target →
      (((t.launch? x.launch).map fun l => l.variants).getD []).find? (fun v =>
        (if x.var.index < target then decide (x.var.index < v.index) else decide (v.index < x.var.index)) && t.qualifies b x ms v) = some v →
      t.fitsFor b x v = some base →
      exec (.switchRequest b target) s = .next ((t.setBlock b { x with switch := some ⟨v, base, none, []⟩ }).taken
        (SwitchReq.surplus ⟨v, base, none, []⟩ x))) ∧
    (∀ q id time t ms m base, x.switch = some q → q.fixed = some (id, time) →
      (x.allHeld q = true → x.stop = none → x.exited = false → s.quiet b x = true → s.readMaps x = (t, .ok ms) →
        ms.find? (fun m => m.id = id) = some m → t.mapBreaks x q.target ms m = 0 →
        t.fitsFor b x q.target = some base →
        let r : State := t.taken ⟨x.core, { q.target with waves := 0, vregs := 0, sregs := 0, flags := 0, weight := 0 }, base⟩
        let u := ((r.moveScratch x m q.target base).setBlock b (x.switched m q.target base t.steps)).modDie (dieOf x.core)
          fun d => { d with switches := d.switches + 1 }
        exec (.variantSwitch b) s = .next ((u.modLaunch x.launch fun l => { l with switches := l.switches + 1 }).settle b)) ∧
      (time + 50000 ≤ s.now → x.allHeld q = false →
        exec (.switchWithdraw b) s = .next (s.setBlock b x.withdraw) ∧ x.withdraw.switch = none ∧
        ∀ w, Table.get 0 x.withdraw.passing w = Table.get 0 x.passing w |||
          (q.held.filter fun e => e.1 = w).foldl (fun m e => m ||| e.2) 0))) ∧
  (∀ core dest celsius, (s.core core).resting s.now = false → s.migratingOn (dieOf core) = false → s.power.hotLimit ≤ celsius →
    let rest := s.modCore core fun c => { c with recheckAt := some (s.now + 200000) }
    (∀ b x, s.migrant core = some (b, x) →
      (s.migratesTo b x dest = true → exec (.migrate core ⟨dest, celsius⟩) s =
        .next ((s.modBlock b fun x => { x with stop := some ⟨0x33, [], some dest, 0⟩, waves := Table.map (fun _ y => y.clearStop) x.waves }).modCore
          core fun c => { c with movedAt := some s.now })) ∧
      ((∀ c ∈ allCores, s.migratesTo b x c = false) → s.migratesTo b x dest = false → exec (.migrate core ⟨dest, celsius⟩) s = .next rest)) ∧
    (s.migrant core = none → exec (.migrate core ⟨dest, celsius⟩) s = .next rest)) ∧
  (∀ core dest celsius, celsius < s.power.hotLimit → exec (.migrate core ⟨dest, celsius⟩) s = .next s) ∧
  (∀ core t, (s.core core).recheckAt = some t → t ≤ s.now →
    exec (.migrateRecheck core) s = .next (s.modCore core fun c => { c with recheckAt := none }))

/-! ## Power, time, firmware and links -/

/-- R23, R85, R86, R102 to R105, R166, R403 to R411: a droop alarm outside the first six cycles of a response begins one and is
recorded, and an alarm inside only counts; the response ends at cycle 71; a balance sample sets IMB and the mask level; a pair idle for
2 µs is gated in 400 ns and wakes; a thermal limit below a clock lowers it and is recorded. At each multiple of 100 µs a shelf poll takes the readings, sets ALLOW and
counts good polls, without EN it only sets ALLOW to 2,400, and one whose PM exceeds ALLOW crosses; a crossing 400 µs after another sets the clamp; each 5 µs the clock falls by
50 MHz, not below 500; 200 good polls release the clamp, and then restore the group of classes shed last. The first lock steps the timer
forward to TAI, or, where it stands behind the timer, begins to slew it; later changes set LOCKED within 50 ns of it and slew otherwise; an edge of the 1PPS input sets PPSIN, which 1.1 s
without one clears; the output rises once a second. Model choices: the die that a droop record names (log entry 42) and the step of the
first lock (log entry 43), the sign of a sample of 0 and the analogue inputs (log entry 20), the power of a clock step (log entry 24), LINEAR11
and the polls that a step of the timer passes (log entry 70), that a thermal limit carries a frequency, stays in force, and in dawn service
binds only the clock of full service (log entry 71), and that a poll waits for the saves of parks whose time is over (log entry 81). -/
def Obligations.PowerAndTimeEvents : Prop :=
  (∀ (s : State) (k : Nat),
     (let c := s.cluster k
      let d := { c with alarms := satInc16 c.alarms }
      (¬(c.droop ≠ 0 ∧ c.since < 6) → exec (.droopAlarm k) s =
        .next ((s.setCluster k { d with droop := 1, droopAt := c.cyc.toNat }).event 0x39 (mkDet 0 none (k % 2)))) ∧
      (c.droop ≠ 0 → c.since < 6 → exec (.droopAlarm k) s = .next (s.setCluster k d)) ∧
      (c.droop ≠ 0 → 70 ≤ c.since → exec (.droopHalvingEnd k) s = .next (s.setCluster k { c with droop := 0 }))) ∧
     (∀ imb : Int, -128 ≤ imb → imb ≤ 127 →
       (50 * ((s.die k).sampled + 1) ≤ s.now → exec (.balanceSample k imb) s = .next (s.modDie k fun d =>
         let heavy := if imb = 0 then d.heavy else decide (imb < 0)
         { d with imb := BitVec.ofInt 8 imb, heavy := heavy, sampled := d.sampled + 1,
                  mlvl := BitVec.ofNat 2 (nextLevel imb (if heavy = d.heavy then d.mlvl.toNat else 0)) })) ∧
       (s.now < 50 * ((s.die k).sampled + 1) → exec (.balanceSample k imb) s = .next s)) ∧
     (let d := s.die k
      (d.gate = .powered → s.idle k = true → d.gateSince + 2000 ≤ s.now →
        exec (.gatingStart k) s = .next (s.setDie k { d with gate := .gating, gateSince := s.now })) ∧
      (d.gate = .gating → d.gateSince + 400 ≤ s.now →
        exec (.gatingComplete k) s = .next (s.setDie k { d with gate := .gated, gateSince := s.now })) ∧
      (d.gate = .waking → exec (.wakeComplete k) s = .next (s.setDie k { d with gate := .powered, gateSince := s.now }))) ∧
     (∀ celsius mhz, s.clockAbove mhz = true →
       let limit := some (min mhz (s.power.thermal.getD mhz))
       (s.host.phase ≠ 1 → exec (.thermalLimit celsius mhz) s =
         .next ((({ s with power := { s.power with thermal := limit, free := min s.power.free mhz } }).clocks
           fun f => min f mhz).event 0x38 (mkDet 0 none celsius))) ∧
       (s.host.phase = 1 → exec (.thermalLimit celsius mhz) s =
         .next (({ s with power := { s.power with thermal := limit } } : State).event 0x38 (mkDet 0 none celsius))))) ∧
  (∀ (s : State), let p := s.power
     (∀ r : ShelfReading, let at' := 100000 * (p.polled + 1)
       at' ≤ s.now →
       (s.parksOpen at' = true → exec (.shelfPoll r) s = .next s) ∧
       (s.parksOpen at' = false → p.en = true → r.ok = true →
         let free (k : Nat) := (Config.freeWord s.steps (2 ^ 50 + k)).extractLsb' 0 16
         let q := { p with vinOk := true, vin := linear11 (free 0) 100 r.vin, freq := linear11 (free 1) 1000 r.freq, age := 0, pm := r.pm,
                           lastPoll := some at', polled := p.polled + 1, crossings := p.crossings.filter fun t => decide (at' ≤ t + 400000) }
         let q := ({ q with allow := q.allowAt }).count true
         let t := { s with power := q }
         exec (.shelfPoll r) s = .next (if q.allow < r.pm then t.cross at' else t)) ∧
       (s.parksOpen at' = false → p.en = false → exec (.shelfPoll r) s = .next { s with power := { p with allow := 2400, polled := s.now / 100000 } })) ∧
     (∀ c, p.lastPoll = some (c + 400000) → c ∈ p.crossings → p.allow < p.pm → exec (.clampCheck p.pm) s =
       .next { s with power := { p with clamp := true, stepAt := some (p.stepAt.getD s.now), clampGood := 0 } }) ∧
     (∀ pm t, p.stepAt = some t → p.clamp = true → t + 5000 ≤ s.now → p.allow < pm → exec (.clockStep pm) s =
       .next ({ s with power := { p with stepAt := some s.now } }.clocks fun f => if 500 < f then max 500 (f - 50) else f)) ∧
     (p.clamp = true → 200 ≤ p.clampGood → exec .clampRelease s =
       .next ({ s with power := { p with clamp := false, clampGood := 0, groupGood := 0, stepAt := none } }.clocks fun _ => p.free)) ∧
     (∀ cs trip rest, p.groups = (cs, trip) :: rest → p.clamp = false → 200 ≤ p.groupGood →
       let t := { s with power := { p with groups := rest, shed := p.shed - cs.length, groupGood := 0, toPark := [] } }
       let is := (t.images.filter fun i => (i.icause = 0x31 || i.icause = 0x32) && t.ofClasses cs i.launch).foldl (fun l i => insertParked i l) []
       let u := is.foldl (fun s i => s.acceptRequest ⟨i.addr, 0, false, none, none⟩) t
       let bs := (List.filter (fun (e : Nat × Block) => e.2.parking && u.ofClasses cs e.2.launch) u.blocks).map Prod.fst
       exec .classRestore s = .next (bs.foldl State.unpark u).endForcing)) ∧
  (∀ (s : State) (tai : Nat), let t := s.time
     (t.lockedOnce = false →
       (t.now ≤ tai → exec (.ptpFirstLock tai) s = .next (s.stepTimer tai)) ∧
       (tai < t.now → t.now ≤ tai + 50 → exec (.ptpFirstLock tai) s =
         .next { s with time := { t with lockedOnce := true, locked := true, valid := true, slew := none } }) ∧
       (tai + 50 < t.now → exec (.ptpFirstLock tai) s =
         .next { s with time := { t with lockedOnce := true, locked := false, valid := false, slew := some ((tai : Int) - t.now) } })) ∧
     (t.lockedOnce = true →
       exec (.ptpLockChange false tai) s = .next { s with time := { t with locked := false, slew := none } } ∧
       (t.now ≤ tai + 50 → tai ≤ t.now + 50 →
         exec (.ptpLockChange true tai) s = .next { s with time := { t with locked := true, valid := true, slew := none } }) ∧
       (t.now + 50 < tai ∨ tai + 50 < t.now → exec (.ptpLockChange true tai) s =
         .next { s with time := { t with locked := false, slew := some ((tai : Int) - t.now) } }) ∧
       (t.valid = false → exec .timerValid s = .next { s with time := { t with valid := true, locked := true, slew := none } })) ∧
     exec .ppsInEdge s = .next { s with time := { t with ppsin := true, lastEdge := t.now } } ∧
     (t.ppsin = true → t.lastEdge + 1100000000 ≤ t.now → exec .ppsinExpire s = .next { s with time := { t with ppsin := false } }) ∧
     (t.ppsOut < t.now / 1000000000 → exec .ppsOut s = .next { s with time := { t with ppsOut := t.now / 1000000000 } }))

/-- R400, R402, R422 to R424, R427: a pending mailbox message of a command, with a payload of a length that it takes, is carried out and
answered; another length, or a payload out of range, is answered with status 3, and an unlisted command with status 2. The payloads of REMAP,
PREEMPT and DAWNSTATE are the model's choice (log entry 44), and so are the report's digests, the uninterpreted verification of an image and
the two steps in which an update is written (log entry 23). -/
def Obligations.MailboxCommands : Prop := ∀ (s : State), let m := s.host.mboxMsg
  let pending (c n : Nat) : Prop := s.host.mboxBusy = true ∧ msgField m 0 2 = c ∧ msgField m 2 2 = n
  (pending 1 32 → exec .attest s = .next (s.mboxDone 0 (s.report423 (msgBytes m 8 32)))) ∧
  (pending 2 12 → let image := s.bytes (hostPa (msgField m 8 8)) (msgField m 16 4)
    (s.fw.writing = none →
      (2 ^ 47 < msgField m 8 8 + msgField m 16 4 → exec (.update .begins) s = .next (s.mboxDone 3 [])) ∧
      (msgField m 8 8 + msgField m 16 4 ≤ 2 ^ 47 →
        (Config.imageVerifies image = false → exec (.update .begins) s = .next (s.mboxDone 4 [])) ∧
        (Config.imageVerifies image = true → exec (.update .begins) s =
          .next { s with fw := { s.fw with flashValid := false, writing := some image } }))) ∧
    (∀ w, s.fw.writing = some w → exec (.update .ends) s =
      .next ({ s with fw := { s.fw with flash := some w, flashValid := true, writing := none } }.mboxDone 0 []))) ∧
  (pending 3 2 → let a := msgField m 8 1
    let b := msgField m 9 1
    (a = 1 ∨ a = 2) → (b = 1 ∨ b = 2) → (a ≠ s.disp.vd1 → s.dieBusy a = false ∧ s.dieBusy s.disp.vd1 = false) →
    (b ≠ s.disp.vd2 → s.dieBusy b = false ∧ s.dieBusy s.disp.vd2 = false) →
    exec .remap s = .next ({ s with disp := { s.disp with vd1 := a, vd2 := b } }.mboxDone 0 (leBytes 1 a ++ leBytes 1 b))) ∧
  (pending 3 2 → let a := msgField m 8 1
    let b := msgField m 9 1
    ¬(a = 1 ∨ a = 2) ∨ ¬(b = 1 ∨ b = 2) ∨ (a ≠ s.disp.vd1 ∧ (s.dieBusy a = true ∨ s.dieBusy s.disp.vd1 = true)) ∨
      (b ≠ s.disp.vd2 ∧ (s.dieBusy b = true ∨ s.dieBusy s.disp.vd2 = true)) →
    exec .remap s = .next (s.mboxDone 3 (leBytes 1 s.disp.vd1 ++ leBytes 1 s.disp.vd2))) ∧
  (pending 4 5 → 1 ≤ msgField m 9 4 → msgField m 9 4 ≤ 60000 → (s.ctxs.find? (msgField m 8 1)).isSome = true → exec .wdog s =
    .next ((s.setCtx (msgField m 8 1) { s.ctx (msgField m 8 1) with wdogMs := msgField m 9 4 }).mboxDone 0 [])) ∧
  (pending 4 5 → (msgField m 9 4 = 0 ∨ 60000 < msgField m 9 4 ∨ (s.ctxs.find? (msgField m 8 1)).isNone = true) →
    exec .wdog s = .next (s.mboxDone 3 [])) ∧
  (let asked (t : PreemptTarget) : State :=
     ({ s with disp := { s.disp with requests := s.disp.requests ++ [⟨0, 4, false, none, some t⟩] } } : State).mboxDone 0 []
   let c := msgField m 8 1
   let h := msgField m 8 2
   s.disp.requests.length < 64 →
     (pending 5 1 → (s.ctxs.find? c).isSome = true → exec .preempt s = .next (asked (.context c))) ∧
     (pending 5 6 → 1 ≤ h → h ≤ 4095 → exec .preempt s = .next (asked (.replay h (msgField m 10 4))))) ∧
  (pending 5 1 → (s.ctxs.find? (msgField m 8 1)).isNone = true → exec .preempt s = .next (s.mboxDone 3 [])) ∧
  (pending 5 6 → (msgField m 8 2 = 0 ∨ 4096 ≤ msgField m 8 2) → exec .preempt s = .next (s.mboxDone 3 [])) ∧
  (pending 6 0 → exec .dawnstate s = .next (s.mboxDone 0 (leBytes 1 s.host.phase ++ leBytes 1 s.fw.failed.toNat))) ∧
  (∀ c n, pending c n → (c = 0 ∨ 6 < c) → exec .mboxUnknownCommand s = .next (s.mboxDone 2 [])) ∧
  (∀ n, (pending 1 n → n ≠ 32 → exec .attest s = .next (s.mboxDone 3 [])) ∧ (pending 4 n → n ≠ 5 → exec .wdog s = .next (s.mboxDone 3 [])) ∧
    (pending 6 n → n ≠ 0 → exec .dawnstate s = .next (s.mboxDone 3 [])) ∧ (pending 3 n → n ≠ 2 → exec .remap s = .next (s.mboxDone 3 [])) ∧
    (pending 2 n → n ≠ 12 → ∀ w, exec (.update w) s = .next (s.mboxDone 3 [])) ∧
    (pending 5 n → n ≠ 1 → n ≠ 6 → exec .preempt s = .next (s.mboxDone 3 [])))

/-- R386, R388, R425, R426: RESET leaves the machine as State.reset has it but for the firmware's flash and the host's memory (that the
host keeps its memory and that device memory then reads as unspecified is the model's choice, log entry 45). When training is complete
and begun work has drained the device is in full service, PHASE 2, without die 2 if that failed, or in PHASE 3 if die 0 or die 1 failed (its
clock there is the model's choice, log entries 18 and 71); a peer link comes up. A lost packet suspends the copy that lost it, which its
context reports once, takes the peer links of its neighbour down, and is DIE_UNAVAILABLE for a load, a store, an atomic, a tile row or a
ray that crossed a bridge (which links a module number names is the model's choice, log entry 56); a failed host link is marked down and
stops only what uses it (what becomes of that is the model's choice, log entry 11). -/
def Obligations.ResetAndLinkEvents : Prop := ∀ (s : State),
  exec .reset s = .next { State.reset with
    agenda := s.agenda, turn := s.turn, steps := s.steps, mem := s.mem.filter fun c => decide (region c.1 = .host),
    unspec := [(0, 0x6000000000), (0x8000000000, 0x8060000000)],
    host := { HostIf.reset with phase := if s.fw.flashValid then 1 else 3 }, fw := { Firmware.reset with flash := s.fw.flash, flashValid := s.fw.flashValid } } ∧
  (∀ failed : BitVec 3, s.host.phase = 1 → s.workDrained = true → exec (.trainingComplete failed) s = .next (s.enterService failed) ∧
    (s.enterService failed).host.phase = (if failed.getLsbD 0 || failed.getLsbD 1 then 3 else 2) ∧
    (failed.getLsbD 2 = true → ((s.enterService failed).die 2).inService = false)) ∧
  (∀ link, s.host.phase = 2 → link < 12 → exec (.peerLinkUp link) s =
    .next { s with fw := { s.fw with peersUp := s.fw.peersUp ||| ((1 : BitVec 12) <<< link) } }) ∧
  (∀ core k e p, (s.core core).copies[k]? = some e → e.plan = some p → e.phase ≠ .suspended →
    let det := mkDet (e.cmd.kctx * 256) none e.resume
    (p.remote = none →
      (s.reported core 0x2C e.cmd = false → exec (.bridgeLinkFault core (.copy k)) s = .next (s.copyFails core k e 0x2C 0 0 det)) ∧
      (s.reported core 0x2C e.cmd = true → exec (.bridgeLinkFault core (.copy k)) s =
        .next (s.modCopy core k fun e => { e with phase := .suspended, cause := 0x2C }))) ∧
    (∀ m, p.remote = some m →
      let down := (linksTo m).foldl (fun v l => v ||| (1 : BitVec 12) <<< l) 0
      let t := { s with fw := { s.fw with peersUp := s.fw.peersUp &&& ~~~down } }
      t.reported core 0x2D e.cmd = false → exec (.peerLinkFault core k) s = .next (t.copyFails core k e 0x2D 0 0 det))) ∧
  (∀ core k f pa d, (s.core core).fabric[k]? = some f → f.e.kind.pa? = some pa → execDie pa = some d → d ≠ dieOf core →
    exec (.bridgeLinkFault core (.access k)) s = .next (s.loseAccess core k f)) ∧
  (∀ b w k pa va lane x d, s.block? b = some x → execDie pa = some d → d ≠ dieOf x.core →
    exec (.bridgeLinkFault x.core (.load b w k pa va lane)) s = .next (s.modWave b w fun y =>
      { y with outs := y.outs.mapIdx fun i o => if i = k then { o with bad := o.bad ++ [⟨0x23, pa, va, lane, 0, d⟩] } else o })) ∧
  (∀ core row j, (s.core core).mat = some j → exec (.bridgeLinkFault core (.tile row)) s = .next (s.loseRow core row j)) ∧
  (∀ core k pa va c h o d, (s.core core).rays[k]? = some c → c.instr = .rayq h o → bridgeTo core pa = some d →
    exec (.bridgeLinkFault core (.ray k pa va)) s = ((s.dropRay core k).reserve c (-1)).renderStop c 0 (.die va d)) ∧
  (∃ t, exec .hostLinkFault s = .next t ∧ t.host.linkUp = false) ∧
  ((∀ e ∈ s.blocks, ∀ f ∈ e.2.waves, s.hostOpen e.1 f.1 e.2.core f.2 = false) →
    (∀ c ∈ s.cores, ∀ e ∈ c.2.copies, e.onHost = false) →
    exec .hostLinkFault s = .next { s with host := { s.host with linkUp := false } })

/-! ## Encoding -/

/-- Every well-formed syllable is what the decoder reads from its own word, whatever its operands. -/
def Obligations.DecodingInvertsEncoding : Prop := ∀ (i : Instr), i.wf = true → ∀ w, encode i = some w → decodeWord w = .ok i

/-- A word that decodes is the encoding of what it decodes to: no bit of it is dropped, and no two words give one syllable. -/
def Obligations.EncodingInvertsDecoding : Prop := ∀ (w : DWord) (i : Instr), decodeWord w = .ok i → encode i = some w

/-- Eight of the words that the manual works out in its encodings (R158, R190, R196, R371, R391, R392) decode to what it says they are. -/
def Obligations.WorkedEncodingsDecode : Prop :=
  decodeTableWord 64 0x827000D0A017FFFF = some (.scmpi ⟨true, false, 0⟩ ⟨3, 0x85, 0, 0, 0x17FFFF⟩) ∧
  decodeTableWord 64 0x8280250112345678 = some (.sliHi ⟨true, false, 0⟩ ⟨148, 1, 0x12345678⟩) ∧
  decodeTableWord 64 0x8650000004A00000 = some (.rfxResume ⟨true, false, 0⟩ ⟨0, 0, 148, 0⟩) ∧
  decodeTableWord 64 0x8650000004A00002 = some (.rfxKillb ⟨true, false, 0⟩ ⟨0, 0, 148, 2⟩) ∧
  decodeTableWord 64 0x8660000004280000 = some (.xinv ⟨true, false, 0⟩ ⟨0, 0, 133, 0⟩) ∧
  decodeTableWord 64 0x8440000000018004 = some (.brp ⟨true, false, 0⟩ ⟨3, 0, 1, 0⟩) ∧
  decodeTableWord 64 0x8400000000018000 = some (.br ⟨true, false, 0⟩ ⟨3, 0, 0, 0⟩) ∧
  decodeTableWord 64 0x84A0000000000000 = some (.gridwait ⟨true, false, 0⟩ ⟨0, 0, 0, 0⟩)

/-- R119, R120, R122, R133, R144: a bundle that passes decode has one to four syllables, the last one alone with its end bit, in
non-decreasing order of class, at most one U, two V, one M and one X, at most one special function and one exchange; and in a wave that
is not privileged none of them is privileged. -/
def Obligations.DecodedBundlesAreLegal : Prop := ∀ (priv : Bool) (g : Budget) (rb : Nat) (ws : List DWord) (is : List Instr),
  ws.length ≤ 4 → (∀ w ∈ ws.dropLast, w.getLsbD 63 = false) → decodeBundle priv g rb ws = .ok is →
  let cls (c : Nat) := ws.filter fun w => (sylCls w).toNat = c
  let vop (lo hi : Nat) := ws.filter fun w => (sylCls w).toNat = 1 ∧ lo ≤ (sylOp w).toNat ∧ (sylOp w).toNat ≤ hi
  1 ≤ ws.length ∧ is.length = ws.length ∧ (∀ w ∈ ws.getLast?, w.getLsbD 63 = true) ∧
  ws.Pairwise (fun a b => (sylCls a).toNat ≤ (sylCls b).toNat) ∧ (∀ w ∈ ws, (sylCls w).toNat ≤ 3) ∧
  (cls 0).length ≤ 1 ∧ (cls 1).length ≤ 2 ∧ (cls 2).length ≤ 1 ∧ (cls 3).length ≤ 1 ∧
  (vop 0x60 0x67).length ≤ 1 ∧ (vop 0x70 0x78).length ≤ 1 ∧
  (∀ i ∈ is, ∃ v, i.view = some v ∧ v.legal = true ∧ v.spaceOk = true ∧ v.badOperand g = none ∧ (priv = false → v.privileged = false))

/-- R120: a bundle whose fourth syllable has no end bit, that breaks the class order or the class counts, or that holds two
special-function or two lane-exchange syllables stops its wave with ILLEGAL_BUNDLE and has no other effect; a class code 4 to 7 in it is
found first and stops it with ILLEGAL_OPCODE. -/
def Obligations.IllegalBundlesStop : Prop := ∀ (s t : State) (b w : Nat) (x : Block) (y : Wave) (pc : PC) (ws : List DWord),
  s.fetchBundle (x.seenBy y) pc = (t, .ok ws) →
  let u := t.begin b w (x.ctxOf y) (y.lanesAt pc) pc ws.length
  let cls (c : Nat) := (ws.filter fun v => (sylCls v).toNat = c).length
  let vop (lo hi : Nat) := (ws.filter fun v => (sylCls v).toNat = 1 ∧ lo ≤ (sylOp v).toNat ∧ (sylOp v).toNat ≤ hi).length
  ((∀ v ∈ ws, (sylCls v).toNat ≤ 3) →
    ((∃ v, ws[3]? = some v ∧ v.getLsbD 63 = false) ∨ ¬ws.Pairwise (fun v z => (sylCls v).toNat ≤ (sylCls z).toNat) ∨
      2 ≤ cls 0 ∨ 3 ≤ cls 1 ∨ 2 ≤ cls 2 ∨ 2 ≤ cls 3 ∨ 2 ≤ vop 0x60 0x67 ∨ 2 ≤ vop 0x70 0x78) →
    s.issueAt b w x y pc = (.next (u.decodeStop b w 0x02 0 0 0 ws.length), [])) ∧
  ((∃ v ∈ ws, 4 ≤ (sylCls v).toNat) → ∃ d, s.issueAt b w x y pc = (exec (.illegalOpcode 0 d) u, []))

/-! ## The step, issue, commit and stops -/

/-- A step runs the head of the agenda, unless that would touch an entry for the first time while an update of it is under way (R237); with
nothing there and its turn come, the cores are asked in an order, and the waves of each by priority, those of one priority in slot order after
the last primary; those before the first ready wave of the first core that has one may come to nothing or note that they are held; that wave runs
the syllables decoded at its PC, for the threads that stand there, and is noted as the core's last primary, with the partner that issues
beside it; and then the step runs those of the partner, whose stores leave the core after the primary's (R156, R159 to R161, R166, R168). The
time that a step takes follows each, but for a primary with a partner, since both issue in one cycle. In which order the machine takes
events, bundles and cores is the model's choice (log entry 2). -/
def Obligations.StepRunsTheDecodedInstruction : Prop := ∀ (s : State),
  let timed (t : State) : State := if t.partner.isSome then { t with steps := t.steps + 1 } else t.tick
  (∀ i rest, s.agenda = i :: rest → s.partner = none →
    let o := exec i { s with agenda := rest }
    (s.orderly o = true →
      (∀ t, o = .next t → step s = .next (timed t)) ∧ (∀ f, o = .fault f → step s = .fault f) ∧ (∀ r, o = .refused r → step s = .refused r)) ∧
    (s.orderly o = false → step s = ticked s.ownMove)) ∧
  (∀ core, (s.tryOrder core).Pairwise (fun p q => s.prioOf p.2.1 ≤ s.prioOf q.2.1) ∧
    ∀ n < 4, (s.tryOrder core).filter (fun p => decide (s.prioOf p.2.1 = n)) =
      (s.slotOrder core (s.core core).lastPrimary).filter fun p => decide (s.prioOf p.2.1 = n)) ∧
  (∀ (cs cores : List Nat) (pre post : List (Nat × Nat × Nat)) (core k b w : Nat) (is : List Instr) (p : List Nat) (s2 s3 u : State) (e : Env),
    s.agenda = [] → s.partner = none → s.readyLaunch = none → s.turn = true →
    let s1 := { s with turn := false }
    s1.busyCores = cs ++ core :: cores → s1.issueAny cs = (s2, none) → s2.coreMayIssue core = true →
    s2.tryOrder core = pre ++ (k, b, w) :: post → s2.issueFirst core pre = (s3, none) → s3.placing = true →
    (∀ x, s3.block? b = some x → x.stop = none) →
    let s4 := s3.modWave b w fun y => { y with since := none }
    Runs s4 b w is p u → u.env = some e →
    let out := resultOf (is.map e.resolve) u
    s4.orderly out = true →
    (∀ i, is = [i] → out = exec (e.resolve i) u) ∧
    (∀ v, out = .next v → heldOut (.next v) b w = false → step s =
      .next (timed { v.modCore core fun c => { c with lastPrimary := k, issuedAt := some (s3.cycOf core) } with
        partner := (s3.partnerOf core k p).map fun q => ⟨q.1, q.2, v.lastStore b w (s3.sidOf b w)⟩ })) ∧
    (∀ f, out = .fault f → step s = .fault f) ∧ (∀ r, out = .refused r → step s = .refused r)) ∧
  (∀ (b w : Nat) (ahead : Option (Nat × Nat × Nat)) (is : List Instr) (p : List Nat) (u : State) (e : Env), s.partner = some ⟨b, w, ahead⟩ →
    let s1 := ({ s with partner := none } : State).modWave b w fun y => { y with since := none }
    Runs s1 b w is p u → u.env = some e →
    let out := resultOf (is.map e.resolve) u
    s1.orderly out = true →
    (∀ v, out = .next v → heldOut (.next v) b w = false → step s = .next (timed (v.storesAfter b w (s.sidOf b w) ahead))) ∧
    (∀ f, out = .fault f → step s = .fault f) ∧ (∀ r, out = .refused r → step s = .refused r))

/-- R140, R163, R164: a bundle that is held ends without any effect: no register, no memory, no engine, no stop and no generator step; a
command of class X that finds the engine queue full holds its bundle, and one whose condition is false does nothing; a matrix command of
a wave that is not converged fails at issue. -/
def Obligations.HeldBundlesHaveNoEffect : Prop :=
  (∀ (s : State) (e : Env), s.env = some e → (e.iu.held = true ∨ countersFull e.y e.iu.effs = true) →
    let t := s.finish
    Quiet { s with cur := none } t ∧ t.cores = s.cores ∧ t.launches = s.launches ∧ t.timelines = s.timelines ∧ t.agenda = s.agenda ∧
    (∀ b w, t.stopRegs? b w = s.stopRegs? b w) ∧ (∀ b, (t.block? b).map Block.stop = (s.block? b).map Block.stop)) ∧
  (∀ (h : Hdr) (o : FmtE),
    (∀ c ∈ engineCommands, SkipsX (c h o) h ∧
      ∀ s e, s.env = some e → e.holds h = true → e.queueFull = true → exec (c h o) s = .next (s.stageSyl h.e e.iu 4 .hold)) ∧
    (∀ c ∈ matrixCommands, ∀ s e, s.env = some e → e.holds h = true → e.queueFull = false → e.iu.lanes ≠ e.y.living →
      exec (c h o) s = .next (s.stageSyl h.e e.iu 4
        (failWith 0 0x06 0 (popcount 128 e.iu.lanes.toNat) none (popcount 128 e.y.living.toNat)))))

/-- R165, R381: of the failures of a bundle that of the first stage, and within it of the first slot, decides; FAULTMASK marks every
slot that fails at that stage; the wave shows the deciding cause, the other waves show none, the block stops with one record, and no
register and no memory changes, but for what the walks of its addresses bound (R240). -/
def Obligations.FailedBundlesStop : Prop := ∀ (s : State) (e : Env),
  s.env = some e → e.iu.held = false → countersFull e.y e.iu.effs = false → e.iu.raised ≠ [] →
  (∀ r ∈ e.iu.raised, r.stage ≤ 1 ∧ r.slot < 5) → e.x.stop = none →
  let t := s.finish
  ∃ r ∈ e.iu.raised, (∀ q ∈ e.iu.raised, r.stage ≤ q.stage ∧ (q.stage = r.stage → r.slot ≤ q.slot)) ∧
  ∃ m : BitVec 5, (∀ k, k < 5 → (m.getLsbD k = true ↔ ∃ q ∈ e.iu.raised, q.stage = r.stage ∧ q.slot = k)) ∧
    t.stopRegs? e.iu.block e.iu.wave = some (toWord r.cause, m.setWidth 32, r.addr, r.det) ∧
    (∀ w z, w ≠ e.iu.wave → e.x.waves.find? w = some z → t.stopRegs? e.iu.block w = some (0, 0, 0, 0)) ∧
    (∃ x x', s.block? e.iu.block = some x ∧ t.block? e.iu.block = some x' ∧
      x'.stop = some ⟨r.cause, [s.recordB (x.seenBy e.y) r.cause 0 m r.addr r.det e.iu.wave 0], none, 0⟩) ∧
    t.tryWave e.iu.block e.iu.wave false = none ∧
    (∀ b w, t.regs? b w = s.regs? b w) ∧ (∀ b, t.mtx? b = s.mtx? b) ∧ t.cur = none ∧
    ((∀ d, (t.die d).pools = (s.die d).pools) → t.mem = s.mem) ∧ (e.iu.touch = [] → Quiet { s with cur := none } t)

/-- R379 to R385, R390: taking an exception writes CAUSE, FAULTMASK, FAULTADDR and FAULTDET of its wave where the wave shows no cause
yet, and clears those of the other waves when it begins the stop; its record joins the block's stop; a standing switch request is
withdrawn; a privileged wave's cause becomes a DOUBLE_FAULT of its die, with the details of its record, which comes next; and no register
and no memory changes. -/
def Obligations.ExceptionsSaveTheirCause : Prop := ∀ (s : State) (b w cause num : Nat) (flags : BitVec 4) (fmask : Word)
    (addr det : DWord) (x : Block) (y : Wave), s.block? b = some x → x.waves.find? w = some y →
  let t := s.stopWave b w cause flags fmask addr det num
  let r := s.recordB (x.seenBy y) cause flags (fmask.extractLsb' 0 5) addr det w num
  ((x.stop = none ∨ y.cause = 0) → t.stopRegs? b w = some (toWord cause, fmask, addr, det)) ∧
  (x.stop = none → ∀ v z, v ≠ w → x.waves.find? v = some z → t.stopRegs? b v = some (0, 0, 0, 0)) ∧
  (∀ st, x.stop = some st → y.cause ≠ 0 → t.stopRegs? b w = s.stopRegs? b w) ∧
  (∃ x', t.block? b = some x' ∧ x'.switch = none ∧
    (x.stop = none → x'.stop = some ⟨cause, [r], none, 0⟩) ∧
    (∀ st, x.stop = some st → ∃ st', x'.stop = some st' ∧ st'.records = st.records ++ [r])) ∧
  t.agenda = (if x.priv then [.doubleFault (dieOf x.core) (BitVec.ofNat 6 cause)] else []) ++ s.agenda ∧
  (∀ d, (t.die d).double = if x.priv = true ∧ d = dieOf x.core then (s.die d).double.or (some r) else (s.die d).double) ∧
  Quiet s t

/-- R121, R165, R171: a bundle that commits moves its issued threads past it and then writes the registers, predicates, conditions and
PCs that its syllables staged, in their order, in its own wave; no other wave's register and no matrix state changes, and no memory but
for what the walks of its addresses bound (R240). -/
def Obligations.CommitWritesTheStagedRegisters : Prop := ∀ (s : State) (e : Env),
  s.env = some e → e.iu.held = false → countersFull e.y e.iu.effs = false → e.iu.raised = [] → (∀ f ∈ e.iu.effs, f.onRegs = true) →
  CommitsTo s s.finish e.iu e.y

/-! ## Frames -/

/-- R121, R124, R132, R181, R184, R185: what an instruction that writes registers leaves unchanged, for a bundle of that one syllable:
all but its destination. Register 0 of the scalars, predicate 0 and condition 0 hold what they always hold, so a destination that names
one changes nothing. R204: a form with a mode field also draws in the lanes it acts on, in stochastic mode alone. R165, R169, R170: where
masked slots split a bundle of such instructions, its first sub-bundle and every one but the last leave all registers, all matrix state
and memory as they are, and the last commits what was staged, and only that. -/
def Obligations.RegisterInstructionFrames : Prop :=
  (∀ (s : State) (e : Env) (h : Hdr), s.env = some e → Alone e h →
  let m := e.issueSet h
  let sd (n : Spec) : Nat := n.toNat - 128
  let pd (n : Spec) : Nat := physP e.x.var.rotv e.y.rotb.toNat (Spec.idx n).toNat
  (∀ c ∈ scalarResults, ∀ o : FmtA, Frame s e (c h o) m [sd o.d] [] [] []) ∧
  (∀ c ∈ scalarImmediates, ∀ o : FmtB, Frame s e (c h o) m [sd o.d] [] [] []) ∧
  (∀ o : FmtA, Frame s e (.sadd64 h o) m [sd o.d, o.d.toNat + 1 - 128] [] [] []) ∧
  (∀ o : FmtC, Frame s e (.sli h o) m [sd o.d] [] [] [] ∧ Frame s e (.sliHi h o) m [o.d.toNat + 1 - 128] [] [] [] ∧
    Frame s e (.sliSx h o) m [sd o.d, o.d.toNat + 1 - 128] [] [] []) ∧
  (∀ o : FmtA, Frame s e (.scmp h o) m [] [] [] [(Spec.idx o.d).toNat] ∧ Frame s e (.clog h o) m [] [] [] [(Spec.idx o.d).toNat]) ∧
  (∀ o : FmtB, Frame s e (.scmpi h o) m [] [] [] [(Spec.idx o.d).toNat] ∧ Frame s e (.vcmpi h o) m [] [] [pd o.d] []) ∧
  (∀ c ∈ vectorResults, ∀ o : FmtA, Frame s e (c h o) m [] [e.phys o.d.toNat] [] []) ∧
  (∀ c ∈ vectorImmediates, ∀ o : FmtB, Frame s e (c h o) m [] [e.phys o.d.toNat] [] []) ∧
  (∀ o : FmtA, Frame s e (.vadd64 h o) m [] [e.phys o.d.toNat, e.phys (o.d.toNat + 1)] [] [] ∧
    Frame s e (.sftwid h o) m [] [e.phys o.d.toNat, e.phys (o.d.toNat + 1)] [] []) ∧
  (∀ o : FmtC, Frame s e (.vli h o) m [] [e.phys o.d.toNat] [] [] ∧ Frame s e (.vliHi h o) m [] [e.phys (o.d.toNat + 1)] [] [] ∧
    Frame s e (.vliSx h o) m [] [e.phys o.d.toNat, e.phys (o.d.toNat + 1)] [] []) ∧
  (∀ c ∈ [Instr.vcmp, .plog, .fcmp, .xvote], ∀ o : FmtA, Frame s e (c h o) m [] [] [pd o.d] []) ∧
  (∀ c ∈ modeResults, ∀ o : FmtA, FrameOf (modeCode o = 4 ∧ e.s.dawn = false) s e (c h o) m [] [e.phys o.d.toNat] [] []) ∧
  (∀ o : FmtA, Frame s e (.xballot h o) m [] ((List.range 4).map fun k => e.phys (o.d.toNat + k)) [] []) ∧
  (∀ o : FmtY, Frame s e (.time h o) m [sd o.d, o.d.toNat + 1 - 128] [] [] [] ∧ Frame s e (.cyc h o) m [sd o.d, o.d.toNat + 1 - 128] [] [] []) ∧
  (∀ o : FmtY, (srIsMatrix o.sr.toNat → e.x.owner) → e.srBusy false o.sr.toNat = false →
    Frame s e (.mfs h o) e.iu.lanes
      (if o.sr = 0 then [] else if (srKind o.sr.toNat).map Prod.fst = some 64 then [sd o.d, o.d.toNat + 1 - 128] else [sd o.d])
      (if o.sr = 0 then [e.phys o.d.toNat] else []) [] [])) ∧
  (∀ (s : State) (e : Env) (is : List Instr) (p : List Nat) (left : List (List Nat)), s.env = some e → (∀ i ∈ is, RegisterForm i) →
    ∃ u x y sp, s.openSplit e is p left = .next u ∧ u.block? e.iu.block = some x ∧ x.waves.find? e.iu.wave = some y ∧
      y.split = some sp ∧ sp.left = left ∧ sp.late = [] ∧ sp.iu.block = e.iu.block ∧ sp.iu.wave = e.iu.wave ∧
      Quiet { s with cur := none } u) ∧
  (∀ (s : State) (b w : Nat) (x : Block) (y : Wave) (sp : Split) (p : List Nat) (l : List (List Nat)),
    s.block? b = some x → x.waves.find? w = some y → sp.left = p :: l → sp.at' ≠ s.cycOf x.core →
    (l ≠ [] → ∃ u, s.nextPart b w x y sp = some (.next u, p) ∧ Quiet s u) ∧
    (l = [] → sp.late = [] → sp.iu.block = b → sp.iu.wave = w → sp.iu.held = false → sp.iu.raised = [] → countersFull y sp.iu.effs = false →
      (∀ f ∈ sp.iu.effs, f.onRegs = true) → ∃ u, s.nextPart b w x y sp = some (.next u, p) ∧ CommitsTo s u sp.iu y))

/-- R165, R240, R376: the end of a bundle changes no byte of memory but for a DEQ, whose packet reaches its buffer and nothing else, and
for the pages of the addresses it translated, where these were unbacked: with no address to bind, or none that takes a frame from a pool,
it changes none. -/
def Obligations.BundlesChangeMemoryOnlyByDequeue : Prop :=
  (∀ (s : State) (e : Env), s.env = some e → (∀ q off, Eff.dequeue q off ∉ e.iu.effs) →
    (e.iu.touch = [] ∨ ∀ d, (s.finish.die d).pools = (s.die d).pools) → SameMemory s s.finish) ∧
  (∀ (s : State) (iu : Issue) (x : Block) (q off : Nat) (n : NamedQueue) (p : List Byte) (ps : List (List Byte)),
    s.block? iu.block = some x → s.queue? q = some n → n.packets = p :: ps →
    let t := s.applyEff iu (.dequeue q off)
    let a := windowPa x.core (x.base + off)
    (∀ i, i < p.length → isMmio (a + i) = false → t.byte (a + i) = p.getD i 0) ∧ (∀ k, k < a ∨ a + p.length ≤ k → t.byte k = s.byte k) ∧
    t.queue? q = some { n with packets := ps } ∧ ∀ b w, t.regs? b w = s.regs? b w)

/-- R253, R260, R329, R332: a store that reaches its executing point, or its own core's scratchpad, writes its bytes and no other; one
that leaves for the fabric writes none; an atomic writes the new value of its location and no other byte, from what it read there, which
is unspecified where a TST of its block may still write it (R307); data that returns to a wave changes no byte and no other wave's register. -/
def Obligations.StoresAndAtomicsChangeOnlyTheirBytes : Prop := ∀ (s : State) (core k : Nat),
  let only (t : State) (pa : Nat) (bs : List Byte) : Prop :=
    (∀ i, i < bs.length → isMmio (pa + i) = false → t.byte (pa + i) = bs.getD i 0) ∧ (∀ a, a < pa ∨ pa + bs.length ≤ a → t.byte a = s.byte a) ∧
    (∀ b w, t.regs? b w = s.regs? b w) ∧ ∀ b, t.mtx? b = s.mtx? b
  (∀ f sp h pa bs, s.laneHead core k = some f → f.e.kind = .bytes sp h pa bs → region pa ≠ .none →
    s.dieGone pa = none → ∃ t, exec (.storePerform (.arrive core k)) s = .next t ∧ only t pa bs) ∧
  (∀ b w x y q r sp h pa bs, s.block? b = some x → s.wave? b w = some y → y.storeq = q :: r → q.kind = .bytes sp h pa bs →
    (q.rel = true → s.released x.core y q.sid q.scope = true) → s.primaryAhead q = false →
    ∃ t, exec (.storePerform (.leave b w)) s = .next t ∧ only t pa (if s.writesHere x.core pa then bs else [])) ∧
  (∀ f sp h pa n op a b lane dst, s.laneHead core k = some f → f.e.kind = .atomic sp h pa n op a b lane dst →
    region pa ≠ .none → region pa ≠ .host → s.dieGone pa = none → ∃ t old, exec (.atomicPerform core k) s = .next t ∧
      only t pa (leBytes n (atomicNew op n old a.toNat b.toNat)) ∧
      ((∀ i, i < n → s.tstOpen core f.block (pa + i) (some (f.wave, f.e.sid)) = false) → old = s.num pa n)) ∧
  (∀ b w, ∃ t, exec (.loadReturn b w k) s = .next t ∧ SameMemory s t ∧ (∀ a v, ¬(a = b ∧ v = w) → t.regs? a v = s.regs? a v) ∧
    ∀ b, t.mtx? b = s.mtx? b)

/-- R226, R236, R240: translating the addresses of an access changes no register, no matrix state and nothing of the bundle in hand; it
changes memory only where a first touch takes a frame from a pool. -/
def Obligations.TranslationKeepsRegisters : Prop := ∀ (s : State) (x : Block) (sp n : Nat) (k : XKind) (more : Place → Option XFault)
    (addr : Nat → Int × Nat) (uniform : Bool) (lanes : List Nat),
  let t := (s.placesOf x sp n k more addr uniform lanes).1
  (∀ b w, t.regs? b w = s.regs? b w) ∧ (∀ b, t.mtx? b = s.mtx? b) ∧ t.cur = s.cur ∧ t.time = s.time ∧ t.agenda = s.agenda ∧
  t.blocks = s.blocks ∧ ((∀ d, (t.die d).pools = (s.die d).pools) → t.mem = s.mem)

/-- Rows of the tables of events that answer a next state in which every wave has the registers it had, every block its matrix state,
and every byte of memory its value; a ring that accepts a send and a block that stops change no byte but in whether it is specified
(R270, R281, R393). -/
def Obligations.EventsKeepRegistersAndMemory : Prop := ∀ (s : State) (core k b w n : Nat) (v : BitVec 32) (tai : Nat),
  let keeps (i : Instr) : Prop := ∃ t, exec i s = .next t ∧ (∀ b w, t.regs? b w = s.regs? b w) ∧ (∀ b, t.mtx? b = s.mtx? b) ∧ SameMemory s t
  let keepsCells (i : Instr) : Prop := ∃ t, exec i s = .next t ∧ (∀ b w, t.regs? b w = s.regs? b w) ∧ (∀ b, t.mtx? b = s.mtx? b) ∧ t.mem = s.mem
  keepsCells (.ringAccept core k) ∧ keepsCells (.blockStop b) ∧
  keeps (.staleLineExpire core k) ∧ keeps (.cpytRelease core k) ∧ keeps (.srelDequeue core) ∧
  (∀ p, keeps (.streamRingPlace p)) ∧ keeps (.taskPush core) ∧ keeps (.enqArrive core) ∧ (∀ p, keeps (.namedQueueAssign p)) ∧
  keeps (.taskSteal core k) ∧ keeps (.stealRetry core) ∧ keeps (.waitSatisfied b w) ∧ keeps (.watchdog b w) ∧ keeps (.blockExit b) ∧
  (∀ p, keeps (.peerTimelineSignal p)) ∧ (∀ t, keeps (.preemptRequest t)) ∧ keeps (.shedPark b) ∧ keeps (.shedForced b) ∧
  keeps (.switchWithdraw b) ∧ keeps (.migrate core ⟨k, n⟩) ∧ keeps (.migrateRecheck core) ∧
  keeps (.droopAlarm k) ∧ keeps (.droopHalvingEnd k) ∧ (∀ i, keeps (.balanceSample k i)) ∧ keeps (.gatingStart k) ∧
  keeps (.gatingComplete k) ∧ keeps (.wakeComplete k) ∧ keeps (.thermalLimit k n) ∧ (∀ r, keeps (.shelfPoll r)) ∧ keeps (.clampCheck n) ∧
  keeps (.clockStep n) ∧ keeps .clampRelease ∧ (∀ l, keeps (.ptpLockChange l tai)) ∧ keeps .ppsInEdge ∧ keeps .ppsinExpire ∧
  keeps .ppsOut ∧ keeps .timerValid ∧ keeps (.grcmdInvalid v) ∧ keeps (.grcmdUnregister v) ∧ (∀ a, keeps (.eqlostClear a)) ∧
  (∀ a, keeps (.bar0BadAccess a)) ∧ keeps .attest ∧ (∀ w, keeps (.update w)) ∧ keeps .wdog ∧ keeps .dawnstate ∧
  keeps .mboxUnknownCommand ∧ keeps (.peerLinkUp k) ∧ keeps (.replayFinish k)

/-! ## Reset and the canonical memory -/

/-- R73 to R75, R78, R83, R85, R86, R90, R243, R400, R403, R405, R425, R426: what the manual gives for reset. The timer is 0 and not
valid, the kick FIFO has 64 free entries, there is no event ring, no graph and no launch, the device is in dawn service at 500 MHz with
every peer link down, the droop threshold is 40 mV, shelf polling is off, and the virtual dies map to themselves. The model's own are: that
ALARMS and TSTAT.LOCKED are 0 then (log entry 5), that no byte of memory is listed, each reading 0 (log entry 4), and that no bundle is in
hand and every TLB and cache is empty (log entry 5). -/
def Obligations.ResetState : Prop :=
  let r := State.reset
  r.time.now = 0 ∧ r.tstat = 0 ∧ r.status = 0x4001 ∧ r.host.eqsize = 0 ∧ r.host.kicks = [] ∧ r.graphs = [] ∧ r.replays = [] ∧
  r.launches = [] ∧ r.blocks = [] ∧ r.locked = [] ∧ r.mem = [] ∧ r.cur = none ∧ r.fw.peersUp = 0 ∧ r.power.en = false ∧
  r.disp.vd1 = 1 ∧ r.disp.vd2 = 2 ∧ r.disp.requests = [] ∧
  (∀ k, (r.cluster k).mhz = 500 ∧ (r.cluster k).thr = 40 ∧ (r.cluster k).alarms = 0) ∧ (∀ d, (r.die d).inService = true) ∧
  (∀ n, (r.core n).engineq = [] ∧ (r.core n).tlb = [] ∧ (r.core n).dcache = [] ∧ (r.core n).icache = [])

/-- The memory after reset stands in its canonical form, the model's own (log entry 4). -/
def Obligations.ResetMemoryIsCanonical : Prop := Canonical State.reset

/-- Every step from every state whose memory stands in its canonical form keeps that form; the form is the model's own (log entry 4). -/
def Obligations.StepsKeepMemoryCanonical : Prop := ∀ s t : State, Canonical s → step s = .next t → Canonical t
end

