-- ==== Sys2Proof/Laws/Table.lean ====
section
/-! SUPPORT. The laws of sparse tables: what a table reads as after it is written, and that every operation keeps the form of a table
(keys rising strictly, no default listed). -/

namespace Sys2Proof

variable {α : Type}

/-! ## Reads after writes -/

@[simp] theorem Table.find?_nil (k : Nat) : Table.find? ([] : Table α) k = none := rfl

theorem Table.find?_cons (j : Nat) (v : α) (t : Table α) (k : Nat) :
    Table.find? ((j, v) :: t) k = if k = j then some v else Table.find? t k := rfl

@[simp] theorem Table.find?_put_self (t : Table α) (k : Nat) (v : α) : Table.find? (Table.put t k v) k = some v := by
  induction t with
  | nil => simp [Table.put, Table.find?]
  | cons e t ih =>
    obtain ⟨j, w⟩ := e
    simp only [Table.put]
    split
    · simp [Table.find?]
    · split
      · simp [Table.find?]
      · simp [Table.find?, *]

theorem Table.find?_put_ne (t : Table α) {k j : Nat} (v : α) (h : j ≠ k) :
    Table.find? (Table.put t k v) j = Table.find? t j := by
  induction t with
  | nil => simp [Table.put, Table.find?, h]
  | cons e t ih =>
    obtain ⟨i, w⟩ := e
    simp only [Table.put]
    split
    · next hk => subst hk; simp [Table.find?, h]
    · split
      · simp [Table.find?, h]
      · simp [Table.find?, ih]

@[simp] theorem Table.find?_erase_self (t : Table α) (k : Nat) : Table.find? (Table.erase t k) k = none := by
  induction t with
  | nil => rfl
  | cons e t ih =>
    obtain ⟨i, w⟩ := e
    simp only [Table.erase, List.filter_cons] at ih ⊢
    by_cases hk : i = k
    · simpa [hk] using ih
    · have hk' : ¬k = i := fun h => hk h.symm
      simpa [hk, Table.find?, hk'] using ih

theorem Table.find?_erase_ne (t : Table α) {k j : Nat} (h : j ≠ k) : Table.find? (Table.erase t k) j = Table.find? t j := by
  induction t with
  | nil => rfl
  | cons e t ih =>
    obtain ⟨i, w⟩ := e
    simp only [Table.erase, List.filter_cons] at ih ⊢
    by_cases hk : i = k
    · have : ¬j = i := fun h' => h (h'.trans hk)
      simpa [hk, Table.find?, h] using ih
    · simp only [hk, ne_eq, not_false_eq_true, decide_true, if_true, Table.find?]
      rw [ih]

@[simp] theorem Table.get_nil (d : α) (k : Nat) : Table.get d [] k = d := rfl

@[simp] theorem Table.get_set_self [DecidableEq α] (d : α) (t : Table α) (k : Nat) (v : α) :
    Table.get d (Table.set d t k v) k = v := by
  unfold Table.get Table.set
  split
  · next h => simp [h]
  · simp

theorem Table.get_set_ne [DecidableEq α] (d : α) (t : Table α) {k j : Nat} (v : α) (h : j ≠ k) :
    Table.get d (Table.set d t k v) j = Table.get d t j := by
  unfold Table.get Table.set
  split
  · rw [Table.find?_erase_ne t h]
  · rw [Table.find?_put_ne t v h]

/-- A table entry as it reads after one write. -/
theorem Table.get_set [DecidableEq α] (d : α) (t : Table α) (k j : Nat) (v : α) :
    Table.get d (Table.set d t k v) j = if j = k then v else Table.get d t j := by
  split
  · next h => subst h; simp
  · next h => exact Table.get_set_ne d t v h

theorem Table.find?_put (t : Table α) (k j : Nat) (v : α) :
    Table.find? (Table.put t k v) j = if j = k then some v else Table.find? t j := by
  split
  · next h => subst h; simp
  · next h => exact Table.find?_put_ne t v h

theorem Table.find?_append (t u : Table α) (k : Nat) :
    Table.find? (t ++ u) k = (Table.find? t k).or (Table.find? u k) := by
  induction t with
  | nil => simp [Table.find?]
  | cons e t ih =>
    obtain ⟨i, w⟩ := e
    simp only [List.cons_append, Table.find?]
    split
    · rfl
    · exact ih

/-- A filter on keys leaves the keys it accepts as they read. -/
theorem Table.find?_filter (t : Table α) (p : Nat → Bool) (k : Nat) :
    Table.find? (List.filter (fun e => p e.1) t) k = if p k then Table.find? t k else none := by
  induction t with
  | nil => simp [Table.find?]
  | cons e t ih =>
    obtain ⟨i, w⟩ := e
    simp only [List.filter_cons]
    by_cases hp : p i
    · simp only [hp, if_true, Table.find?, ih]
      by_cases hk : k = i
      · subst hk; simp [hp]
      · simp [hk]
    · rw [if_neg hp, ih, Table.find?_cons]
      by_cases hk : k = i
      · subst hk; simp [hp]
      · simp [hk]

theorem Table.find?_map (f : Nat → α → α) (t : Table α) (k : Nat) :
    Table.find? (Table.map f t) k = (Table.find? t k).map (f k) := by
  induction t with
  | nil => rfl
  | cons e t ih =>
    obtain ⟨i, w⟩ := e
    simp only [Table.map, List.map_cons, Table.find?] at ih ⊢
    split
    · next h => subst h; rfl
    · exact ih

/-! ## The form of a table -/

theorem Table.above_iff (lo : Nat) (t : Table α) :
    Table.above lo t = true ↔ (∀ e ∈ t, lo < e.1) ∧ List.Pairwise (fun a b => a.1 < b.1) t := by
  induction t generalizing lo with
  | nil => simp [Table.above]
  | cons e t ih =>
    obtain ⟨j, w⟩ := e
    simp only [Table.above, Bool.and_eq_true, decide_eq_true_eq, List.pairwise_cons, List.mem_cons, forall_eq_or_imp, ih]
    constructor
    · rintro ⟨h1, h2, h3⟩
      exact ⟨⟨h1, fun e he => Nat.lt_trans h1 (h2 e he)⟩, h2, h3⟩
    · rintro ⟨⟨h1, _⟩, h2, h3⟩
      exact ⟨h1, h2, h3⟩

/-- A table's keys rise strictly. -/
theorem Table.sorted_iff (t : Table α) : Table.sorted t = true ↔ List.Pairwise (fun a b => a.1 < b.1) t := by
  cases t with
  | nil => simp [Table.sorted]
  | cons e t =>
    obtain ⟨j, w⟩ := e
    simp [Table.sorted, Table.above_iff, List.pairwise_cons]

theorem Table.sorted_filter (t : Table α) (p : Nat × α → Bool) (h : Table.sorted t = true) :
    Table.sorted (List.filter p t) = true := by
  rw [Table.sorted_iff] at h ⊢
  exact h.sublist List.filter_sublist

theorem Table.mem_put (t : Table α) (k : Nat) (v : α) (e : Nat × α) (h : e ∈ Table.put t k v) : e = (k, v) ∨ e ∈ t := by
  induction t with
  | nil => simpa [Table.put] using h
  | cons a t ih =>
    obtain ⟨j, w⟩ := a
    simp only [Table.put] at h
    split at h
    · rcases List.mem_cons.1 h with h | h
      · exact .inl h
      · exact .inr (List.mem_cons_of_mem _ h)
    · split at h
      · rcases List.mem_cons.1 h with h | h
        · exact .inl h
        · exact .inr h
      · rcases List.mem_cons.1 h with h | h
        · exact .inr (h ▸ List.mem_cons_self)
        · rcases ih h with h | h
          · exact .inl h
          · exact .inr (List.mem_cons_of_mem _ h)

theorem Table.sorted_put (t : Table α) (k : Nat) (v : α) (h : Table.sorted t = true) : Table.sorted (Table.put t k v) = true := by
  rw [Table.sorted_iff] at h ⊢
  induction t with
  | nil => simp [Table.put]
  | cons a t ih =>
    obtain ⟨j, w⟩ := a
    obtain ⟨h1, h2⟩ := List.pairwise_cons.1 h
    simp only [Table.put]
    split
    · next hk => subst hk; exact List.pairwise_cons.2 ⟨h1, h2⟩
    · split
      · next hk hlt =>
        refine List.pairwise_cons.2 ⟨fun e he => ?_, h⟩
        rcases List.mem_cons.1 he with he | he
        · subst he; exact hlt
        · exact Nat.lt_trans hlt (h1 e he)
      · next hk hlt =>
        refine List.pairwise_cons.2 ⟨fun e he => ?_, ih h2⟩
        rcases Table.mem_put t k v e he with he | he
        · subst he; show j < k; omega
        · exact h1 e he

theorem Table.sorted_set [DecidableEq α] (d : α) (t : Table α) (k : Nat) (v : α) (h : Table.sorted t = true) :
    Table.sorted (Table.set d t k v) = true := by
  unfold Table.set
  split
  · exact Table.sorted_filter t _ h
  · exact Table.sorted_put t k v h

theorem Table.lean_filter [DecidableEq α] (d : α) (t : Table α) (p : Nat × α → Bool) (h : Table.lean d t = true) :
    Table.lean d (List.filter p t) = true := by
  simp only [Table.lean, List.all_eq_true] at h ⊢
  exact fun e he => h e (List.mem_filter.1 he).1

theorem Table.lean_set [DecidableEq α] (d : α) (t : Table α) (k : Nat) (v : α) (h : Table.lean d t = true) :
    Table.lean d (Table.set d t k v) = true := by
  unfold Table.set
  split
  · exact Table.lean_filter d t _ h
  · next hv =>
    simp only [Table.lean, List.all_eq_true] at h ⊢
    intro e he
    rcases Table.mem_put t k v e he with he | he
    · subst he; simpa using hv
    · exact h e he

end Sys2Proof
end

