-- ==== Sys2Proof/Laws/State.lean ====
section
/-! SUPPORT. One lemma per named update and per field of State that the update leaves, and what the parts of the state read as
after an update of the same kind. -/

namespace Sys2Proof.Machine

variable (s : State)


/-! ## setBlock -/

@[simp] theorem State.setBlock_agenda (b : Nat) (x : Block) : (s.setBlock b x).agenda = s.agenda := rfl
@[simp] theorem State.setBlock_turn (b : Nat) (x : Block) : (s.setBlock b x).turn = s.turn := rfl
@[simp] theorem State.setBlock_steps (b : Nat) (x : Block) : (s.setBlock b x).steps = s.steps := rfl
@[simp] theorem State.setBlock_partner (b : Nat) (x : Block) : (s.setBlock b x).partner = s.partner := rfl
@[simp] theorem State.setBlock_cur (b : Nat) (x : Block) : (s.setBlock b x).cur = s.cur := rfl
@[simp] theorem State.setBlock_time (b : Nat) (x : Block) : (s.setBlock b x).time = s.time := rfl
@[simp] theorem State.setBlock_host (b : Nat) (x : Block) : (s.setBlock b x).host = s.host := rfl
@[simp] theorem State.setBlock_disp (b : Nat) (x : Block) : (s.setBlock b x).disp = s.disp := rfl
@[simp] theorem State.setBlock_power (b : Nat) (x : Block) : (s.setBlock b x).power = s.power := rfl
@[simp] theorem State.setBlock_fw (b : Nat) (x : Block) : (s.setBlock b x).fw = s.fw := rfl
@[simp] theorem State.setBlock_cores (b : Nat) (x : Block) : (s.setBlock b x).cores = s.cores := rfl
@[simp] theorem State.setBlock_clusters (b : Nat) (x : Block) : (s.setBlock b x).clusters = s.clusters := rfl
@[simp] theorem State.setBlock_dies (b : Nat) (x : Block) : (s.setBlock b x).dies = s.dies := rfl
@[simp] theorem State.setBlock_mem (b : Nat) (x : Block) : (s.setBlock b x).mem = s.mem := rfl
@[simp] theorem State.setBlock_unspec (b : Nat) (x : Block) : (s.setBlock b x).unspec = s.unspec := rfl
@[simp] theorem State.setBlock_poison (b : Nat) (x : Block) : (s.setBlock b x).poison = s.poison := rfl
@[simp] theorem State.setBlock_memErr (b : Nat) (x : Block) : (s.setBlock b x).memErr = s.memErr := rfl
@[simp] theorem State.setBlock_sramErr (b : Nat) (x : Block) : (s.setBlock b x).sramErr = s.sramErr := rfl
@[simp] theorem State.setBlock_tags (b : Nat) (x : Block) : (s.setBlock b x).tags = s.tags := rfl
@[simp] theorem State.setBlock_locked (b : Nat) (x : Block) : (s.setBlock b x).locked = s.locked := rfl
@[simp] theorem State.setBlock_ctxs (b : Nat) (x : Block) : (s.setBlock b x).ctxs = s.ctxs := rfl
@[simp] theorem State.setBlock_updates (b : Nat) (x : Block) : (s.setBlock b x).updates = s.updates := rfl
@[simp] theorem State.setBlock_timelines (b : Nat) (x : Block) : (s.setBlock b x).timelines = s.timelines := rfl
@[simp] theorem State.setBlock_graphs (b : Nat) (x : Block) : (s.setBlock b x).graphs = s.graphs := rfl
@[simp] theorem State.setBlock_replays (b : Nat) (x : Block) : (s.setBlock b x).replays = s.replays := rfl
@[simp] theorem State.setBlock_launches (b : Nat) (x : Block) : (s.setBlock b x).launches = s.launches := rfl
@[simp] theorem State.setBlock_images (b : Nat) (x : Block) : (s.setBlock b x).images = s.images := rfl

/-! ## dropBlock -/

@[simp] theorem State.dropBlock_agenda (b : Nat) : (s.dropBlock b).agenda = s.agenda := rfl
@[simp] theorem State.dropBlock_turn (b : Nat) : (s.dropBlock b).turn = s.turn := rfl
@[simp] theorem State.dropBlock_steps (b : Nat) : (s.dropBlock b).steps = s.steps := rfl
@[simp] theorem State.dropBlock_partner (b : Nat) : (s.dropBlock b).partner = s.partner := rfl
@[simp] theorem State.dropBlock_cur (b : Nat) : (s.dropBlock b).cur = s.cur := rfl
@[simp] theorem State.dropBlock_time (b : Nat) : (s.dropBlock b).time = s.time := rfl
@[simp] theorem State.dropBlock_host (b : Nat) : (s.dropBlock b).host = s.host := rfl
@[simp] theorem State.dropBlock_disp (b : Nat) : (s.dropBlock b).disp = s.disp := rfl
@[simp] theorem State.dropBlock_power (b : Nat) : (s.dropBlock b).power = s.power := rfl
@[simp] theorem State.dropBlock_fw (b : Nat) : (s.dropBlock b).fw = s.fw := rfl
@[simp] theorem State.dropBlock_cores (b : Nat) : (s.dropBlock b).cores = s.cores := rfl
@[simp] theorem State.dropBlock_clusters (b : Nat) : (s.dropBlock b).clusters = s.clusters := rfl
@[simp] theorem State.dropBlock_dies (b : Nat) : (s.dropBlock b).dies = s.dies := rfl
@[simp] theorem State.dropBlock_mem (b : Nat) : (s.dropBlock b).mem = s.mem := rfl
@[simp] theorem State.dropBlock_unspec (b : Nat) : (s.dropBlock b).unspec = s.unspec := rfl
@[simp] theorem State.dropBlock_poison (b : Nat) : (s.dropBlock b).poison = s.poison := rfl
@[simp] theorem State.dropBlock_memErr (b : Nat) : (s.dropBlock b).memErr = s.memErr := rfl
@[simp] theorem State.dropBlock_sramErr (b : Nat) : (s.dropBlock b).sramErr = s.sramErr := rfl
@[simp] theorem State.dropBlock_tags (b : Nat) : (s.dropBlock b).tags = s.tags := rfl
@[simp] theorem State.dropBlock_locked (b : Nat) : (s.dropBlock b).locked = s.locked := rfl
@[simp] theorem State.dropBlock_ctxs (b : Nat) : (s.dropBlock b).ctxs = s.ctxs := rfl
@[simp] theorem State.dropBlock_updates (b : Nat) : (s.dropBlock b).updates = s.updates := rfl
@[simp] theorem State.dropBlock_timelines (b : Nat) : (s.dropBlock b).timelines = s.timelines := rfl
@[simp] theorem State.dropBlock_graphs (b : Nat) : (s.dropBlock b).graphs = s.graphs := rfl
@[simp] theorem State.dropBlock_replays (b : Nat) : (s.dropBlock b).replays = s.replays := rfl
@[simp] theorem State.dropBlock_launches (b : Nat) : (s.dropBlock b).launches = s.launches := rfl
@[simp] theorem State.dropBlock_images (b : Nat) : (s.dropBlock b).images = s.images := rfl

/-! ## modBlock -/

@[simp] theorem State.modBlock_agenda (b : Nat) (f : Block → Block) : (s.modBlock b f).agenda = s.agenda := by unfold State.modBlock; split <;> rfl
@[simp] theorem State.modBlock_turn (b : Nat) (f : Block → Block) : (s.modBlock b f).turn = s.turn := by unfold State.modBlock; split <;> rfl
@[simp] theorem State.modBlock_steps (b : Nat) (f : Block → Block) : (s.modBlock b f).steps = s.steps := by unfold State.modBlock; split <;> rfl
@[simp] theorem State.modBlock_partner (b : Nat) (f : Block → Block) : (s.modBlock b f).partner = s.partner := by unfold State.modBlock; split <;> rfl
@[simp] theorem State.modBlock_cur (b : Nat) (f : Block → Block) : (s.modBlock b f).cur = s.cur := by unfold State.modBlock; split <;> rfl
@[simp] theorem State.modBlock_time (b : Nat) (f : Block → Block) : (s.modBlock b f).time = s.time := by unfold State.modBlock; split <;> rfl
@[simp] theorem State.modBlock_host (b : Nat) (f : Block → Block) : (s.modBlock b f).host = s.host := by unfold State.modBlock; split <;> rfl
@[simp] theorem State.modBlock_disp (b : Nat) (f : Block → Block) : (s.modBlock b f).disp = s.disp := by unfold State.modBlock; split <;> rfl
@[simp] theorem State.modBlock_power (b : Nat) (f : Block → Block) : (s.modBlock b f).power = s.power := by unfold State.modBlock; split <;> rfl
@[simp] theorem State.modBlock_fw (b : Nat) (f : Block → Block) : (s.modBlock b f).fw = s.fw := by unfold State.modBlock; split <;> rfl
@[simp] theorem State.modBlock_cores (b : Nat) (f : Block → Block) : (s.modBlock b f).cores = s.cores := by unfold State.modBlock; split <;> rfl
@[simp] theorem State.modBlock_clusters (b : Nat) (f : Block → Block) : (s.modBlock b f).clusters = s.clusters := by unfold State.modBlock; split <;> rfl
@[simp] theorem State.modBlock_dies (b : Nat) (f : Block → Block) : (s.modBlock b f).dies = s.dies := by unfold State.modBlock; split <;> rfl
@[simp] theorem State.modBlock_mem (b : Nat) (f : Block → Block) : (s.modBlock b f).mem = s.mem := by unfold State.modBlock; split <;> rfl
@[simp] theorem State.modBlock_unspec (b : Nat) (f : Block → Block) : (s.modBlock b f).unspec = s.unspec := by unfold State.modBlock; split <;> rfl
@[simp] theorem State.modBlock_poison (b : Nat) (f : Block → Block) : (s.modBlock b f).poison = s.poison := by unfold State.modBlock; split <;> rfl
@[simp] theorem State.modBlock_memErr (b : Nat) (f : Block → Block) : (s.modBlock b f).memErr = s.memErr := by unfold State.modBlock; split <;> rfl
@[simp] theorem State.modBlock_sramErr (b : Nat) (f : Block → Block) : (s.modBlock b f).sramErr = s.sramErr := by unfold State.modBlock; split <;> rfl
@[simp] theorem State.modBlock_tags (b : Nat) (f : Block → Block) : (s.modBlock b f).tags = s.tags := by unfold State.modBlock; split <;> rfl
@[simp] theorem State.modBlock_locked (b : Nat) (f : Block → Block) : (s.modBlock b f).locked = s.locked := by unfold State.modBlock; split <;> rfl
@[simp] theorem State.modBlock_ctxs (b : Nat) (f : Block → Block) : (s.modBlock b f).ctxs = s.ctxs := by unfold State.modBlock; split <;> rfl
@[simp] theorem State.modBlock_updates (b : Nat) (f : Block → Block) : (s.modBlock b f).updates = s.updates := by unfold State.modBlock; split <;> rfl
@[simp] theorem State.modBlock_timelines (b : Nat) (f : Block → Block) : (s.modBlock b f).timelines = s.timelines := by unfold State.modBlock; split <;> rfl
@[simp] theorem State.modBlock_graphs (b : Nat) (f : Block → Block) : (s.modBlock b f).graphs = s.graphs := by unfold State.modBlock; split <;> rfl
@[simp] theorem State.modBlock_replays (b : Nat) (f : Block → Block) : (s.modBlock b f).replays = s.replays := by unfold State.modBlock; split <;> rfl
@[simp] theorem State.modBlock_launches (b : Nat) (f : Block → Block) : (s.modBlock b f).launches = s.launches := by unfold State.modBlock; split <;> rfl
@[simp] theorem State.modBlock_images (b : Nat) (f : Block → Block) : (s.modBlock b f).images = s.images := by unfold State.modBlock; split <;> rfl

/-! ## setWave -/

@[simp] theorem State.setWave_agenda (b w : Nat) (y : Wave) : (s.setWave b w y).agenda = s.agenda := State.modBlock_agenda s b _
@[simp] theorem State.setWave_turn (b w : Nat) (y : Wave) : (s.setWave b w y).turn = s.turn := State.modBlock_turn s b _
@[simp] theorem State.setWave_steps (b w : Nat) (y : Wave) : (s.setWave b w y).steps = s.steps := State.modBlock_steps s b _
@[simp] theorem State.setWave_partner (b w : Nat) (y : Wave) : (s.setWave b w y).partner = s.partner := State.modBlock_partner s b _
@[simp] theorem State.setWave_cur (b w : Nat) (y : Wave) : (s.setWave b w y).cur = s.cur := State.modBlock_cur s b _
@[simp] theorem State.setWave_time (b w : Nat) (y : Wave) : (s.setWave b w y).time = s.time := State.modBlock_time s b _
@[simp] theorem State.setWave_host (b w : Nat) (y : Wave) : (s.setWave b w y).host = s.host := State.modBlock_host s b _
@[simp] theorem State.setWave_disp (b w : Nat) (y : Wave) : (s.setWave b w y).disp = s.disp := State.modBlock_disp s b _
@[simp] theorem State.setWave_power (b w : Nat) (y : Wave) : (s.setWave b w y).power = s.power := State.modBlock_power s b _
@[simp] theorem State.setWave_fw (b w : Nat) (y : Wave) : (s.setWave b w y).fw = s.fw := State.modBlock_fw s b _
@[simp] theorem State.setWave_cores (b w : Nat) (y : Wave) : (s.setWave b w y).cores = s.cores := State.modBlock_cores s b _
@[simp] theorem State.setWave_clusters (b w : Nat) (y : Wave) : (s.setWave b w y).clusters = s.clusters := State.modBlock_clusters s b _
@[simp] theorem State.setWave_dies (b w : Nat) (y : Wave) : (s.setWave b w y).dies = s.dies := State.modBlock_dies s b _
@[simp] theorem State.setWave_mem (b w : Nat) (y : Wave) : (s.setWave b w y).mem = s.mem := State.modBlock_mem s b _
@[simp] theorem State.setWave_unspec (b w : Nat) (y : Wave) : (s.setWave b w y).unspec = s.unspec := State.modBlock_unspec s b _
@[simp] theorem State.setWave_poison (b w : Nat) (y : Wave) : (s.setWave b w y).poison = s.poison := State.modBlock_poison s b _
@[simp] theorem State.setWave_memErr (b w : Nat) (y : Wave) : (s.setWave b w y).memErr = s.memErr := State.modBlock_memErr s b _
@[simp] theorem State.setWave_sramErr (b w : Nat) (y : Wave) : (s.setWave b w y).sramErr = s.sramErr := State.modBlock_sramErr s b _
@[simp] theorem State.setWave_tags (b w : Nat) (y : Wave) : (s.setWave b w y).tags = s.tags := State.modBlock_tags s b _
@[simp] theorem State.setWave_locked (b w : Nat) (y : Wave) : (s.setWave b w y).locked = s.locked := State.modBlock_locked s b _
@[simp] theorem State.setWave_ctxs (b w : Nat) (y : Wave) : (s.setWave b w y).ctxs = s.ctxs := State.modBlock_ctxs s b _
@[simp] theorem State.setWave_updates (b w : Nat) (y : Wave) : (s.setWave b w y).updates = s.updates := State.modBlock_updates s b _
@[simp] theorem State.setWave_timelines (b w : Nat) (y : Wave) : (s.setWave b w y).timelines = s.timelines := State.modBlock_timelines s b _
@[simp] theorem State.setWave_graphs (b w : Nat) (y : Wave) : (s.setWave b w y).graphs = s.graphs := State.modBlock_graphs s b _
@[simp] theorem State.setWave_replays (b w : Nat) (y : Wave) : (s.setWave b w y).replays = s.replays := State.modBlock_replays s b _
@[simp] theorem State.setWave_launches (b w : Nat) (y : Wave) : (s.setWave b w y).launches = s.launches := State.modBlock_launches s b _
@[simp] theorem State.setWave_images (b w : Nat) (y : Wave) : (s.setWave b w y).images = s.images := State.modBlock_images s b _

/-! ## modWave -/

@[simp] theorem State.modWave_agenda (b w : Nat) (f : Wave → Wave) : (s.modWave b w f).agenda = s.agenda := by unfold State.modWave; split <;> simp
@[simp] theorem State.modWave_turn (b w : Nat) (f : Wave → Wave) : (s.modWave b w f).turn = s.turn := by unfold State.modWave; split <;> simp
@[simp] theorem State.modWave_steps (b w : Nat) (f : Wave → Wave) : (s.modWave b w f).steps = s.steps := by unfold State.modWave; split <;> simp
@[simp] theorem State.modWave_partner (b w : Nat) (f : Wave → Wave) : (s.modWave b w f).partner = s.partner := by unfold State.modWave; split <;> simp
@[simp] theorem State.modWave_cur (b w : Nat) (f : Wave → Wave) : (s.modWave b w f).cur = s.cur := by unfold State.modWave; split <;> simp
@[simp] theorem State.modWave_time (b w : Nat) (f : Wave → Wave) : (s.modWave b w f).time = s.time := by unfold State.modWave; split <;> simp
@[simp] theorem State.modWave_host (b w : Nat) (f : Wave → Wave) : (s.modWave b w f).host = s.host := by unfold State.modWave; split <;> simp
@[simp] theorem State.modWave_disp (b w : Nat) (f : Wave → Wave) : (s.modWave b w f).disp = s.disp := by unfold State.modWave; split <;> simp
@[simp] theorem State.modWave_power (b w : Nat) (f : Wave → Wave) : (s.modWave b w f).power = s.power := by unfold State.modWave; split <;> simp
@[simp] theorem State.modWave_fw (b w : Nat) (f : Wave → Wave) : (s.modWave b w f).fw = s.fw := by unfold State.modWave; split <;> simp
@[simp] theorem State.modWave_cores (b w : Nat) (f : Wave → Wave) : (s.modWave b w f).cores = s.cores := by unfold State.modWave; split <;> simp
@[simp] theorem State.modWave_clusters (b w : Nat) (f : Wave → Wave) : (s.modWave b w f).clusters = s.clusters := by unfold State.modWave; split <;> simp
@[simp] theorem State.modWave_dies (b w : Nat) (f : Wave → Wave) : (s.modWave b w f).dies = s.dies := by unfold State.modWave; split <;> simp
@[simp] theorem State.modWave_mem (b w : Nat) (f : Wave → Wave) : (s.modWave b w f).mem = s.mem := by unfold State.modWave; split <;> simp
@[simp] theorem State.modWave_unspec (b w : Nat) (f : Wave → Wave) : (s.modWave b w f).unspec = s.unspec := by unfold State.modWave; split <;> simp
@[simp] theorem State.modWave_poison (b w : Nat) (f : Wave → Wave) : (s.modWave b w f).poison = s.poison := by unfold State.modWave; split <;> simp
@[simp] theorem State.modWave_memErr (b w : Nat) (f : Wave → Wave) : (s.modWave b w f).memErr = s.memErr := by unfold State.modWave; split <;> simp
@[simp] theorem State.modWave_sramErr (b w : Nat) (f : Wave → Wave) : (s.modWave b w f).sramErr = s.sramErr := by unfold State.modWave; split <;> simp
@[simp] theorem State.modWave_tags (b w : Nat) (f : Wave → Wave) : (s.modWave b w f).tags = s.tags := by unfold State.modWave; split <;> simp
@[simp] theorem State.modWave_locked (b w : Nat) (f : Wave → Wave) : (s.modWave b w f).locked = s.locked := by unfold State.modWave; split <;> simp
@[simp] theorem State.modWave_ctxs (b w : Nat) (f : Wave → Wave) : (s.modWave b w f).ctxs = s.ctxs := by unfold State.modWave; split <;> simp
@[simp] theorem State.modWave_updates (b w : Nat) (f : Wave → Wave) : (s.modWave b w f).updates = s.updates := by unfold State.modWave; split <;> simp
@[simp] theorem State.modWave_timelines (b w : Nat) (f : Wave → Wave) : (s.modWave b w f).timelines = s.timelines := by unfold State.modWave; split <;> simp
@[simp] theorem State.modWave_graphs (b w : Nat) (f : Wave → Wave) : (s.modWave b w f).graphs = s.graphs := by unfold State.modWave; split <;> simp
@[simp] theorem State.modWave_replays (b w : Nat) (f : Wave → Wave) : (s.modWave b w f).replays = s.replays := by unfold State.modWave; split <;> simp
@[simp] theorem State.modWave_launches (b w : Nat) (f : Wave → Wave) : (s.modWave b w f).launches = s.launches := by unfold State.modWave; split <;> simp
@[simp] theorem State.modWave_images (b w : Nat) (f : Wave → Wave) : (s.modWave b w f).images = s.images := by unfold State.modWave; split <;> simp

/-! ## setCore -/

@[simp] theorem State.setCore_agenda (n : Nat) (c : CoreSt) : (s.setCore n c).agenda = s.agenda := rfl
@[simp] theorem State.setCore_turn (n : Nat) (c : CoreSt) : (s.setCore n c).turn = s.turn := rfl
@[simp] theorem State.setCore_steps (n : Nat) (c : CoreSt) : (s.setCore n c).steps = s.steps := rfl
@[simp] theorem State.setCore_partner (n : Nat) (c : CoreSt) : (s.setCore n c).partner = s.partner := rfl
@[simp] theorem State.setCore_cur (n : Nat) (c : CoreSt) : (s.setCore n c).cur = s.cur := rfl
@[simp] theorem State.setCore_time (n : Nat) (c : CoreSt) : (s.setCore n c).time = s.time := rfl
@[simp] theorem State.setCore_host (n : Nat) (c : CoreSt) : (s.setCore n c).host = s.host := rfl
@[simp] theorem State.setCore_disp (n : Nat) (c : CoreSt) : (s.setCore n c).disp = s.disp := rfl
@[simp] theorem State.setCore_power (n : Nat) (c : CoreSt) : (s.setCore n c).power = s.power := rfl
@[simp] theorem State.setCore_fw (n : Nat) (c : CoreSt) : (s.setCore n c).fw = s.fw := rfl
@[simp] theorem State.setCore_blocks (n : Nat) (c : CoreSt) : (s.setCore n c).blocks = s.blocks := rfl
@[simp] theorem State.setCore_clusters (n : Nat) (c : CoreSt) : (s.setCore n c).clusters = s.clusters := rfl
@[simp] theorem State.setCore_dies (n : Nat) (c : CoreSt) : (s.setCore n c).dies = s.dies := rfl
@[simp] theorem State.setCore_mem (n : Nat) (c : CoreSt) : (s.setCore n c).mem = s.mem := rfl
@[simp] theorem State.setCore_unspec (n : Nat) (c : CoreSt) : (s.setCore n c).unspec = s.unspec := rfl
@[simp] theorem State.setCore_poison (n : Nat) (c : CoreSt) : (s.setCore n c).poison = s.poison := rfl
@[simp] theorem State.setCore_memErr (n : Nat) (c : CoreSt) : (s.setCore n c).memErr = s.memErr := rfl
@[simp] theorem State.setCore_sramErr (n : Nat) (c : CoreSt) : (s.setCore n c).sramErr = s.sramErr := rfl
@[simp] theorem State.setCore_tags (n : Nat) (c : CoreSt) : (s.setCore n c).tags = s.tags := rfl
@[simp] theorem State.setCore_locked (n : Nat) (c : CoreSt) : (s.setCore n c).locked = s.locked := rfl
@[simp] theorem State.setCore_ctxs (n : Nat) (c : CoreSt) : (s.setCore n c).ctxs = s.ctxs := rfl
@[simp] theorem State.setCore_updates (n : Nat) (c : CoreSt) : (s.setCore n c).updates = s.updates := rfl
@[simp] theorem State.setCore_timelines (n : Nat) (c : CoreSt) : (s.setCore n c).timelines = s.timelines := rfl
@[simp] theorem State.setCore_graphs (n : Nat) (c : CoreSt) : (s.setCore n c).graphs = s.graphs := rfl
@[simp] theorem State.setCore_replays (n : Nat) (c : CoreSt) : (s.setCore n c).replays = s.replays := rfl
@[simp] theorem State.setCore_launches (n : Nat) (c : CoreSt) : (s.setCore n c).launches = s.launches := rfl
@[simp] theorem State.setCore_images (n : Nat) (c : CoreSt) : (s.setCore n c).images = s.images := rfl

/-! ## modCore -/

@[simp] theorem State.modCore_agenda (n : Nat) (f : CoreSt → CoreSt) : (s.modCore n f).agenda = s.agenda := rfl
@[simp] theorem State.modCore_turn (n : Nat) (f : CoreSt → CoreSt) : (s.modCore n f).turn = s.turn := rfl
@[simp] theorem State.modCore_steps (n : Nat) (f : CoreSt → CoreSt) : (s.modCore n f).steps = s.steps := rfl
@[simp] theorem State.modCore_partner (n : Nat) (f : CoreSt → CoreSt) : (s.modCore n f).partner = s.partner := rfl
@[simp] theorem State.modCore_cur (n : Nat) (f : CoreSt → CoreSt) : (s.modCore n f).cur = s.cur := rfl
@[simp] theorem State.modCore_time (n : Nat) (f : CoreSt → CoreSt) : (s.modCore n f).time = s.time := rfl
@[simp] theorem State.modCore_host (n : Nat) (f : CoreSt → CoreSt) : (s.modCore n f).host = s.host := rfl
@[simp] theorem State.modCore_disp (n : Nat) (f : CoreSt → CoreSt) : (s.modCore n f).disp = s.disp := rfl
@[simp] theorem State.modCore_power (n : Nat) (f : CoreSt → CoreSt) : (s.modCore n f).power = s.power := rfl
@[simp] theorem State.modCore_fw (n : Nat) (f : CoreSt → CoreSt) : (s.modCore n f).fw = s.fw := rfl
@[simp] theorem State.modCore_blocks (n : Nat) (f : CoreSt → CoreSt) : (s.modCore n f).blocks = s.blocks := rfl
@[simp] theorem State.modCore_clusters (n : Nat) (f : CoreSt → CoreSt) : (s.modCore n f).clusters = s.clusters := rfl
@[simp] theorem State.modCore_dies (n : Nat) (f : CoreSt → CoreSt) : (s.modCore n f).dies = s.dies := rfl
@[simp] theorem State.modCore_mem (n : Nat) (f : CoreSt → CoreSt) : (s.modCore n f).mem = s.mem := rfl
@[simp] theorem State.modCore_unspec (n : Nat) (f : CoreSt → CoreSt) : (s.modCore n f).unspec = s.unspec := rfl
@[simp] theorem State.modCore_poison (n : Nat) (f : CoreSt → CoreSt) : (s.modCore n f).poison = s.poison := rfl
@[simp] theorem State.modCore_memErr (n : Nat) (f : CoreSt → CoreSt) : (s.modCore n f).memErr = s.memErr := rfl
@[simp] theorem State.modCore_sramErr (n : Nat) (f : CoreSt → CoreSt) : (s.modCore n f).sramErr = s.sramErr := rfl
@[simp] theorem State.modCore_tags (n : Nat) (f : CoreSt → CoreSt) : (s.modCore n f).tags = s.tags := rfl
@[simp] theorem State.modCore_locked (n : Nat) (f : CoreSt → CoreSt) : (s.modCore n f).locked = s.locked := rfl
@[simp] theorem State.modCore_ctxs (n : Nat) (f : CoreSt → CoreSt) : (s.modCore n f).ctxs = s.ctxs := rfl
@[simp] theorem State.modCore_updates (n : Nat) (f : CoreSt → CoreSt) : (s.modCore n f).updates = s.updates := rfl
@[simp] theorem State.modCore_timelines (n : Nat) (f : CoreSt → CoreSt) : (s.modCore n f).timelines = s.timelines := rfl
@[simp] theorem State.modCore_graphs (n : Nat) (f : CoreSt → CoreSt) : (s.modCore n f).graphs = s.graphs := rfl
@[simp] theorem State.modCore_replays (n : Nat) (f : CoreSt → CoreSt) : (s.modCore n f).replays = s.replays := rfl
@[simp] theorem State.modCore_launches (n : Nat) (f : CoreSt → CoreSt) : (s.modCore n f).launches = s.launches := rfl
@[simp] theorem State.modCore_images (n : Nat) (f : CoreSt → CoreSt) : (s.modCore n f).images = s.images := rfl

/-! ## setCluster -/

@[simp] theorem State.setCluster_agenda (n : Nat) (c : Cluster) : (s.setCluster n c).agenda = s.agenda := rfl
@[simp] theorem State.setCluster_turn (n : Nat) (c : Cluster) : (s.setCluster n c).turn = s.turn := rfl
@[simp] theorem State.setCluster_steps (n : Nat) (c : Cluster) : (s.setCluster n c).steps = s.steps := rfl
@[simp] theorem State.setCluster_partner (n : Nat) (c : Cluster) : (s.setCluster n c).partner = s.partner := rfl
@[simp] theorem State.setCluster_cur (n : Nat) (c : Cluster) : (s.setCluster n c).cur = s.cur := rfl
@[simp] theorem State.setCluster_time (n : Nat) (c : Cluster) : (s.setCluster n c).time = s.time := rfl
@[simp] theorem State.setCluster_host (n : Nat) (c : Cluster) : (s.setCluster n c).host = s.host := rfl
@[simp] theorem State.setCluster_disp (n : Nat) (c : Cluster) : (s.setCluster n c).disp = s.disp := rfl
@[simp] theorem State.setCluster_power (n : Nat) (c : Cluster) : (s.setCluster n c).power = s.power := rfl
@[simp] theorem State.setCluster_fw (n : Nat) (c : Cluster) : (s.setCluster n c).fw = s.fw := rfl
@[simp] theorem State.setCluster_blocks (n : Nat) (c : Cluster) : (s.setCluster n c).blocks = s.blocks := rfl
@[simp] theorem State.setCluster_cores (n : Nat) (c : Cluster) : (s.setCluster n c).cores = s.cores := rfl
@[simp] theorem State.setCluster_dies (n : Nat) (c : Cluster) : (s.setCluster n c).dies = s.dies := rfl
@[simp] theorem State.setCluster_mem (n : Nat) (c : Cluster) : (s.setCluster n c).mem = s.mem := rfl
@[simp] theorem State.setCluster_unspec (n : Nat) (c : Cluster) : (s.setCluster n c).unspec = s.unspec := rfl
@[simp] theorem State.setCluster_poison (n : Nat) (c : Cluster) : (s.setCluster n c).poison = s.poison := rfl
@[simp] theorem State.setCluster_memErr (n : Nat) (c : Cluster) : (s.setCluster n c).memErr = s.memErr := rfl
@[simp] theorem State.setCluster_sramErr (n : Nat) (c : Cluster) : (s.setCluster n c).sramErr = s.sramErr := rfl
@[simp] theorem State.setCluster_tags (n : Nat) (c : Cluster) : (s.setCluster n c).tags = s.tags := rfl
@[simp] theorem State.setCluster_locked (n : Nat) (c : Cluster) : (s.setCluster n c).locked = s.locked := rfl
@[simp] theorem State.setCluster_ctxs (n : Nat) (c : Cluster) : (s.setCluster n c).ctxs = s.ctxs := rfl
@[simp] theorem State.setCluster_updates (n : Nat) (c : Cluster) : (s.setCluster n c).updates = s.updates := rfl
@[simp] theorem State.setCluster_timelines (n : Nat) (c : Cluster) : (s.setCluster n c).timelines = s.timelines := rfl
@[simp] theorem State.setCluster_graphs (n : Nat) (c : Cluster) : (s.setCluster n c).graphs = s.graphs := rfl
@[simp] theorem State.setCluster_replays (n : Nat) (c : Cluster) : (s.setCluster n c).replays = s.replays := rfl
@[simp] theorem State.setCluster_launches (n : Nat) (c : Cluster) : (s.setCluster n c).launches = s.launches := rfl
@[simp] theorem State.setCluster_images (n : Nat) (c : Cluster) : (s.setCluster n c).images = s.images := rfl

/-! ## setDie -/

@[simp] theorem State.setDie_agenda (n : Nat) (d : Die) : (s.setDie n d).agenda = s.agenda := rfl
@[simp] theorem State.setDie_turn (n : Nat) (d : Die) : (s.setDie n d).turn = s.turn := rfl
@[simp] theorem State.setDie_steps (n : Nat) (d : Die) : (s.setDie n d).steps = s.steps := rfl
@[simp] theorem State.setDie_partner (n : Nat) (d : Die) : (s.setDie n d).partner = s.partner := rfl
@[simp] theorem State.setDie_cur (n : Nat) (d : Die) : (s.setDie n d).cur = s.cur := rfl
@[simp] theorem State.setDie_time (n : Nat) (d : Die) : (s.setDie n d).time = s.time := rfl
@[simp] theorem State.setDie_host (n : Nat) (d : Die) : (s.setDie n d).host = s.host := rfl
@[simp] theorem State.setDie_disp (n : Nat) (d : Die) : (s.setDie n d).disp = s.disp := rfl
@[simp] theorem State.setDie_power (n : Nat) (d : Die) : (s.setDie n d).power = s.power := rfl
@[simp] theorem State.setDie_fw (n : Nat) (d : Die) : (s.setDie n d).fw = s.fw := rfl
@[simp] theorem State.setDie_blocks (n : Nat) (d : Die) : (s.setDie n d).blocks = s.blocks := rfl
@[simp] theorem State.setDie_cores (n : Nat) (d : Die) : (s.setDie n d).cores = s.cores := rfl
@[simp] theorem State.setDie_clusters (n : Nat) (d : Die) : (s.setDie n d).clusters = s.clusters := rfl
@[simp] theorem State.setDie_mem (n : Nat) (d : Die) : (s.setDie n d).mem = s.mem := rfl
@[simp] theorem State.setDie_unspec (n : Nat) (d : Die) : (s.setDie n d).unspec = s.unspec := rfl
@[simp] theorem State.setDie_poison (n : Nat) (d : Die) : (s.setDie n d).poison = s.poison := rfl
@[simp] theorem State.setDie_memErr (n : Nat) (d : Die) : (s.setDie n d).memErr = s.memErr := rfl
@[simp] theorem State.setDie_sramErr (n : Nat) (d : Die) : (s.setDie n d).sramErr = s.sramErr := rfl
@[simp] theorem State.setDie_tags (n : Nat) (d : Die) : (s.setDie n d).tags = s.tags := rfl
@[simp] theorem State.setDie_locked (n : Nat) (d : Die) : (s.setDie n d).locked = s.locked := rfl
@[simp] theorem State.setDie_ctxs (n : Nat) (d : Die) : (s.setDie n d).ctxs = s.ctxs := rfl
@[simp] theorem State.setDie_updates (n : Nat) (d : Die) : (s.setDie n d).updates = s.updates := rfl
@[simp] theorem State.setDie_timelines (n : Nat) (d : Die) : (s.setDie n d).timelines = s.timelines := rfl
@[simp] theorem State.setDie_graphs (n : Nat) (d : Die) : (s.setDie n d).graphs = s.graphs := rfl
@[simp] theorem State.setDie_replays (n : Nat) (d : Die) : (s.setDie n d).replays = s.replays := rfl
@[simp] theorem State.setDie_launches (n : Nat) (d : Die) : (s.setDie n d).launches = s.launches := rfl
@[simp] theorem State.setDie_images (n : Nat) (d : Die) : (s.setDie n d).images = s.images := rfl

/-! ## modDie -/

@[simp] theorem State.modDie_agenda (n : Nat) (f : Die → Die) : (s.modDie n f).agenda = s.agenda := rfl
@[simp] theorem State.modDie_turn (n : Nat) (f : Die → Die) : (s.modDie n f).turn = s.turn := rfl
@[simp] theorem State.modDie_steps (n : Nat) (f : Die → Die) : (s.modDie n f).steps = s.steps := rfl
@[simp] theorem State.modDie_partner (n : Nat) (f : Die → Die) : (s.modDie n f).partner = s.partner := rfl
@[simp] theorem State.modDie_cur (n : Nat) (f : Die → Die) : (s.modDie n f).cur = s.cur := rfl
@[simp] theorem State.modDie_time (n : Nat) (f : Die → Die) : (s.modDie n f).time = s.time := rfl
@[simp] theorem State.modDie_host (n : Nat) (f : Die → Die) : (s.modDie n f).host = s.host := rfl
@[simp] theorem State.modDie_disp (n : Nat) (f : Die → Die) : (s.modDie n f).disp = s.disp := rfl
@[simp] theorem State.modDie_power (n : Nat) (f : Die → Die) : (s.modDie n f).power = s.power := rfl
@[simp] theorem State.modDie_fw (n : Nat) (f : Die → Die) : (s.modDie n f).fw = s.fw := rfl
@[simp] theorem State.modDie_blocks (n : Nat) (f : Die → Die) : (s.modDie n f).blocks = s.blocks := rfl
@[simp] theorem State.modDie_cores (n : Nat) (f : Die → Die) : (s.modDie n f).cores = s.cores := rfl
@[simp] theorem State.modDie_clusters (n : Nat) (f : Die → Die) : (s.modDie n f).clusters = s.clusters := rfl
@[simp] theorem State.modDie_mem (n : Nat) (f : Die → Die) : (s.modDie n f).mem = s.mem := rfl
@[simp] theorem State.modDie_unspec (n : Nat) (f : Die → Die) : (s.modDie n f).unspec = s.unspec := rfl
@[simp] theorem State.modDie_poison (n : Nat) (f : Die → Die) : (s.modDie n f).poison = s.poison := rfl
@[simp] theorem State.modDie_memErr (n : Nat) (f : Die → Die) : (s.modDie n f).memErr = s.memErr := rfl
@[simp] theorem State.modDie_sramErr (n : Nat) (f : Die → Die) : (s.modDie n f).sramErr = s.sramErr := rfl
@[simp] theorem State.modDie_tags (n : Nat) (f : Die → Die) : (s.modDie n f).tags = s.tags := rfl
@[simp] theorem State.modDie_locked (n : Nat) (f : Die → Die) : (s.modDie n f).locked = s.locked := rfl
@[simp] theorem State.modDie_ctxs (n : Nat) (f : Die → Die) : (s.modDie n f).ctxs = s.ctxs := rfl
@[simp] theorem State.modDie_updates (n : Nat) (f : Die → Die) : (s.modDie n f).updates = s.updates := rfl
@[simp] theorem State.modDie_timelines (n : Nat) (f : Die → Die) : (s.modDie n f).timelines = s.timelines := rfl
@[simp] theorem State.modDie_graphs (n : Nat) (f : Die → Die) : (s.modDie n f).graphs = s.graphs := rfl
@[simp] theorem State.modDie_replays (n : Nat) (f : Die → Die) : (s.modDie n f).replays = s.replays := rfl
@[simp] theorem State.modDie_launches (n : Nat) (f : Die → Die) : (s.modDie n f).launches = s.launches := rfl
@[simp] theorem State.modDie_images (n : Nat) (f : Die → Die) : (s.modDie n f).images = s.images := rfl

/-! ## setCtx -/

@[simp] theorem State.setCtx_agenda (n : Nat) (c : Ctx) : (s.setCtx n c).agenda = s.agenda := rfl
@[simp] theorem State.setCtx_turn (n : Nat) (c : Ctx) : (s.setCtx n c).turn = s.turn := rfl
@[simp] theorem State.setCtx_steps (n : Nat) (c : Ctx) : (s.setCtx n c).steps = s.steps := rfl
@[simp] theorem State.setCtx_partner (n : Nat) (c : Ctx) : (s.setCtx n c).partner = s.partner := rfl
@[simp] theorem State.setCtx_cur (n : Nat) (c : Ctx) : (s.setCtx n c).cur = s.cur := rfl
@[simp] theorem State.setCtx_time (n : Nat) (c : Ctx) : (s.setCtx n c).time = s.time := rfl
@[simp] theorem State.setCtx_host (n : Nat) (c : Ctx) : (s.setCtx n c).host = s.host := rfl
@[simp] theorem State.setCtx_disp (n : Nat) (c : Ctx) : (s.setCtx n c).disp = s.disp := rfl
@[simp] theorem State.setCtx_power (n : Nat) (c : Ctx) : (s.setCtx n c).power = s.power := rfl
@[simp] theorem State.setCtx_fw (n : Nat) (c : Ctx) : (s.setCtx n c).fw = s.fw := rfl
@[simp] theorem State.setCtx_blocks (n : Nat) (c : Ctx) : (s.setCtx n c).blocks = s.blocks := rfl
@[simp] theorem State.setCtx_cores (n : Nat) (c : Ctx) : (s.setCtx n c).cores = s.cores := rfl
@[simp] theorem State.setCtx_clusters (n : Nat) (c : Ctx) : (s.setCtx n c).clusters = s.clusters := rfl
@[simp] theorem State.setCtx_dies (n : Nat) (c : Ctx) : (s.setCtx n c).dies = s.dies := rfl
@[simp] theorem State.setCtx_mem (n : Nat) (c : Ctx) : (s.setCtx n c).mem = s.mem := rfl
@[simp] theorem State.setCtx_unspec (n : Nat) (c : Ctx) : (s.setCtx n c).unspec = s.unspec := rfl
@[simp] theorem State.setCtx_poison (n : Nat) (c : Ctx) : (s.setCtx n c).poison = s.poison := rfl
@[simp] theorem State.setCtx_memErr (n : Nat) (c : Ctx) : (s.setCtx n c).memErr = s.memErr := rfl
@[simp] theorem State.setCtx_sramErr (n : Nat) (c : Ctx) : (s.setCtx n c).sramErr = s.sramErr := rfl
@[simp] theorem State.setCtx_tags (n : Nat) (c : Ctx) : (s.setCtx n c).tags = s.tags := rfl
@[simp] theorem State.setCtx_locked (n : Nat) (c : Ctx) : (s.setCtx n c).locked = s.locked := rfl
@[simp] theorem State.setCtx_updates (n : Nat) (c : Ctx) : (s.setCtx n c).updates = s.updates := rfl
@[simp] theorem State.setCtx_timelines (n : Nat) (c : Ctx) : (s.setCtx n c).timelines = s.timelines := rfl
@[simp] theorem State.setCtx_graphs (n : Nat) (c : Ctx) : (s.setCtx n c).graphs = s.graphs := rfl
@[simp] theorem State.setCtx_replays (n : Nat) (c : Ctx) : (s.setCtx n c).replays = s.replays := rfl
@[simp] theorem State.setCtx_launches (n : Nat) (c : Ctx) : (s.setCtx n c).launches = s.launches := rfl
@[simp] theorem State.setCtx_images (n : Nat) (c : Ctx) : (s.setCtx n c).images = s.images := rfl

/-! ## modLaunch -/

@[simp] theorem State.modLaunch_agenda (n : Nat) (f : Launch → Launch) : (s.modLaunch n f).agenda = s.agenda := by unfold State.modLaunch; split <;> rfl
@[simp] theorem State.modLaunch_turn (n : Nat) (f : Launch → Launch) : (s.modLaunch n f).turn = s.turn := by unfold State.modLaunch; split <;> rfl
@[simp] theorem State.modLaunch_steps (n : Nat) (f : Launch → Launch) : (s.modLaunch n f).steps = s.steps := by unfold State.modLaunch; split <;> rfl
@[simp] theorem State.modLaunch_partner (n : Nat) (f : Launch → Launch) : (s.modLaunch n f).partner = s.partner := by unfold State.modLaunch; split <;> rfl
@[simp] theorem State.modLaunch_cur (n : Nat) (f : Launch → Launch) : (s.modLaunch n f).cur = s.cur := by unfold State.modLaunch; split <;> rfl
@[simp] theorem State.modLaunch_time (n : Nat) (f : Launch → Launch) : (s.modLaunch n f).time = s.time := by unfold State.modLaunch; split <;> rfl
@[simp] theorem State.modLaunch_host (n : Nat) (f : Launch → Launch) : (s.modLaunch n f).host = s.host := by unfold State.modLaunch; split <;> rfl
@[simp] theorem State.modLaunch_disp (n : Nat) (f : Launch → Launch) : (s.modLaunch n f).disp = s.disp := by unfold State.modLaunch; split <;> rfl
@[simp] theorem State.modLaunch_power (n : Nat) (f : Launch → Launch) : (s.modLaunch n f).power = s.power := by unfold State.modLaunch; split <;> rfl
@[simp] theorem State.modLaunch_fw (n : Nat) (f : Launch → Launch) : (s.modLaunch n f).fw = s.fw := by unfold State.modLaunch; split <;> rfl
@[simp] theorem State.modLaunch_blocks (n : Nat) (f : Launch → Launch) : (s.modLaunch n f).blocks = s.blocks := by unfold State.modLaunch; split <;> rfl
@[simp] theorem State.modLaunch_cores (n : Nat) (f : Launch → Launch) : (s.modLaunch n f).cores = s.cores := by unfold State.modLaunch; split <;> rfl
@[simp] theorem State.modLaunch_clusters (n : Nat) (f : Launch → Launch) : (s.modLaunch n f).clusters = s.clusters := by unfold State.modLaunch; split <;> rfl
@[simp] theorem State.modLaunch_dies (n : Nat) (f : Launch → Launch) : (s.modLaunch n f).dies = s.dies := by unfold State.modLaunch; split <;> rfl
@[simp] theorem State.modLaunch_mem (n : Nat) (f : Launch → Launch) : (s.modLaunch n f).mem = s.mem := by unfold State.modLaunch; split <;> rfl
@[simp] theorem State.modLaunch_unspec (n : Nat) (f : Launch → Launch) : (s.modLaunch n f).unspec = s.unspec := by unfold State.modLaunch; split <;> rfl
@[simp] theorem State.modLaunch_poison (n : Nat) (f : Launch → Launch) : (s.modLaunch n f).poison = s.poison := by unfold State.modLaunch; split <;> rfl
@[simp] theorem State.modLaunch_memErr (n : Nat) (f : Launch → Launch) : (s.modLaunch n f).memErr = s.memErr := by unfold State.modLaunch; split <;> rfl
@[simp] theorem State.modLaunch_sramErr (n : Nat) (f : Launch → Launch) : (s.modLaunch n f).sramErr = s.sramErr := by unfold State.modLaunch; split <;> rfl
@[simp] theorem State.modLaunch_tags (n : Nat) (f : Launch → Launch) : (s.modLaunch n f).tags = s.tags := by unfold State.modLaunch; split <;> rfl
@[simp] theorem State.modLaunch_locked (n : Nat) (f : Launch → Launch) : (s.modLaunch n f).locked = s.locked := by unfold State.modLaunch; split <;> rfl
@[simp] theorem State.modLaunch_ctxs (n : Nat) (f : Launch → Launch) : (s.modLaunch n f).ctxs = s.ctxs := by unfold State.modLaunch; split <;> rfl
@[simp] theorem State.modLaunch_updates (n : Nat) (f : Launch → Launch) : (s.modLaunch n f).updates = s.updates := by unfold State.modLaunch; split <;> rfl
@[simp] theorem State.modLaunch_timelines (n : Nat) (f : Launch → Launch) : (s.modLaunch n f).timelines = s.timelines := by unfold State.modLaunch; split <;> rfl
@[simp] theorem State.modLaunch_graphs (n : Nat) (f : Launch → Launch) : (s.modLaunch n f).graphs = s.graphs := by unfold State.modLaunch; split <;> rfl
@[simp] theorem State.modLaunch_replays (n : Nat) (f : Launch → Launch) : (s.modLaunch n f).replays = s.replays := by unfold State.modLaunch; split <;> rfl
@[simp] theorem State.modLaunch_images (n : Nat) (f : Launch → Launch) : (s.modLaunch n f).images = s.images := by unfold State.modLaunch; split <;> rfl

/-! ## modReplay -/

@[simp] theorem State.modReplay_agenda (n : Nat) (f : Replay → Replay) : (s.modReplay n f).agenda = s.agenda := by unfold State.modReplay; split <;> rfl
@[simp] theorem State.modReplay_turn (n : Nat) (f : Replay → Replay) : (s.modReplay n f).turn = s.turn := by unfold State.modReplay; split <;> rfl
@[simp] theorem State.modReplay_steps (n : Nat) (f : Replay → Replay) : (s.modReplay n f).steps = s.steps := by unfold State.modReplay; split <;> rfl
@[simp] theorem State.modReplay_partner (n : Nat) (f : Replay → Replay) : (s.modReplay n f).partner = s.partner := by unfold State.modReplay; split <;> rfl
@[simp] theorem State.modReplay_cur (n : Nat) (f : Replay → Replay) : (s.modReplay n f).cur = s.cur := by unfold State.modReplay; split <;> rfl
@[simp] theorem State.modReplay_time (n : Nat) (f : Replay → Replay) : (s.modReplay n f).time = s.time := by unfold State.modReplay; split <;> rfl
@[simp] theorem State.modReplay_host (n : Nat) (f : Replay → Replay) : (s.modReplay n f).host = s.host := by unfold State.modReplay; split <;> rfl
@[simp] theorem State.modReplay_disp (n : Nat) (f : Replay → Replay) : (s.modReplay n f).disp = s.disp := by unfold State.modReplay; split <;> rfl
@[simp] theorem State.modReplay_power (n : Nat) (f : Replay → Replay) : (s.modReplay n f).power = s.power := by unfold State.modReplay; split <;> rfl
@[simp] theorem State.modReplay_fw (n : Nat) (f : Replay → Replay) : (s.modReplay n f).fw = s.fw := by unfold State.modReplay; split <;> rfl
@[simp] theorem State.modReplay_blocks (n : Nat) (f : Replay → Replay) : (s.modReplay n f).blocks = s.blocks := by unfold State.modReplay; split <;> rfl
@[simp] theorem State.modReplay_cores (n : Nat) (f : Replay → Replay) : (s.modReplay n f).cores = s.cores := by unfold State.modReplay; split <;> rfl
@[simp] theorem State.modReplay_clusters (n : Nat) (f : Replay → Replay) : (s.modReplay n f).clusters = s.clusters := by unfold State.modReplay; split <;> rfl
@[simp] theorem State.modReplay_dies (n : Nat) (f : Replay → Replay) : (s.modReplay n f).dies = s.dies := by unfold State.modReplay; split <;> rfl
@[simp] theorem State.modReplay_mem (n : Nat) (f : Replay → Replay) : (s.modReplay n f).mem = s.mem := by unfold State.modReplay; split <;> rfl
@[simp] theorem State.modReplay_unspec (n : Nat) (f : Replay → Replay) : (s.modReplay n f).unspec = s.unspec := by unfold State.modReplay; split <;> rfl
@[simp] theorem State.modReplay_poison (n : Nat) (f : Replay → Replay) : (s.modReplay n f).poison = s.poison := by unfold State.modReplay; split <;> rfl
@[simp] theorem State.modReplay_memErr (n : Nat) (f : Replay → Replay) : (s.modReplay n f).memErr = s.memErr := by unfold State.modReplay; split <;> rfl
@[simp] theorem State.modReplay_sramErr (n : Nat) (f : Replay → Replay) : (s.modReplay n f).sramErr = s.sramErr := by unfold State.modReplay; split <;> rfl
@[simp] theorem State.modReplay_tags (n : Nat) (f : Replay → Replay) : (s.modReplay n f).tags = s.tags := by unfold State.modReplay; split <;> rfl
@[simp] theorem State.modReplay_locked (n : Nat) (f : Replay → Replay) : (s.modReplay n f).locked = s.locked := by unfold State.modReplay; split <;> rfl
@[simp] theorem State.modReplay_ctxs (n : Nat) (f : Replay → Replay) : (s.modReplay n f).ctxs = s.ctxs := by unfold State.modReplay; split <;> rfl
@[simp] theorem State.modReplay_updates (n : Nat) (f : Replay → Replay) : (s.modReplay n f).updates = s.updates := by unfold State.modReplay; split <;> rfl
@[simp] theorem State.modReplay_timelines (n : Nat) (f : Replay → Replay) : (s.modReplay n f).timelines = s.timelines := by unfold State.modReplay; split <;> rfl
@[simp] theorem State.modReplay_graphs (n : Nat) (f : Replay → Replay) : (s.modReplay n f).graphs = s.graphs := by unfold State.modReplay; split <;> rfl
@[simp] theorem State.modReplay_launches (n : Nat) (f : Replay → Replay) : (s.modReplay n f).launches = s.launches := by unfold State.modReplay; split <;> rfl
@[simp] theorem State.modReplay_images (n : Nat) (f : Replay → Replay) : (s.modReplay n f).images = s.images := by unfold State.modReplay; split <;> rfl

/-! ## setTimeline -/

@[simp] theorem State.setTimeline_agenda (c n : Nat) (v : DWord) : (s.setTimeline c n v).agenda = s.agenda := rfl
@[simp] theorem State.setTimeline_turn (c n : Nat) (v : DWord) : (s.setTimeline c n v).turn = s.turn := rfl
@[simp] theorem State.setTimeline_steps (c n : Nat) (v : DWord) : (s.setTimeline c n v).steps = s.steps := rfl
@[simp] theorem State.setTimeline_partner (c n : Nat) (v : DWord) : (s.setTimeline c n v).partner = s.partner := rfl
@[simp] theorem State.setTimeline_cur (c n : Nat) (v : DWord) : (s.setTimeline c n v).cur = s.cur := rfl
@[simp] theorem State.setTimeline_time (c n : Nat) (v : DWord) : (s.setTimeline c n v).time = s.time := rfl
@[simp] theorem State.setTimeline_host (c n : Nat) (v : DWord) : (s.setTimeline c n v).host = s.host := rfl
@[simp] theorem State.setTimeline_disp (c n : Nat) (v : DWord) : (s.setTimeline c n v).disp = s.disp := rfl
@[simp] theorem State.setTimeline_power (c n : Nat) (v : DWord) : (s.setTimeline c n v).power = s.power := rfl
@[simp] theorem State.setTimeline_fw (c n : Nat) (v : DWord) : (s.setTimeline c n v).fw = s.fw := rfl
@[simp] theorem State.setTimeline_blocks (c n : Nat) (v : DWord) : (s.setTimeline c n v).blocks = s.blocks := rfl
@[simp] theorem State.setTimeline_cores (c n : Nat) (v : DWord) : (s.setTimeline c n v).cores = s.cores := rfl
@[simp] theorem State.setTimeline_clusters (c n : Nat) (v : DWord) : (s.setTimeline c n v).clusters = s.clusters := rfl
@[simp] theorem State.setTimeline_dies (c n : Nat) (v : DWord) : (s.setTimeline c n v).dies = s.dies := rfl
@[simp] theorem State.setTimeline_mem (c n : Nat) (v : DWord) : (s.setTimeline c n v).mem = s.mem := rfl
@[simp] theorem State.setTimeline_unspec (c n : Nat) (v : DWord) : (s.setTimeline c n v).unspec = s.unspec := rfl
@[simp] theorem State.setTimeline_poison (c n : Nat) (v : DWord) : (s.setTimeline c n v).poison = s.poison := rfl
@[simp] theorem State.setTimeline_memErr (c n : Nat) (v : DWord) : (s.setTimeline c n v).memErr = s.memErr := rfl
@[simp] theorem State.setTimeline_sramErr (c n : Nat) (v : DWord) : (s.setTimeline c n v).sramErr = s.sramErr := rfl
@[simp] theorem State.setTimeline_tags (c n : Nat) (v : DWord) : (s.setTimeline c n v).tags = s.tags := rfl
@[simp] theorem State.setTimeline_locked (c n : Nat) (v : DWord) : (s.setTimeline c n v).locked = s.locked := rfl
@[simp] theorem State.setTimeline_ctxs (c n : Nat) (v : DWord) : (s.setTimeline c n v).ctxs = s.ctxs := rfl
@[simp] theorem State.setTimeline_updates (c n : Nat) (v : DWord) : (s.setTimeline c n v).updates = s.updates := rfl
@[simp] theorem State.setTimeline_graphs (c n : Nat) (v : DWord) : (s.setTimeline c n v).graphs = s.graphs := rfl
@[simp] theorem State.setTimeline_replays (c n : Nat) (v : DWord) : (s.setTimeline c n v).replays = s.replays := rfl
@[simp] theorem State.setTimeline_launches (c n : Nat) (v : DWord) : (s.setTimeline c n v).launches = s.launches := rfl
@[simp] theorem State.setTimeline_images (c n : Nat) (v : DWord) : (s.setTimeline c n v).images = s.images := rfl

/-! ## andThen -/

@[simp] theorem State.andThen_turn (l : List Instr) : (s.andThen l).turn = s.turn := rfl
@[simp] theorem State.andThen_steps (l : List Instr) : (s.andThen l).steps = s.steps := rfl
@[simp] theorem State.andThen_partner (l : List Instr) : (s.andThen l).partner = s.partner := rfl
@[simp] theorem State.andThen_cur (l : List Instr) : (s.andThen l).cur = s.cur := rfl
@[simp] theorem State.andThen_time (l : List Instr) : (s.andThen l).time = s.time := rfl
@[simp] theorem State.andThen_host (l : List Instr) : (s.andThen l).host = s.host := rfl
@[simp] theorem State.andThen_disp (l : List Instr) : (s.andThen l).disp = s.disp := rfl
@[simp] theorem State.andThen_power (l : List Instr) : (s.andThen l).power = s.power := rfl
@[simp] theorem State.andThen_fw (l : List Instr) : (s.andThen l).fw = s.fw := rfl
@[simp] theorem State.andThen_blocks (l : List Instr) : (s.andThen l).blocks = s.blocks := rfl
@[simp] theorem State.andThen_cores (l : List Instr) : (s.andThen l).cores = s.cores := rfl
@[simp] theorem State.andThen_clusters (l : List Instr) : (s.andThen l).clusters = s.clusters := rfl
@[simp] theorem State.andThen_dies (l : List Instr) : (s.andThen l).dies = s.dies := rfl
@[simp] theorem State.andThen_mem (l : List Instr) : (s.andThen l).mem = s.mem := rfl
@[simp] theorem State.andThen_unspec (l : List Instr) : (s.andThen l).unspec = s.unspec := rfl
@[simp] theorem State.andThen_poison (l : List Instr) : (s.andThen l).poison = s.poison := rfl
@[simp] theorem State.andThen_memErr (l : List Instr) : (s.andThen l).memErr = s.memErr := rfl
@[simp] theorem State.andThen_sramErr (l : List Instr) : (s.andThen l).sramErr = s.sramErr := rfl
@[simp] theorem State.andThen_tags (l : List Instr) : (s.andThen l).tags = s.tags := rfl
@[simp] theorem State.andThen_locked (l : List Instr) : (s.andThen l).locked = s.locked := rfl
@[simp] theorem State.andThen_ctxs (l : List Instr) : (s.andThen l).ctxs = s.ctxs := rfl
@[simp] theorem State.andThen_updates (l : List Instr) : (s.andThen l).updates = s.updates := rfl
@[simp] theorem State.andThen_timelines (l : List Instr) : (s.andThen l).timelines = s.timelines := rfl
@[simp] theorem State.andThen_graphs (l : List Instr) : (s.andThen l).graphs = s.graphs := rfl
@[simp] theorem State.andThen_replays (l : List Instr) : (s.andThen l).replays = s.replays := rfl
@[simp] theorem State.andThen_launches (l : List Instr) : (s.andThen l).launches = s.launches := rfl
@[simp] theorem State.andThen_images (l : List Instr) : (s.andThen l).images = s.images := rfl

/-! ## setQueue -/

@[simp] theorem State.setQueue_agenda (q : Nat) (x : NamedQueue) : (s.setQueue q x).agenda = s.agenda := rfl
@[simp] theorem State.setQueue_turn (q : Nat) (x : NamedQueue) : (s.setQueue q x).turn = s.turn := rfl
@[simp] theorem State.setQueue_steps (q : Nat) (x : NamedQueue) : (s.setQueue q x).steps = s.steps := rfl
@[simp] theorem State.setQueue_partner (q : Nat) (x : NamedQueue) : (s.setQueue q x).partner = s.partner := rfl
@[simp] theorem State.setQueue_cur (q : Nat) (x : NamedQueue) : (s.setQueue q x).cur = s.cur := rfl
@[simp] theorem State.setQueue_time (q : Nat) (x : NamedQueue) : (s.setQueue q x).time = s.time := rfl
@[simp] theorem State.setQueue_host (q : Nat) (x : NamedQueue) : (s.setQueue q x).host = s.host := rfl
@[simp] theorem State.setQueue_disp (q : Nat) (x : NamedQueue) : (s.setQueue q x).disp = s.disp := rfl
@[simp] theorem State.setQueue_power (q : Nat) (x : NamedQueue) : (s.setQueue q x).power = s.power := rfl
@[simp] theorem State.setQueue_fw (q : Nat) (x : NamedQueue) : (s.setQueue q x).fw = s.fw := rfl
@[simp] theorem State.setQueue_blocks (q : Nat) (x : NamedQueue) : (s.setQueue q x).blocks = s.blocks := rfl
@[simp] theorem State.setQueue_cores (q : Nat) (x : NamedQueue) : (s.setQueue q x).cores = s.cores := rfl
@[simp] theorem State.setQueue_clusters (q : Nat) (x : NamedQueue) : (s.setQueue q x).clusters = s.clusters := rfl
@[simp] theorem State.setQueue_mem (q : Nat) (x : NamedQueue) : (s.setQueue q x).mem = s.mem := rfl
@[simp] theorem State.setQueue_unspec (q : Nat) (x : NamedQueue) : (s.setQueue q x).unspec = s.unspec := rfl
@[simp] theorem State.setQueue_poison (q : Nat) (x : NamedQueue) : (s.setQueue q x).poison = s.poison := rfl
@[simp] theorem State.setQueue_memErr (q : Nat) (x : NamedQueue) : (s.setQueue q x).memErr = s.memErr := rfl
@[simp] theorem State.setQueue_sramErr (q : Nat) (x : NamedQueue) : (s.setQueue q x).sramErr = s.sramErr := rfl
@[simp] theorem State.setQueue_tags (q : Nat) (x : NamedQueue) : (s.setQueue q x).tags = s.tags := rfl
@[simp] theorem State.setQueue_locked (q : Nat) (x : NamedQueue) : (s.setQueue q x).locked = s.locked := rfl
@[simp] theorem State.setQueue_ctxs (q : Nat) (x : NamedQueue) : (s.setQueue q x).ctxs = s.ctxs := rfl
@[simp] theorem State.setQueue_updates (q : Nat) (x : NamedQueue) : (s.setQueue q x).updates = s.updates := rfl
@[simp] theorem State.setQueue_timelines (q : Nat) (x : NamedQueue) : (s.setQueue q x).timelines = s.timelines := rfl
@[simp] theorem State.setQueue_graphs (q : Nat) (x : NamedQueue) : (s.setQueue q x).graphs = s.graphs := rfl
@[simp] theorem State.setQueue_replays (q : Nat) (x : NamedQueue) : (s.setQueue q x).replays = s.replays := rfl
@[simp] theorem State.setQueue_launches (q : Nat) (x : NamedQueue) : (s.setQueue q x).launches = s.launches := rfl
@[simp] theorem State.setQueue_images (q : Nat) (x : NamedQueue) : (s.setQueue q x).images = s.images := rfl

/-! ## modCohort -/

@[simp] theorem State.modCohort_agenda (l k : Nat) (f : Cohort → Cohort) : (s.modCohort l k f).agenda = s.agenda := State.modLaunch_agenda s l _
@[simp] theorem State.modCohort_turn (l k : Nat) (f : Cohort → Cohort) : (s.modCohort l k f).turn = s.turn := State.modLaunch_turn s l _
@[simp] theorem State.modCohort_steps (l k : Nat) (f : Cohort → Cohort) : (s.modCohort l k f).steps = s.steps := State.modLaunch_steps s l _
@[simp] theorem State.modCohort_partner (l k : Nat) (f : Cohort → Cohort) : (s.modCohort l k f).partner = s.partner := State.modLaunch_partner s l _
@[simp] theorem State.modCohort_cur (l k : Nat) (f : Cohort → Cohort) : (s.modCohort l k f).cur = s.cur := State.modLaunch_cur s l _
@[simp] theorem State.modCohort_time (l k : Nat) (f : Cohort → Cohort) : (s.modCohort l k f).time = s.time := State.modLaunch_time s l _
@[simp] theorem State.modCohort_host (l k : Nat) (f : Cohort → Cohort) : (s.modCohort l k f).host = s.host := State.modLaunch_host s l _
@[simp] theorem State.modCohort_disp (l k : Nat) (f : Cohort → Cohort) : (s.modCohort l k f).disp = s.disp := State.modLaunch_disp s l _
@[simp] theorem State.modCohort_power (l k : Nat) (f : Cohort → Cohort) : (s.modCohort l k f).power = s.power := State.modLaunch_power s l _
@[simp] theorem State.modCohort_fw (l k : Nat) (f : Cohort → Cohort) : (s.modCohort l k f).fw = s.fw := State.modLaunch_fw s l _
@[simp] theorem State.modCohort_blocks (l k : Nat) (f : Cohort → Cohort) : (s.modCohort l k f).blocks = s.blocks := State.modLaunch_blocks s l _
@[simp] theorem State.modCohort_cores (l k : Nat) (f : Cohort → Cohort) : (s.modCohort l k f).cores = s.cores := State.modLaunch_cores s l _
@[simp] theorem State.modCohort_clusters (l k : Nat) (f : Cohort → Cohort) : (s.modCohort l k f).clusters = s.clusters := State.modLaunch_clusters s l _
@[simp] theorem State.modCohort_dies (l k : Nat) (f : Cohort → Cohort) : (s.modCohort l k f).dies = s.dies := State.modLaunch_dies s l _
@[simp] theorem State.modCohort_mem (l k : Nat) (f : Cohort → Cohort) : (s.modCohort l k f).mem = s.mem := State.modLaunch_mem s l _
@[simp] theorem State.modCohort_unspec (l k : Nat) (f : Cohort → Cohort) : (s.modCohort l k f).unspec = s.unspec := State.modLaunch_unspec s l _
@[simp] theorem State.modCohort_poison (l k : Nat) (f : Cohort → Cohort) : (s.modCohort l k f).poison = s.poison := State.modLaunch_poison s l _
@[simp] theorem State.modCohort_memErr (l k : Nat) (f : Cohort → Cohort) : (s.modCohort l k f).memErr = s.memErr := State.modLaunch_memErr s l _
@[simp] theorem State.modCohort_sramErr (l k : Nat) (f : Cohort → Cohort) : (s.modCohort l k f).sramErr = s.sramErr := State.modLaunch_sramErr s l _
@[simp] theorem State.modCohort_tags (l k : Nat) (f : Cohort → Cohort) : (s.modCohort l k f).tags = s.tags := State.modLaunch_tags s l _
@[simp] theorem State.modCohort_locked (l k : Nat) (f : Cohort → Cohort) : (s.modCohort l k f).locked = s.locked := State.modLaunch_locked s l _
@[simp] theorem State.modCohort_ctxs (l k : Nat) (f : Cohort → Cohort) : (s.modCohort l k f).ctxs = s.ctxs := State.modLaunch_ctxs s l _
@[simp] theorem State.modCohort_updates (l k : Nat) (f : Cohort → Cohort) : (s.modCohort l k f).updates = s.updates := State.modLaunch_updates s l _
@[simp] theorem State.modCohort_timelines (l k : Nat) (f : Cohort → Cohort) : (s.modCohort l k f).timelines = s.timelines := State.modLaunch_timelines s l _
@[simp] theorem State.modCohort_graphs (l k : Nat) (f : Cohort → Cohort) : (s.modCohort l k f).graphs = s.graphs := State.modLaunch_graphs s l _
@[simp] theorem State.modCohort_replays (l k : Nat) (f : Cohort → Cohort) : (s.modCohort l k f).replays = s.replays := State.modLaunch_replays s l _
@[simp] theorem State.modCohort_images (l k : Nat) (f : Cohort → Cohort) : (s.modCohort l k f).images = s.images := State.modLaunch_images s l _

/-! ## write -/

@[simp] theorem State.write_agenda (c pa : Nat) (bs : List Byte) : (s.write c pa bs).agenda = s.agenda := rfl
@[simp] theorem State.write_turn (c pa : Nat) (bs : List Byte) : (s.write c pa bs).turn = s.turn := rfl
@[simp] theorem State.write_steps (c pa : Nat) (bs : List Byte) : (s.write c pa bs).steps = s.steps := rfl
@[simp] theorem State.write_partner (c pa : Nat) (bs : List Byte) : (s.write c pa bs).partner = s.partner := rfl
@[simp] theorem State.write_cur (c pa : Nat) (bs : List Byte) : (s.write c pa bs).cur = s.cur := rfl
@[simp] theorem State.write_time (c pa : Nat) (bs : List Byte) : (s.write c pa bs).time = s.time := rfl
@[simp] theorem State.write_host (c pa : Nat) (bs : List Byte) : (s.write c pa bs).host = s.host := rfl
@[simp] theorem State.write_disp (c pa : Nat) (bs : List Byte) : (s.write c pa bs).disp = s.disp := rfl
@[simp] theorem State.write_power (c pa : Nat) (bs : List Byte) : (s.write c pa bs).power = s.power := rfl
@[simp] theorem State.write_fw (c pa : Nat) (bs : List Byte) : (s.write c pa bs).fw = s.fw := rfl
@[simp] theorem State.write_blocks (c pa : Nat) (bs : List Byte) : (s.write c pa bs).blocks = s.blocks := rfl
@[simp] theorem State.write_cores (c pa : Nat) (bs : List Byte) : (s.write c pa bs).cores = s.cores := rfl
@[simp] theorem State.write_clusters (c pa : Nat) (bs : List Byte) : (s.write c pa bs).clusters = s.clusters := rfl
@[simp] theorem State.write_dies (c pa : Nat) (bs : List Byte) : (s.write c pa bs).dies = s.dies := rfl
@[simp] theorem State.write_memErr (c pa : Nat) (bs : List Byte) : (s.write c pa bs).memErr = s.memErr := rfl
@[simp] theorem State.write_sramErr (c pa : Nat) (bs : List Byte) : (s.write c pa bs).sramErr = s.sramErr := rfl
@[simp] theorem State.write_locked (c pa : Nat) (bs : List Byte) : (s.write c pa bs).locked = s.locked := rfl
@[simp] theorem State.write_ctxs (c pa : Nat) (bs : List Byte) : (s.write c pa bs).ctxs = s.ctxs := rfl
@[simp] theorem State.write_updates (c pa : Nat) (bs : List Byte) : (s.write c pa bs).updates = s.updates := rfl
@[simp] theorem State.write_timelines (c pa : Nat) (bs : List Byte) : (s.write c pa bs).timelines = s.timelines := rfl
@[simp] theorem State.write_graphs (c pa : Nat) (bs : List Byte) : (s.write c pa bs).graphs = s.graphs := rfl
@[simp] theorem State.write_replays (c pa : Nat) (bs : List Byte) : (s.write c pa bs).replays = s.replays := rfl
@[simp] theorem State.write_launches (c pa : Nat) (bs : List Byte) : (s.write c pa bs).launches = s.launches := rfl
@[simp] theorem State.write_images (c pa : Nat) (bs : List Byte) : (s.write c pa bs).images = s.images := rfl

/-! ## writeNum -/

@[simp] theorem State.writeNum_agenda (c pa n v : Nat) : (s.writeNum c pa n v).agenda = s.agenda := rfl
@[simp] theorem State.writeNum_turn (c pa n v : Nat) : (s.writeNum c pa n v).turn = s.turn := rfl
@[simp] theorem State.writeNum_steps (c pa n v : Nat) : (s.writeNum c pa n v).steps = s.steps := rfl
@[simp] theorem State.writeNum_partner (c pa n v : Nat) : (s.writeNum c pa n v).partner = s.partner := rfl
@[simp] theorem State.writeNum_cur (c pa n v : Nat) : (s.writeNum c pa n v).cur = s.cur := rfl
@[simp] theorem State.writeNum_time (c pa n v : Nat) : (s.writeNum c pa n v).time = s.time := rfl
@[simp] theorem State.writeNum_host (c pa n v : Nat) : (s.writeNum c pa n v).host = s.host := rfl
@[simp] theorem State.writeNum_disp (c pa n v : Nat) : (s.writeNum c pa n v).disp = s.disp := rfl
@[simp] theorem State.writeNum_power (c pa n v : Nat) : (s.writeNum c pa n v).power = s.power := rfl
@[simp] theorem State.writeNum_fw (c pa n v : Nat) : (s.writeNum c pa n v).fw = s.fw := rfl
@[simp] theorem State.writeNum_blocks (c pa n v : Nat) : (s.writeNum c pa n v).blocks = s.blocks := rfl
@[simp] theorem State.writeNum_cores (c pa n v : Nat) : (s.writeNum c pa n v).cores = s.cores := rfl
@[simp] theorem State.writeNum_clusters (c pa n v : Nat) : (s.writeNum c pa n v).clusters = s.clusters := rfl
@[simp] theorem State.writeNum_dies (c pa n v : Nat) : (s.writeNum c pa n v).dies = s.dies := rfl
@[simp] theorem State.writeNum_memErr (c pa n v : Nat) : (s.writeNum c pa n v).memErr = s.memErr := rfl
@[simp] theorem State.writeNum_sramErr (c pa n v : Nat) : (s.writeNum c pa n v).sramErr = s.sramErr := rfl
@[simp] theorem State.writeNum_locked (c pa n v : Nat) : (s.writeNum c pa n v).locked = s.locked := rfl
@[simp] theorem State.writeNum_ctxs (c pa n v : Nat) : (s.writeNum c pa n v).ctxs = s.ctxs := rfl
@[simp] theorem State.writeNum_updates (c pa n v : Nat) : (s.writeNum c pa n v).updates = s.updates := rfl
@[simp] theorem State.writeNum_timelines (c pa n v : Nat) : (s.writeNum c pa n v).timelines = s.timelines := rfl
@[simp] theorem State.writeNum_graphs (c pa n v : Nat) : (s.writeNum c pa n v).graphs = s.graphs := rfl
@[simp] theorem State.writeNum_replays (c pa n v : Nat) : (s.writeNum c pa n v).replays = s.replays := rfl
@[simp] theorem State.writeNum_launches (c pa n v : Nat) : (s.writeNum c pa n v).launches = s.launches := rfl
@[simp] theorem State.writeNum_images (c pa n v : Nat) : (s.writeNum c pa n v).images = s.images := rfl

/-! ## forget -/

@[simp] theorem State.forget_agenda (lo hi : Nat) : (s.forget lo hi).agenda = s.agenda := by unfold State.forget; split <;> rfl
@[simp] theorem State.forget_turn (lo hi : Nat) : (s.forget lo hi).turn = s.turn := by unfold State.forget; split <;> rfl
@[simp] theorem State.forget_steps (lo hi : Nat) : (s.forget lo hi).steps = s.steps := by unfold State.forget; split <;> rfl
@[simp] theorem State.forget_partner (lo hi : Nat) : (s.forget lo hi).partner = s.partner := by unfold State.forget; split <;> rfl
@[simp] theorem State.forget_cur (lo hi : Nat) : (s.forget lo hi).cur = s.cur := by unfold State.forget; split <;> rfl
@[simp] theorem State.forget_time (lo hi : Nat) : (s.forget lo hi).time = s.time := by unfold State.forget; split <;> rfl
@[simp] theorem State.forget_host (lo hi : Nat) : (s.forget lo hi).host = s.host := by unfold State.forget; split <;> rfl
@[simp] theorem State.forget_disp (lo hi : Nat) : (s.forget lo hi).disp = s.disp := by unfold State.forget; split <;> rfl
@[simp] theorem State.forget_power (lo hi : Nat) : (s.forget lo hi).power = s.power := by unfold State.forget; split <;> rfl
@[simp] theorem State.forget_fw (lo hi : Nat) : (s.forget lo hi).fw = s.fw := by unfold State.forget; split <;> rfl
@[simp] theorem State.forget_blocks (lo hi : Nat) : (s.forget lo hi).blocks = s.blocks := by unfold State.forget; split <;> rfl
@[simp] theorem State.forget_cores (lo hi : Nat) : (s.forget lo hi).cores = s.cores := by unfold State.forget; split <;> rfl
@[simp] theorem State.forget_clusters (lo hi : Nat) : (s.forget lo hi).clusters = s.clusters := by unfold State.forget; split <;> rfl
@[simp] theorem State.forget_dies (lo hi : Nat) : (s.forget lo hi).dies = s.dies := by unfold State.forget; split <;> rfl
@[simp] theorem State.forget_mem (lo hi : Nat) : (s.forget lo hi).mem = s.mem := by unfold State.forget; split <;> rfl
@[simp] theorem State.forget_poison (lo hi : Nat) : (s.forget lo hi).poison = s.poison := by unfold State.forget; split <;> rfl
@[simp] theorem State.forget_memErr (lo hi : Nat) : (s.forget lo hi).memErr = s.memErr := by unfold State.forget; split <;> rfl
@[simp] theorem State.forget_sramErr (lo hi : Nat) : (s.forget lo hi).sramErr = s.sramErr := by unfold State.forget; split <;> rfl
@[simp] theorem State.forget_tags (lo hi : Nat) : (s.forget lo hi).tags = s.tags := by unfold State.forget; split <;> rfl
@[simp] theorem State.forget_locked (lo hi : Nat) : (s.forget lo hi).locked = s.locked := by unfold State.forget; split <;> rfl
@[simp] theorem State.forget_ctxs (lo hi : Nat) : (s.forget lo hi).ctxs = s.ctxs := by unfold State.forget; split <;> rfl
@[simp] theorem State.forget_updates (lo hi : Nat) : (s.forget lo hi).updates = s.updates := by unfold State.forget; split <;> rfl
@[simp] theorem State.forget_timelines (lo hi : Nat) : (s.forget lo hi).timelines = s.timelines := by unfold State.forget; split <;> rfl
@[simp] theorem State.forget_graphs (lo hi : Nat) : (s.forget lo hi).graphs = s.graphs := by unfold State.forget; split <;> rfl
@[simp] theorem State.forget_replays (lo hi : Nat) : (s.forget lo hi).replays = s.replays := by unfold State.forget; split <;> rfl
@[simp] theorem State.forget_launches (lo hi : Nat) : (s.forget lo hi).launches = s.launches := by unfold State.forget; split <;> rfl
@[simp] theorem State.forget_images (lo hi : Nat) : (s.forget lo hi).images = s.images := by unfold State.forget; split <;> rfl

/-! ## zero -/

@[simp] theorem State.zero_agenda (lo hi : Nat) : (s.zero lo hi).agenda = s.agenda := rfl
@[simp] theorem State.zero_turn (lo hi : Nat) : (s.zero lo hi).turn = s.turn := rfl
@[simp] theorem State.zero_steps (lo hi : Nat) : (s.zero lo hi).steps = s.steps := rfl
@[simp] theorem State.zero_partner (lo hi : Nat) : (s.zero lo hi).partner = s.partner := rfl
@[simp] theorem State.zero_cur (lo hi : Nat) : (s.zero lo hi).cur = s.cur := rfl
@[simp] theorem State.zero_time (lo hi : Nat) : (s.zero lo hi).time = s.time := rfl
@[simp] theorem State.zero_host (lo hi : Nat) : (s.zero lo hi).host = s.host := rfl
@[simp] theorem State.zero_disp (lo hi : Nat) : (s.zero lo hi).disp = s.disp := rfl
@[simp] theorem State.zero_power (lo hi : Nat) : (s.zero lo hi).power = s.power := rfl
@[simp] theorem State.zero_fw (lo hi : Nat) : (s.zero lo hi).fw = s.fw := rfl
@[simp] theorem State.zero_blocks (lo hi : Nat) : (s.zero lo hi).blocks = s.blocks := rfl
@[simp] theorem State.zero_cores (lo hi : Nat) : (s.zero lo hi).cores = s.cores := rfl
@[simp] theorem State.zero_clusters (lo hi : Nat) : (s.zero lo hi).clusters = s.clusters := rfl
@[simp] theorem State.zero_dies (lo hi : Nat) : (s.zero lo hi).dies = s.dies := rfl
@[simp] theorem State.zero_poison (lo hi : Nat) : (s.zero lo hi).poison = s.poison := rfl
@[simp] theorem State.zero_memErr (lo hi : Nat) : (s.zero lo hi).memErr = s.memErr := rfl
@[simp] theorem State.zero_sramErr (lo hi : Nat) : (s.zero lo hi).sramErr = s.sramErr := rfl
@[simp] theorem State.zero_tags (lo hi : Nat) : (s.zero lo hi).tags = s.tags := rfl
@[simp] theorem State.zero_locked (lo hi : Nat) : (s.zero lo hi).locked = s.locked := rfl
@[simp] theorem State.zero_ctxs (lo hi : Nat) : (s.zero lo hi).ctxs = s.ctxs := rfl
@[simp] theorem State.zero_updates (lo hi : Nat) : (s.zero lo hi).updates = s.updates := rfl
@[simp] theorem State.zero_timelines (lo hi : Nat) : (s.zero lo hi).timelines = s.timelines := rfl
@[simp] theorem State.zero_graphs (lo hi : Nat) : (s.zero lo hi).graphs = s.graphs := rfl
@[simp] theorem State.zero_replays (lo hi : Nat) : (s.zero lo hi).replays = s.replays := rfl
@[simp] theorem State.zero_launches (lo hi : Nat) : (s.zero lo hi).launches = s.launches := rfl
@[simp] theorem State.zero_images (lo hi : Nat) : (s.zero lo hi).images = s.images := rfl

/-! ## poisonError -/

@[simp] theorem State.poisonError_agenda (g : Nat) : (s.poisonError g).agenda = s.agenda := by unfold State.poisonError; split <;> rfl
@[simp] theorem State.poisonError_turn (g : Nat) : (s.poisonError g).turn = s.turn := by unfold State.poisonError; split <;> rfl
@[simp] theorem State.poisonError_steps (g : Nat) : (s.poisonError g).steps = s.steps := by unfold State.poisonError; split <;> rfl
@[simp] theorem State.poisonError_partner (g : Nat) : (s.poisonError g).partner = s.partner := by unfold State.poisonError; split <;> rfl
@[simp] theorem State.poisonError_cur (g : Nat) : (s.poisonError g).cur = s.cur := by unfold State.poisonError; split <;> rfl
@[simp] theorem State.poisonError_time (g : Nat) : (s.poisonError g).time = s.time := by unfold State.poisonError; split <;> rfl
@[simp] theorem State.poisonError_host (g : Nat) : (s.poisonError g).host = s.host := by unfold State.poisonError; split <;> rfl
@[simp] theorem State.poisonError_disp (g : Nat) : (s.poisonError g).disp = s.disp := by unfold State.poisonError; split <;> rfl
@[simp] theorem State.poisonError_power (g : Nat) : (s.poisonError g).power = s.power := by unfold State.poisonError; split <;> rfl
@[simp] theorem State.poisonError_fw (g : Nat) : (s.poisonError g).fw = s.fw := by unfold State.poisonError; split <;> rfl
@[simp] theorem State.poisonError_blocks (g : Nat) : (s.poisonError g).blocks = s.blocks := by unfold State.poisonError; split <;> rfl
@[simp] theorem State.poisonError_cores (g : Nat) : (s.poisonError g).cores = s.cores := by unfold State.poisonError; split <;> rfl
@[simp] theorem State.poisonError_clusters (g : Nat) : (s.poisonError g).clusters = s.clusters := by unfold State.poisonError; split <;> rfl
@[simp] theorem State.poisonError_dies (g : Nat) : (s.poisonError g).dies = s.dies := by unfold State.poisonError; split <;> rfl
@[simp] theorem State.poisonError_mem (g : Nat) : (s.poisonError g).mem = s.mem := by unfold State.poisonError; split <;> rfl
@[simp] theorem State.poisonError_unspec (g : Nat) : (s.poisonError g).unspec = s.unspec := by unfold State.poisonError; split <;> rfl
@[simp] theorem State.poisonError_tags (g : Nat) : (s.poisonError g).tags = s.tags := by unfold State.poisonError; split <;> rfl
@[simp] theorem State.poisonError_locked (g : Nat) : (s.poisonError g).locked = s.locked := by unfold State.poisonError; split <;> rfl
@[simp] theorem State.poisonError_ctxs (g : Nat) : (s.poisonError g).ctxs = s.ctxs := by unfold State.poisonError; split <;> rfl
@[simp] theorem State.poisonError_updates (g : Nat) : (s.poisonError g).updates = s.updates := by unfold State.poisonError; split <;> rfl
@[simp] theorem State.poisonError_timelines (g : Nat) : (s.poisonError g).timelines = s.timelines := by unfold State.poisonError; split <;> rfl
@[simp] theorem State.poisonError_graphs (g : Nat) : (s.poisonError g).graphs = s.graphs := by unfold State.poisonError; split <;> rfl
@[simp] theorem State.poisonError_replays (g : Nat) : (s.poisonError g).replays = s.replays := by unfold State.poisonError; split <;> rfl
@[simp] theorem State.poisonError_launches (g : Nat) : (s.poisonError g).launches = s.launches := by unfold State.poisonError; split <;> rfl
@[simp] theorem State.poisonError_images (g : Nat) : (s.poisonError g).images = s.images := by unfold State.poisonError; split <;> rfl

/-! ## errorFound -/

@[simp] theorem State.errorFound_agenda (d : BadData) : (s.errorFound d).agenda = s.agenda := by unfold State.errorFound; split <;> simp
@[simp] theorem State.errorFound_turn (d : BadData) : (s.errorFound d).turn = s.turn := by unfold State.errorFound; split <;> simp
@[simp] theorem State.errorFound_steps (d : BadData) : (s.errorFound d).steps = s.steps := by unfold State.errorFound; split <;> simp
@[simp] theorem State.errorFound_partner (d : BadData) : (s.errorFound d).partner = s.partner := by unfold State.errorFound; split <;> simp
@[simp] theorem State.errorFound_cur (d : BadData) : (s.errorFound d).cur = s.cur := by unfold State.errorFound; split <;> simp
@[simp] theorem State.errorFound_time (d : BadData) : (s.errorFound d).time = s.time := by unfold State.errorFound; split <;> simp
@[simp] theorem State.errorFound_host (d : BadData) : (s.errorFound d).host = s.host := by unfold State.errorFound; split <;> simp
@[simp] theorem State.errorFound_disp (d : BadData) : (s.errorFound d).disp = s.disp := by unfold State.errorFound; split <;> simp
@[simp] theorem State.errorFound_power (d : BadData) : (s.errorFound d).power = s.power := by unfold State.errorFound; split <;> simp
@[simp] theorem State.errorFound_fw (d : BadData) : (s.errorFound d).fw = s.fw := by unfold State.errorFound; split <;> simp
@[simp] theorem State.errorFound_blocks (d : BadData) : (s.errorFound d).blocks = s.blocks := by unfold State.errorFound; split <;> simp
@[simp] theorem State.errorFound_cores (d : BadData) : (s.errorFound d).cores = s.cores := by unfold State.errorFound; split <;> simp
@[simp] theorem State.errorFound_clusters (d : BadData) : (s.errorFound d).clusters = s.clusters := by unfold State.errorFound; split <;> simp
@[simp] theorem State.errorFound_dies (d : BadData) : (s.errorFound d).dies = s.dies := by unfold State.errorFound; split <;> simp
@[simp] theorem State.errorFound_mem (d : BadData) : (s.errorFound d).mem = s.mem := by unfold State.errorFound; split <;> simp
@[simp] theorem State.errorFound_unspec (d : BadData) : (s.errorFound d).unspec = s.unspec := by unfold State.errorFound; split <;> simp
@[simp] theorem State.errorFound_tags (d : BadData) : (s.errorFound d).tags = s.tags := by unfold State.errorFound; split <;> simp
@[simp] theorem State.errorFound_locked (d : BadData) : (s.errorFound d).locked = s.locked := by unfold State.errorFound; split <;> simp
@[simp] theorem State.errorFound_ctxs (d : BadData) : (s.errorFound d).ctxs = s.ctxs := by unfold State.errorFound; split <;> simp
@[simp] theorem State.errorFound_updates (d : BadData) : (s.errorFound d).updates = s.updates := by unfold State.errorFound; split <;> simp
@[simp] theorem State.errorFound_timelines (d : BadData) : (s.errorFound d).timelines = s.timelines := by unfold State.errorFound; split <;> simp
@[simp] theorem State.errorFound_graphs (d : BadData) : (s.errorFound d).graphs = s.graphs := by unfold State.errorFound; split <;> simp
@[simp] theorem State.errorFound_replays (d : BadData) : (s.errorFound d).replays = s.replays := by unfold State.errorFound; split <;> simp
@[simp] theorem State.errorFound_launches (d : BadData) : (s.errorFound d).launches = s.launches := by unfold State.errorFound; split <;> simp
@[simp] theorem State.errorFound_images (d : BadData) : (s.errorFound d).images = s.images := by unfold State.errorFound; split <;> simp

/-! ## report -/

@[simp] theorem State.report_agenda (r : FaultRec) : (s.report r).agenda = s.agenda := rfl
@[simp] theorem State.report_turn (r : FaultRec) : (s.report r).turn = s.turn := rfl
@[simp] theorem State.report_steps (r : FaultRec) : (s.report r).steps = s.steps := rfl
@[simp] theorem State.report_partner (r : FaultRec) : (s.report r).partner = s.partner := rfl
@[simp] theorem State.report_cur (r : FaultRec) : (s.report r).cur = s.cur := rfl
@[simp] theorem State.report_time (r : FaultRec) : (s.report r).time = s.time := rfl
@[simp] theorem State.report_host (r : FaultRec) : (s.report r).host = s.host := rfl
@[simp] theorem State.report_disp (r : FaultRec) : (s.report r).disp = s.disp := rfl
@[simp] theorem State.report_power (r : FaultRec) : (s.report r).power = s.power := rfl
@[simp] theorem State.report_fw (r : FaultRec) : (s.report r).fw = s.fw := rfl
@[simp] theorem State.report_blocks (r : FaultRec) : (s.report r).blocks = s.blocks := rfl
@[simp] theorem State.report_cores (r : FaultRec) : (s.report r).cores = s.cores := rfl
@[simp] theorem State.report_clusters (r : FaultRec) : (s.report r).clusters = s.clusters := rfl
@[simp] theorem State.report_mem (r : FaultRec) : (s.report r).mem = s.mem := rfl
@[simp] theorem State.report_unspec (r : FaultRec) : (s.report r).unspec = s.unspec := rfl
@[simp] theorem State.report_poison (r : FaultRec) : (s.report r).poison = s.poison := rfl
@[simp] theorem State.report_memErr (r : FaultRec) : (s.report r).memErr = s.memErr := rfl
@[simp] theorem State.report_sramErr (r : FaultRec) : (s.report r).sramErr = s.sramErr := rfl
@[simp] theorem State.report_tags (r : FaultRec) : (s.report r).tags = s.tags := rfl
@[simp] theorem State.report_locked (r : FaultRec) : (s.report r).locked = s.locked := rfl
@[simp] theorem State.report_ctxs (r : FaultRec) : (s.report r).ctxs = s.ctxs := rfl
@[simp] theorem State.report_updates (r : FaultRec) : (s.report r).updates = s.updates := rfl
@[simp] theorem State.report_timelines (r : FaultRec) : (s.report r).timelines = s.timelines := rfl
@[simp] theorem State.report_graphs (r : FaultRec) : (s.report r).graphs = s.graphs := rfl
@[simp] theorem State.report_replays (r : FaultRec) : (s.report r).replays = s.replays := rfl
@[simp] theorem State.report_launches (r : FaultRec) : (s.report r).launches = s.launches := rfl
@[simp] theorem State.report_images (r : FaultRec) : (s.report r).images = s.images := rfl

/-! ## postEvent -/

@[simp] theorem State.postEvent_agenda (k c h : Nat) (r : Word) (l : List Byte) : (s.postEvent k c h r l).agenda = s.agenda := by unfold State.postEvent; dsimp only; (repeat' split) <;> rfl
@[simp] theorem State.postEvent_turn (k c h : Nat) (r : Word) (l : List Byte) : (s.postEvent k c h r l).turn = s.turn := by unfold State.postEvent; dsimp only; (repeat' split) <;> rfl
@[simp] theorem State.postEvent_steps (k c h : Nat) (r : Word) (l : List Byte) : (s.postEvent k c h r l).steps = s.steps := by unfold State.postEvent; dsimp only; (repeat' split) <;> rfl
@[simp] theorem State.postEvent_partner (k c h : Nat) (r : Word) (l : List Byte) : (s.postEvent k c h r l).partner = s.partner := by unfold State.postEvent; dsimp only; (repeat' split) <;> rfl
@[simp] theorem State.postEvent_cur (k c h : Nat) (r : Word) (l : List Byte) : (s.postEvent k c h r l).cur = s.cur := by unfold State.postEvent; dsimp only; (repeat' split) <;> rfl
@[simp] theorem State.postEvent_time (k c h : Nat) (r : Word) (l : List Byte) : (s.postEvent k c h r l).time = s.time := by unfold State.postEvent; dsimp only; (repeat' split) <;> rfl
@[simp] theorem State.postEvent_disp (k c h : Nat) (r : Word) (l : List Byte) : (s.postEvent k c h r l).disp = s.disp := by unfold State.postEvent; dsimp only; (repeat' split) <;> rfl
@[simp] theorem State.postEvent_power (k c h : Nat) (r : Word) (l : List Byte) : (s.postEvent k c h r l).power = s.power := by unfold State.postEvent; dsimp only; (repeat' split) <;> rfl
@[simp] theorem State.postEvent_fw (k c h : Nat) (r : Word) (l : List Byte) : (s.postEvent k c h r l).fw = s.fw := by unfold State.postEvent; dsimp only; (repeat' split) <;> rfl
@[simp] theorem State.postEvent_blocks (k c h : Nat) (r : Word) (l : List Byte) : (s.postEvent k c h r l).blocks = s.blocks := by unfold State.postEvent; dsimp only; (repeat' split) <;> rfl
@[simp] theorem State.postEvent_cores (k c h : Nat) (r : Word) (l : List Byte) : (s.postEvent k c h r l).cores = s.cores := by unfold State.postEvent; dsimp only; (repeat' split) <;> rfl
@[simp] theorem State.postEvent_clusters (k c h : Nat) (r : Word) (l : List Byte) : (s.postEvent k c h r l).clusters = s.clusters := by unfold State.postEvent; dsimp only; (repeat' split) <;> rfl
@[simp] theorem State.postEvent_dies (k c h : Nat) (r : Word) (l : List Byte) : (s.postEvent k c h r l).dies = s.dies := by unfold State.postEvent; dsimp only; (repeat' split) <;> rfl
@[simp] theorem State.postEvent_memErr (k c h : Nat) (r : Word) (l : List Byte) : (s.postEvent k c h r l).memErr = s.memErr := by unfold State.postEvent; dsimp only; (repeat' split) <;> rfl
@[simp] theorem State.postEvent_sramErr (k c h : Nat) (r : Word) (l : List Byte) : (s.postEvent k c h r l).sramErr = s.sramErr := by unfold State.postEvent; dsimp only; (repeat' split) <;> rfl
@[simp] theorem State.postEvent_locked (k c h : Nat) (r : Word) (l : List Byte) : (s.postEvent k c h r l).locked = s.locked := by unfold State.postEvent; dsimp only; (repeat' split) <;> rfl
@[simp] theorem State.postEvent_ctxs (k c h : Nat) (r : Word) (l : List Byte) : (s.postEvent k c h r l).ctxs = s.ctxs := by unfold State.postEvent; dsimp only; (repeat' split) <;> rfl
@[simp] theorem State.postEvent_updates (k c h : Nat) (r : Word) (l : List Byte) : (s.postEvent k c h r l).updates = s.updates := by unfold State.postEvent; dsimp only; (repeat' split) <;> rfl
@[simp] theorem State.postEvent_timelines (k c h : Nat) (r : Word) (l : List Byte) : (s.postEvent k c h r l).timelines = s.timelines := by unfold State.postEvent; dsimp only; (repeat' split) <;> rfl
@[simp] theorem State.postEvent_graphs (k c h : Nat) (r : Word) (l : List Byte) : (s.postEvent k c h r l).graphs = s.graphs := by unfold State.postEvent; dsimp only; (repeat' split) <;> rfl
@[simp] theorem State.postEvent_replays (k c h : Nat) (r : Word) (l : List Byte) : (s.postEvent k c h r l).replays = s.replays := by unfold State.postEvent; dsimp only; (repeat' split) <;> rfl
@[simp] theorem State.postEvent_launches (k c h : Nat) (r : Word) (l : List Byte) : (s.postEvent k c h r l).launches = s.launches := by unfold State.postEvent; dsimp only; (repeat' split) <;> rfl
@[simp] theorem State.postEvent_images (k c h : Nat) (r : Word) (l : List Byte) : (s.postEvent k c h r l).images = s.images := by unfold State.postEvent; dsimp only; (repeat' split) <;> rfl

/-! ## Reads after updates -/

@[simp] theorem State.block?_setBlock (b : Nat) (x : Block) : (s.setBlock b x).block? b = some x :=
  Table.find?_put_self s.blocks b x

theorem State.block?_setBlock_ne (x : Block) {a b : Nat} (h : a ≠ b) : (s.setBlock b x).block? a = s.block? a :=
  Table.find?_put_ne s.blocks x h

@[simp] theorem State.block?_dropBlock (b : Nat) : (s.dropBlock b).block? b = none := Table.find?_erase_self s.blocks b

theorem State.block?_modBlock (b a : Nat) (f : Block → Block) :
    (s.modBlock b f).block? a = if a = b then (s.block? b).map f else s.block? a := by
  unfold State.modBlock
  split
  · next x hx =>
    by_cases h : a = b
    · subst h; simp [hx]
    · simp [h, State.block?_setBlock_ne s (f x) h]
  · next hx =>
    by_cases h : a = b
    · subst h; simp [hx]
    · simp [h]

@[simp] theorem Block.find?_setWave (x : Block) (w : Nat) (y : Wave) : (x.setWave w y).waves.find? w = some y :=
  Table.find?_put_self x.waves w y

theorem State.wave?_of_block {b : Nat} {x : Block} (h : s.block? b = some x) (w : Nat) : s.wave? b w = x.waves.find? w := by
  simp [State.wave?, h]

/-- A wave as it reads after a wave was replaced. -/
theorem State.wave?_setWave (b w a v : Nat) (y : Wave) (h : (s.block? b).isSome) :
    (s.setWave b w y).wave? a v = if a = b ∧ v = w then some y else s.wave? a v := by
  obtain ⟨x, hx⟩ := Option.isSome_iff_exists.1 h
  unfold State.setWave State.wave?
  rw [State.block?_modBlock]
  by_cases hb : a = b
  · subst hb
    simp only [hx, if_true, Option.map_some, Option.bind_some, Block.setWave, Table.find?_put, true_and]
  · simp [hb]

/-- A wave as it reads after a wave was changed. -/
theorem State.wave?_modWave (b w a v : Nat) (f : Wave → Wave) :
    (s.modWave b w f).wave? a v = if a = b ∧ v = w then (s.wave? b w).map f else s.wave? a v := by
  unfold State.modWave
  split
  · next y hy =>
    have hb : (s.block? b).isSome := by
      cases hx : s.block? b with
      | none => simp [State.wave?, hx] at hy
      | some x => rfl
    rw [State.wave?_setWave s b w a v _ hb, hy]
    rfl
  · next hy =>
    by_cases h : a = b ∧ v = w
    · obtain ⟨rfl, rfl⟩ := h; simp [hy]
    · simp [h]

@[simp] theorem State.core_setCore (n : Nat) (c : CoreSt) : (s.setCore n c).core n = c := by simp [State.core, State.setCore]

theorem State.core_setCore_ne (c : CoreSt) {m n : Nat} (h : m ≠ n) : (s.setCore n c).core m = s.core m := by
  simp [State.core, State.setCore, Table.find?_put_ne _ c h]

@[simp] theorem State.core_modCore (n : Nat) (f : CoreSt → CoreSt) : (s.modCore n f).core n = f (s.core n) := State.core_setCore s n _

theorem State.core_modCore_ne (f : CoreSt → CoreSt) {m n : Nat} (h : m ≠ n) : (s.modCore n f).core m = s.core m :=
  State.core_setCore_ne s _ h

@[simp] theorem State.cluster_setCluster (n : Nat) (c : Cluster) : (s.setCluster n c).cluster n = c := by
  simp [State.cluster, State.setCluster]

theorem State.cluster_setCluster_ne (c : Cluster) {m n : Nat} (h : m ≠ n) : (s.setCluster n c).cluster m = s.cluster m := by
  simp [State.cluster, State.setCluster, Table.find?_put_ne _ c h]

@[simp] theorem State.die_setDie (n : Nat) (d : Die) : (s.setDie n d).die n = d := by simp [State.die, State.setDie]

theorem State.die_setDie_ne (d : Die) {m n : Nat} (h : m ≠ n) : (s.setDie n d).die m = s.die m := by
  simp [State.die, State.setDie, Table.find?_put_ne _ d h]

@[simp] theorem State.die_modDie (n : Nat) (f : Die → Die) : (s.modDie n f).die n = f (s.die n) := State.die_setDie s n _

theorem State.die_modDie_ne (f : Die → Die) {m n : Nat} (h : m ≠ n) : (s.modDie n f).die m = s.die m :=
  State.die_setDie_ne s _ h

@[simp] theorem State.ctx_setCtx (n : Nat) (c : Ctx) : (s.setCtx n c).ctx n = c := by simp [State.ctx, State.setCtx]

theorem State.ctx_setCtx_ne (c : Ctx) {m n : Nat} (h : m ≠ n) : (s.setCtx n c).ctx m = s.ctx m := by
  simp [State.ctx, State.setCtx, Table.find?_put_ne _ c h]

theorem State.launch?_modLaunch (n m : Nat) (f : Launch → Launch) :
    (s.modLaunch n f).launch? m = if m = n then (s.launch? n).map f else s.launch? m := by
  unfold State.modLaunch
  split
  · next l hl =>
    by_cases h : m = n
    · subst h; simp [State.launch?] at hl ⊢; simp [hl]
    · simp [h, State.launch?, Table.find?_put_ne _ (f l) h]
  · next hl =>
    by_cases h : m = n
    · subst h; simp [hl]
    · simp [h]

@[simp] theorem State.timeline_setTimeline (c n : Nat) (v : DWord) : (s.setTimeline c n v).timeline c n = v :=
  Table.get_set_self 0 s.timelines (4096 * c + n) v

end Sys2Proof.Machine
end

