-- ==== Sys2Proof/Laws/Memory.lean ====
section
/-! SUPPORT. Physical memory: what a byte reads as after a write, and that every memory operation keeps the canonical form of memory
(Memory.wf). -/

namespace Sys2Proof.Machine

/-! ## The cells of a write -/

theorem find?_cellsOf (bs : List Byte) (pa a : Nat) :
    (Table.find? (cellsOf pa bs) a).getD 0 = if pa ≤ a ∧ a < pa + bs.length then bs.getD (a - pa) 0 else 0 := by
  induction bs generalizing pa with
  | nil => simp [cellsOf]
  | cons b bs ih =>
    have step : (if pa + 1 ≤ a ∧ a < pa + 1 + bs.length then bs.getD (a - (pa + 1)) 0 else 0) =
        if a = pa then 0 else if pa ≤ a ∧ a < pa + (b :: bs).length then (b :: bs).getD (a - pa) 0 else 0 := by
      by_cases h : a = pa
      · rw [if_pos h, if_neg (by omega)]
      · by_cases h2 : pa + 1 ≤ a ∧ a < pa + 1 + bs.length
        · have h3 : a - pa = (a - (pa + 1)) + 1 := by omega
          have h4 : pa ≤ a ∧ a < pa + (b :: bs).length := by simp only [List.length_cons]; omega
          rw [if_pos h2, if_neg h, if_pos h4, h3]; rfl
        · have h4 : ¬(pa ≤ a ∧ a < pa + (b :: bs).length) := by simp only [List.length_cons]; omega
          rw [if_neg h2, if_neg h, if_neg h4]
    simp only [cellsOf]
    split
    · next hb =>
      rw [ih, step]
      by_cases h : a = pa
      · subst h; simp [hb]
      · rw [if_neg h]
    · rw [Table.find?_cons]
      by_cases h : a = pa
      · subst h; simp
      · rw [if_neg h, ih, step, if_neg h]

theorem find?_cellsOf_outside (bs : List Byte) (pa a : Nat) (h : ¬(pa ≤ a ∧ a < pa + bs.length)) :
    Table.find? (cellsOf pa bs) a = none := by
  induction bs generalizing pa with
  | nil => rfl
  | cons b bs ih =>
    simp only [List.length_cons] at h
    have h1 : Table.find? (cellsOf (pa + 1) bs) a = none := ih (pa + 1) (by omega)
    have h2 : a ≠ pa := by omega
    simp only [cellsOf]
    split
    · exact h1
    · rw [Table.find?_cons, if_neg h2, h1]

/-- What a memory table holds after bytes are written to it. -/
theorem get_putBytes (m : Table Byte) (pa : Nat) (bs : List Byte) (a : Nat) :
    Table.get 0 (putBytes m pa bs) a = if pa ≤ a ∧ a < pa + bs.length then bs.getD (a - pa) 0 else Table.get 0 m a := by
  have e1 := Table.find?_filter m (fun k => decide (k < pa)) a
  have e2 := Table.find?_filter m (fun k => decide (pa + bs.length ≤ k)) a
  unfold Table.get putBytes
  rw [Table.find?_append, Table.find?_append, e1, e2]
  by_cases h : pa ≤ a ∧ a < pa + bs.length
  · have h1 : ¬a < pa := by omega
    have h2 : ¬pa + bs.length ≤ a := by omega
    have := find?_cellsOf bs pa a
    rw [if_pos h] at this
    simp only [h1, h2, decide_false, Bool.false_eq_true, if_false, Option.none_or, Option.or_none, if_pos h]
    exact this
  · rw [if_neg h, find?_cellsOf_outside bs pa a h, Option.or_none]
    by_cases h1 : a < pa
    · have h2 : ¬pa + bs.length ≤ a := by omega
      simp [h1, h2]
    · have h2 : pa + bs.length ≤ a := by omega
      simp [h1, h2]

/-! ## The canonical form -/

theorem mem_cellsOf (bs : List Byte) (pa : Nat) (e : Nat × Byte) (h : e ∈ cellsOf pa bs) :
    pa ≤ e.1 ∧ e.1 < pa + bs.length ∧ e.2 ≠ 0 := by
  induction bs generalizing pa with
  | nil => simp [cellsOf] at h
  | cons b bs ih =>
    simp only [cellsOf] at h
    split at h
    · have := ih (pa + 1) h
      simp only [List.length_cons]
      exact ⟨by omega, by omega, this.2.2⟩
    · next hb =>
      rcases List.mem_cons.1 h with h | h
      · subst h; simp only [List.length_cons]; exact ⟨Nat.le_refl _, by omega, hb⟩
      · have := ih (pa + 1) h
        simp only [List.length_cons]
        exact ⟨by omega, by omega, this.2.2⟩

theorem pairwise_cellsOf (bs : List Byte) (pa : Nat) : List.Pairwise (fun a b : Nat × Byte => a.1 < b.1) (cellsOf pa bs) := by
  induction bs generalizing pa with
  | nil => simp [cellsOf]
  | cons b bs ih =>
    simp only [cellsOf]
    split
    · exact ih _
    · refine List.pairwise_cons.2 ⟨fun e he => ?_, ih _⟩
      have := mem_cellsOf bs (pa + 1) e he
      show pa < e.1
      omega

/-- Memory.wf as two conditions on its cells. -/
theorem wf_iff (m : List Host.Cell) :
    Memory.wf m = true ↔ List.Pairwise (fun a b => a.1 < b.1) m ∧ ∀ e ∈ m, e.2 ≠ 0 := by
  unfold Memory.wf
  rw [Bool.and_eq_true, Table.sorted_iff]
  simp [Table.lean]

/-- A filter keeps the canonical form. -/
theorem wf_filter (m : List Host.Cell) (p : Host.Cell → Bool) (h : Memory.wf m = true) : Memory.wf (m.filter p) = true := by
  rw [wf_iff] at h ⊢
  exact ⟨h.1.sublist List.filter_sublist, fun e he => h.2 e (List.mem_filter.1 he).1⟩

/-- A write keeps the canonical form. -/
theorem wf_putBytes (m : List Host.Cell) (pa : Nat) (bs : List Byte) (h : Memory.wf m = true) : Memory.wf (putBytes m pa bs) = true := by
  rw [wf_iff] at h ⊢
  obtain ⟨h1, h2⟩ := h
  unfold putBytes
  refine ⟨?_, ?_⟩
  · rw [List.append_assoc, List.pairwise_append, List.pairwise_append]
    refine ⟨h1.sublist List.filter_sublist, ⟨pairwise_cellsOf bs pa, h1.sublist List.filter_sublist, ?_⟩, ?_⟩
    · intro a ha b hb
      have ha' := mem_cellsOf bs pa a ha
      have hb' := (List.mem_filter.1 hb).2
      simp only [decide_eq_true_eq] at hb'
      exact Nat.lt_of_lt_of_le ha'.2.1 hb'
    · intro a ha b hb
      have ha' := (List.mem_filter.1 ha).2
      simp only [decide_eq_true_eq] at ha'
      rcases List.mem_append.1 hb with hb | hb
      · exact Nat.lt_of_lt_of_le ha' (mem_cellsOf bs pa b hb).1
      · have hb' := (List.mem_filter.1 hb).2
        simp only [decide_eq_true_eq] at hb'
        exact Nat.lt_of_lt_of_le ha' (Nat.le_trans (Nat.le_add_right _ _) hb')
  · intro e he
    rcases List.mem_append.1 he with he | he
    · rcases List.mem_append.1 he with he | he
      · exact h2 e (List.mem_filter.1 he).1
      · exact (mem_cellsOf bs pa e he).2.2
    · exact h2 e (List.mem_filter.1 he).1

theorem State.wf_write (s : State) (c pa : Nat) (bs : List Byte) (h : Memory.wf s.mem = true) : Memory.wf (s.write c pa bs).mem = true :=
  wf_putBytes s.mem pa bs h

theorem State.wf_writeNum (s : State) (c pa n v : Nat) (h : Memory.wf s.mem = true) : Memory.wf (s.writeNum c pa n v).mem = true :=
  s.wf_write c pa _ h

theorem State.wf_zero (s : State) (lo hi : Nat) (h : Memory.wf s.mem = true) : Memory.wf (s.zero lo hi).mem = true :=
  wf_filter s.mem _ h

theorem State.wf_postEvent (s : State) (k c hd : Nat) (r : Word) (l : List Byte) (h : Memory.wf s.mem = true) :
    Memory.wf (s.postEvent k c hd r l).mem = true := by
  unfold State.postEvent
  dsimp only
  split
  · exact h
  · split
    · exact h
    · exact s.wf_write 0 _ _ h

/-! ## Unspecified ranges -/

theorem any_cutRange (r : Nat × Nat) (lo hi a : Nat) :
    (cutRange lo hi r).any (fun q => decide (q.1 ≤ a ∧ a < q.2)) = (decide (r.1 ≤ a ∧ a < r.2) && !decide (lo ≤ a ∧ a < hi)) := by
  unfold cutRange
  split
  · next h =>
    by_cases h1 : r.1 ≤ a ∧ a < r.2
    · have h2 : ¬(lo ≤ a ∧ a < hi) := by omega
      simp [h1, h2]
    · have h2 : decide (r.1 ≤ a ∧ a < r.2) = false := decide_eq_false h1
      simp only [List.any_cons, List.any_nil, Bool.or_false, h2, Bool.false_and]
  · next h =>
    rw [List.any_append, Bool.eq_iff_iff]
    by_cases h1 : r.1 < lo
    · by_cases h2 : hi < r.2
      · simp [h1, h2]; omega
      · simp [h1, h2]; omega
    · by_cases h2 : hi < r.2
      · simp [h1, h2]; omega
      · simp [h1, h2]; omega

theorem any_flatMap_cutRange (l : List (Nat × Nat)) (lo hi a : Nat) :
    (l.flatMap (cutRange lo hi)).any (fun q => decide (q.1 ≤ a ∧ a < q.2)) =
      (l.any (fun q => decide (q.1 ≤ a ∧ a < q.2)) && !decide (lo ≤ a ∧ a < hi)) := by
  induction l with
  | nil => rfl
  | cons r l ih =>
    rw [List.flatMap_cons, List.any_append, ih, any_cutRange, List.any_cons]
    cases decide (r.1 ≤ a ∧ a < r.2) <;> cases decide (lo ≤ a ∧ a < hi) <;> simp

theorem State.isUnspec_write (s : State) (c pa : Nat) (bs : List Byte) (a : Nat) :
    (s.write c pa bs).isUnspec a = (s.isUnspec a && !decide (pa ≤ a ∧ a < pa + bs.length)) := by
  unfold State.isUnspec State.write
  dsimp only
  split
  · next h => simp [h]
  · exact any_flatMap_cutRange s.unspec pa (pa + bs.length) a

/-! ## Reading a byte -/

/-- What a byte reads as after a write: the byte written, or what it read as before; a device register reads as a free value. -/
theorem State.byte_write (s : State) (c pa : Nat) (bs : List Byte) (a : Nat) :
    (s.write c pa bs).byte a =
      if isMmio a = false ∧ pa ≤ a ∧ a < pa + bs.length then bs.getD (a - pa) 0 else s.byte a := by
  unfold State.byte
  rw [State.isUnspec_write, State.write_steps]
  show (if (s.isUnspec a && !decide (pa ≤ a ∧ a < pa + bs.length) || isMmio a) = true then Config.freeByte s.steps a
    else Table.get 0 (putBytes s.mem pa bs) a) = _
  rw [get_putBytes]
  cases isMmio a
  · by_cases h : pa ≤ a ∧ a < pa + bs.length <;> simp [h]
  · simp

/-- A byte written reads back, but for a device register. -/
theorem State.byte_write_in (s : State) (c pa : Nat) (bs : List Byte) (i : Nat) (h : i < bs.length) (hm : isMmio (pa + i) = false) :
    (s.write c pa bs).byte (pa + i) = bs[i] := by
  rw [State.byte_write, if_pos ⟨hm, Nat.le_add_right _ _, by omega⟩, Nat.add_sub_cancel_left, List.getD_eq_getElem?_getD,
    List.getElem?_eq_getElem h, Option.getD_some]

/-- A byte outside a write keeps what it reads as. -/
theorem State.byte_write_out (s : State) (c pa : Nat) (bs : List Byte) (a : Nat) (h : a < pa ∨ pa + bs.length ≤ a) :
    (s.write c pa bs).byte a = s.byte a := by
  rw [State.byte_write, if_neg (by omega)]

/-- The bytes of a write that meets no device register read back. -/
theorem State.bytes_write (s : State) (c pa : Nat) (bs : List Byte) (hm : ∀ i < bs.length, isMmio (pa + i) = false) :
    (s.write c pa bs).bytes pa bs.length = bs := by
  unfold State.bytes
  apply List.ext_getElem
  · simp
  · intro i h1 h2
    simp only [List.getElem_map, List.getElem_range]
    exact s.byte_write_in c pa bs i h2 (hm i h2)

/-- A byte depends on memory, the unspecified ranges and the step counter alone. -/
theorem State.byte_congr {s t : State} (h1 : t.mem = s.mem) (h2 : t.unspec = s.unspec) (h3 : t.steps = s.steps) (a : Nat) :
    t.byte a = s.byte a := by
  unfold State.byte State.isUnspec
  rw [h1, h2, h3]

end Sys2Proof.Machine
end

