-- ==== Sys2Proof/Laws/Registers.lean ====
section
/-! SUPPORT. The register file of a wave: what each register reads as after a register is written, and what a write leaves. -/

namespace Sys2Proof.Machine

variable (y : Wave)

/-! ## Scalars: s0 reads zero and keeps reading zero -/

@[simp] theorem Wave.rdS_zero : y.rdS 0 = 0 := rfl

theorem Wave.rdS_wrS (r q : Nat) (v : Word) : (y.wrS r v).rdS q = if q = r ∧ r ≠ 0 then v else y.rdS q := by
  unfold Wave.wrS Wave.rdS
  by_cases hr : r = 0
  · subst hr
    by_cases hq : q = 0 <;> simp [hq]
  · by_cases hq : q = 0
    · subst hq
      have : ¬0 = r := fun h => hr h.symm
      simp [this]
    · simp only [hr, hq, if_false, Table.get_set, ne_eq, not_false_eq_true, and_true]

@[simp] theorem Wave.rdS_wrV (r l q : Nat) (v : Word) : (y.wrV r l v).rdS q = y.rdS q := rfl

@[simp] theorem Wave.rdS_wrP (k q : Nat) (m : Lanes) : (y.wrP k m).rdS q = y.rdS q := by unfold Wave.wrP; split <;> rfl

@[simp] theorem Wave.rdS_wrC (k q : Nat) (v : Bool) : (y.wrC k v).rdS q = y.rdS q := by unfold Wave.wrC; split <;> rfl

@[simp] theorem Wave.rdS_setPc (l q : Nat) (a : PC) : (y.setPc l a).rdS q = y.rdS q := rfl

@[simp] theorem Wave.rdS_setRng (l q : Nat) (v : Word) : (y.setRng l v).rdS q = y.rdS q := rfl

/-! ## Vector registers -/

theorem Wave.rdV_wrV (r l q k : Nat) (v : Word) (hl : l < 128) (hk : k < 128) :
    (y.wrV r l v).rdV q k = if q = r ∧ k = l then v else y.rdV q k := by
  unfold Wave.wrV Wave.rdV
  rw [Table.get_set]
  by_cases h : q = r ∧ k = l
  · obtain ⟨rfl, rfl⟩ := h; simp
  · have h' : ¬128 * q + k = 128 * r + l := by omega
    rw [if_neg h, if_neg h']

@[simp] theorem Wave.rdV_wrS (r q l : Nat) (v : Word) : (y.wrS r v).rdV q l = y.rdV q l := by unfold Wave.wrS; split <;> rfl

@[simp] theorem Wave.rdV_wrP (k q l : Nat) (m : Lanes) : (y.wrP k m).rdV q l = y.rdV q l := by unfold Wave.wrP; split <;> rfl

@[simp] theorem Wave.rdV_wrC (k q l : Nat) (v : Bool) : (y.wrC k v).rdV q l = y.rdV q l := by unfold Wave.wrC; split <;> rfl

@[simp] theorem Wave.rdV_setPc (l q k : Nat) (a : PC) : (y.setPc l a).rdV q k = y.rdV q k := rfl

@[simp] theorem Wave.rdV_setRng (l q k : Nat) (v : Word) : (y.setRng l v).rdV q k = y.rdV q k := rfl

/-! ## Predicates: p0 reads true -/

@[simp] theorem Wave.rdP_zero : y.rdP 0 = BitVec.allOnes 128 := rfl

theorem Wave.rdP_wrP (k q : Nat) (m : Lanes) : (y.wrP k m).rdP q = if q = k ∧ k ≠ 0 then m else y.rdP q := by
  unfold Wave.wrP Wave.rdP
  by_cases hr : k = 0
  · subst hr
    by_cases hq : q = 0 <;> simp [hq]
  · by_cases hq : q = 0
    · subst hq
      have : ¬0 = k := fun h => hr h.symm
      simp [this]
    · simp only [hr, hq, if_false, Table.get_set, ne_eq, not_false_eq_true, and_true]

@[simp] theorem Wave.rdP_wrS (r q : Nat) (v : Word) : (y.wrS r v).rdP q = y.rdP q := by unfold Wave.wrS; split <;> rfl

@[simp] theorem Wave.rdP_wrV (r l q : Nat) (v : Word) : (y.wrV r l v).rdP q = y.rdP q := rfl

@[simp] theorem Wave.rdP_wrC (k q : Nat) (v : Bool) : (y.wrC k v).rdP q = y.rdP q := by unfold Wave.wrC; split <;> rfl

@[simp] theorem Wave.rdP_setPc (l q : Nat) (a : PC) : (y.setPc l a).rdP q = y.rdP q := rfl

@[simp] theorem Wave.rdP_setRng (l q : Nat) (v : Word) : (y.setRng l v).rdP q = y.rdP q := rfl

/-! ## Conditions: c0 reads true -/

@[simp] theorem Wave.rdC_zero : y.rdC 0 = true := rfl

theorem Wave.rdC_wrC (k q : Nat) (v : Bool) (hk : k < 16) :
    (y.wrC k v).rdC q = if q = k ∧ k ≠ 0 then v else y.rdC q := by
  unfold Wave.wrC Wave.rdC
  by_cases hr : k = 0
  · subst hr
    by_cases hq : q = 0 <;> simp [hq]
  · by_cases hq : q = 0
    · subst hq
      have : ¬0 = k := fun h => hr h.symm
      simp [this]
    · by_cases hqk : q = k
      · subst hqk
        cases v <;> simp [hr, hk]
      · have e : ((1 : BitVec 16) <<< k).getLsbD q = false := by
          rw [BitVec.getLsbD_shiftLeft]
          by_cases hlt : q < k
          · simp [hlt]
          · have : ¬q - k = 0 := by omega
            simp [BitVec.getLsbD_one, this]
        have hc : ¬q < 16 → y.c.getLsbD q = false := fun h => BitVec.getLsbD_of_ge _ _ (by omega)
        by_cases hq16 : q < 16
        · cases v
          · simp only [hr, hq, hqk, if_false, Bool.false_eq_true, false_and, BitVec.getLsbD_and, BitVec.getLsbD_not, e, hq16]
            simp
          · simp only [hr, hq, hqk, if_true, if_false, false_and, BitVec.getLsbD_or, e, Bool.or_false]
        · cases v <;> simp [hr, hq, hqk, hq16, hc]

@[simp] theorem Wave.rdC_wrS (r q : Nat) (v : Word) : (y.wrS r v).rdC q = y.rdC q := by unfold Wave.wrS; split <;> rfl

@[simp] theorem Wave.rdC_wrV (r l q : Nat) (v : Word) : (y.wrV r l v).rdC q = y.rdC q := rfl

@[simp] theorem Wave.rdC_wrP (k q : Nat) (m : Lanes) : (y.wrP k m).rdC q = y.rdC q := by unfold Wave.wrP; split <;> rfl

@[simp] theorem Wave.rdC_setPc (l q : Nat) (a : PC) : (y.setPc l a).rdC q = y.rdC q := rfl

@[simp] theorem Wave.rdC_setRng (l q : Nat) (v : Word) : (y.setRng l v).rdC q = y.rdC q := rfl

/-! ## PCs and generators -/

theorem Wave.pcOf_setPc (l k : Nat) (a : PC) : (y.setPc l a).pcOf k = if k = l then a else y.pcOf k :=
  Table.get_set 0 y.pc l k a

theorem Wave.rngOf_setRng (l k : Nat) (v : Word) : (y.setRng l v).rngOf k = if k = l then v else y.rngOf k :=
  Table.get_set 1 y.rng l k v

@[simp] theorem Wave.pcOf_wrS (r l : Nat) (v : Word) : (y.wrS r v).pcOf l = y.pcOf l := by unfold Wave.wrS; split <;> rfl

@[simp] theorem Wave.pcOf_wrV (r k l : Nat) (v : Word) : (y.wrV r k v).pcOf l = y.pcOf l := rfl

@[simp] theorem Wave.pcOf_wrP (k l : Nat) (m : Lanes) : (y.wrP k m).pcOf l = y.pcOf l := by unfold Wave.wrP; split <;> rfl

@[simp] theorem Wave.pcOf_wrC (k l : Nat) (v : Bool) : (y.wrC k v).pcOf l = y.pcOf l := by unfold Wave.wrC; split <;> rfl

end Sys2Proof.Machine
end

