-- ==== Sys2Proof/Laws/Quiet.lean ====
section
/-! SUPPORT. What follows from an event or a commit is quiet (Quiet): stopping a wave, the heads of store queues, fences, triggers,
cohorts and bad data leave memory and every register as they are. -/

namespace Sys2Proof.Machine

theorem Quiet.refl (s : State) : Quiet s s := by constructor <;> intros <;> rfl

theorem Quiet.trans {s t u : State} (h : Quiet s t) (g : Quiet t u) : Quiet s u := by
  constructor
  · exact fun b w => (g.regs b w).trans (h.regs b w)
  · exact fun b => (g.mtx b).trans (h.mtx b)
  all_goals first
    | exact g.mem.trans h.mem | exact g.unspec.trans h.unspec | exact g.poison.trans h.poison | exact g.memErr.trans h.memErr | exact g.sramErr.trans h.sramErr
    | exact g.tags.trans h.tags | exact g.locked.trans h.locked | exact g.steps.trans h.steps | exact g.turn.trans h.turn
    | exact g.cur.trans h.cur | exact g.time.trans h.time | exact g.host.trans h.host | exact g.disp.trans h.disp
    | exact g.power.trans h.power | exact g.fw.trans h.fw | exact g.clusters.trans h.clusters | exact fun d => (g.dies d).trans (h.dies d)
    | exact g.ctxs.trans h.ctxs | exact g.updates.trans h.updates | exact g.partner.trans h.partner | exact g.graphs.trans h.graphs | exact g.replays.trans h.replays | exact g.images.trans h.images

/-- Quiet steps one after another. -/
theorem Quiet.foldl {α : Type} (f : State → α → State) (hf : ∀ s a, Quiet s (f s a)) (l : List α) (s : State) : Quiet s (l.foldl f s) := by
  induction l generalizing s with
  | nil => exact Quiet.refl s
  | cons a l ih => exact (hf s a).trans (ih (f s a))

/-- Bytes read the same. -/
theorem Quiet.byte {s t : State} (h : Quiet s t) (a : Nat) : t.byte a = s.byte a := State.byte_congr h.mem h.unspec h.steps a

/-! ## Updates that are quiet -/

/-- A change of a block that leaves its waves' registers and its matrix state. -/
theorem State.quiet_modBlock (s : State) (b : Nat) (f : Block → Block)
    (hw : ∀ x w, ((f x).waves.find? w).map Wave.regs = (x.waves.find? w).map Wave.regs) (hm : ∀ x, (f x).mtx = x.mtx) :
    Quiet s (s.modBlock b f) := by
  constructor
  · intro a w
    unfold State.regs? State.wave?
    rw [State.block?_modBlock]
    split
    · next h =>
      subst h
      cases s.block? a with
      | none => rfl
      | some x => exact hw x w
    · rfl
  · intro a
    unfold State.mtx?
    rw [State.block?_modBlock]
    split
    · next h =>
      subst h
      cases s.block? a with
      | none => rfl
      | some x => simp [hm x]
    · rfl
  all_goals simp [State.die]

/-- A change of a block that leaves its waves and its matrix state. -/
theorem State.quiet_modBlock' (s : State) (b : Nat) (f : Block → Block) (hw : ∀ x, (f x).waves = x.waves) (hm : ∀ x, (f x).mtx = x.mtx) :
    Quiet s (s.modBlock b f) :=
  s.quiet_modBlock b f (fun x w => by rw [hw x]) hm

/-- A change of a wave that leaves its registers. -/
theorem State.quiet_modWave (s : State) (b w : Nat) (f : Wave → Wave) (hf : ∀ y, (f y).regs = y.regs) : Quiet s (s.modWave b w f) := by
  unfold State.modWave
  split
  · next y hy =>
    have hx : ∃ x, s.block? b = some x ∧ x.waves.find? w = some y := by
      cases hx : s.block? b with
      | none => simp [State.wave?, hx] at hy
      | some x => exact ⟨x, rfl, by simpa [State.wave?, hx] using hy⟩
    obtain ⟨x, hx, hxy⟩ := hx
    unfold State.setWave State.modBlock
    rw [hx]
    show Quiet s (s.setBlock b (x.setWave w (f y)))
    constructor
    · intro a v
      unfold State.regs? State.wave?
      by_cases ha : a = b
      · subst ha
        rw [State.block?_setBlock, hx]
        simp only [Option.bind_some, Block.setWave, Table.find?_put]
        split
        · next h => subst h; rw [hxy]; simp [hf y]
        · rfl
      · rw [State.block?_setBlock_ne s _ ha]
    · intro a
      unfold State.mtx?
      by_cases ha : a = b
      · subst ha; rw [State.block?_setBlock, hx]; rfl
      · rw [State.block?_setBlock_ne s _ ha]
    all_goals (intros; rfl)
  · exact Quiet.refl s

theorem State.quiet_setWave (s : State) (b w : Nat) (y z : Wave) (hy : s.wave? b w = some y) (h : z.regs = y.regs) :
    Quiet s (s.setWave b w z) := by
  have e : s.setWave b w z = s.modWave b w fun _ => z := by simp [State.modWave, hy]
  rw [e]
  unfold State.modWave
  rw [hy]
  have e2 : s.setWave b w z = s.modWave b w fun u => if u = y then z else u := by simp [State.modWave, hy]
  show Quiet s (s.setWave b w z)
  rw [e2]
  exact s.quiet_modWave b w _ fun u => by
    split
    · next hu => rw [hu, h]
    · rfl

theorem State.quiet_modCore (s : State) (n : Nat) (f : CoreSt → CoreSt) : Quiet s (s.modCore n f) := by constructor <;> intros <;> rfl

theorem State.quiet_andThen (s : State) (l : List Instr) : Quiet s (s.andThen l) := by constructor <;> intros <;> rfl

/-- A cause that becomes a DOUBLE_FAULT is noted at its die, and is next on the agenda. -/
theorem State.quiet_doubleFault (s : State) (die : Nat) (r : FaultRec) : Quiet s (s.doubleFault die r) := by
  unfold State.doubleFault
  refine Quiet.trans ?_ (State.quiet_andThen _ _)
  constructor
  case dies =>
    intro d
    by_cases hd : d = die
    · subst hd; rw [State.die_modDie]; rfl
    · rw [State.die_modDie_ne _ _ hd]
  all_goals (intros; rfl)

theorem State.quiet_setTimeline (s : State) (c n : Nat) (v : DWord) : Quiet s (s.setTimeline c n v) := by constructor <;> intros <;> rfl

theorem State.quiet_modLaunch (s : State) (n : Nat) (f : Launch → Launch) : Quiet s (s.modLaunch n f) := by
  unfold State.modLaunch
  split
  · constructor <;> intros <;> rfl
  · exact Quiet.refl s

theorem State.quiet_modCohort (s : State) (l k : Nat) (f : Cohort → Cohort) : Quiet s (s.modCohort l k f) := s.quiet_modLaunch l _

/-! ## Stopping -/

theorem Block.withdraw_waves (x : Block) : x.withdraw.waves = x.waves ∧ x.withdraw.mtx = x.mtx := by
  unfold Block.withdraw
  split <;> exact ⟨rfl, rfl⟩

theorem Block.addStop_waves (x : Block) (c : Nat) (l : List FaultRec) (w : Nat) :
    ((x.addStop c l).waves.find? w).map Wave.regs = (x.waves.find? w).map Wave.regs := by
  unfold Block.addStop
  dsimp only
  split
  · simp only [Table.find?_map, Option.map_map, x.withdraw_waves.1]
    rfl
  · split <;> simp only [x.withdraw_waves.1]

theorem Block.addStop_mtx (x : Block) (c : Nat) (l : List FaultRec) : (x.addStop c l).mtx = x.mtx := by
  unfold Block.addStop
  dsimp only
  split
  · exact x.withdraw_waves.2
  · split <;> exact x.withdraw_waves.2

theorem State.quiet_stopBlock (s : State) (b c : Nat) (l : List FaultRec) : Quiet s (s.stopBlock b c l) :=
  s.quiet_modBlock b _ (fun x w => x.addStop_waves c l w) (fun x => x.addStop_mtx c l)

theorem Wave.setStop_regs (y : Wave) (c : Nat) (m : Word) (a d : DWord) : (y.setStop c m a d).regs = y.regs := by
  unfold Wave.setStop; split <;> rfl

/-- Taking an exception leaves memory and every register but the stop registers. -/
theorem State.quiet_stopWave (s : State) (b w c : Nat) (fl : BitVec 4) (m : Word) (a d : DWord) (n : Nat) :
    Quiet s (s.stopWave b w c fl m a d n) := by
  unfold State.stopWave
  split
  · exact Quiet.refl s
  · next x _ =>
    have h := (s.quiet_stopBlock b c [s.recordB ((x.waves.find? w).elim x x.seenBy) c fl (m.extractLsb' 0 5) a d w n]).trans
      (State.quiet_modWave _ b w (fun y => y.setStop c m a d) fun y => y.setStop_regs c m a d)
    dsimp only
    split
    · exact h.trans (State.quiet_doubleFault _ _ _)
    · exact h

theorem State.quiet_asyncFault (s : State) (b w c : Nat) (fl : BitVec 4) (a d : DWord) (n : Nat) : Quiet s (s.asyncFault b w c fl a d n) :=
  s.quiet_stopWave b w c _ _ a d n

/-! ## What follows from an event -/

theorem State.quiet_acquire (s : State) (n sc : Nat) : Quiet s (s.acquire n sc) := by
  unfold State.acquire
  split
  · exact s.quiet_modCore n _
  · exact Quiet.refl s

theorem State.quiet_signal (s : State) (c n : Nat) (i : Bool) (v : DWord) : Quiet s (s.signal c n i v) := by
  unfold State.signal
  dsimp only
  split
  · exact Quiet.refl s
  · exact s.quiet_setTimeline c n _

theorem State.quiet_deliver (s : State) (b w c : Nat) (h : Word) (i : Bool) (v : DWord) : Quiet s (s.deliver b w c h i v) := by
  unfold State.deliver
  split
  · split
    · exact s.quiet_signal _ _ _ _
    · exact s.quiet_asyncFault b w _ _ _ _ _
  · dsimp only
    split
    · exact Quiet.refl s
    · exact s.quiet_asyncFault b w _ _ _ _ _

theorem State.quiet_leaveHead (s : State) (b w : Nat) (x : Block) (q : StoreEntry) : Quiet s (s.leaveHead b w x q) := by
  unfold State.leaveHead
  have h := s.quiet_modWave b w (fun y => { y with storeq := y.storeq.drop 1 }) fun _ => rfl
  dsimp only
  split
  · exact h.trans (State.quiet_modBlock' _ b _ (fun _ => rfl) fun _ => rfl)
  · exact h.trans (State.quiet_modCohort _ _ _ _)
  · exact h.trans (State.quiet_deliver _ b w _ _ _ _)
  · exact h

theorem State.quiet_settleQueue (s : State) (b w n : Nat) : Quiet s (s.settleQueue b w n) := by
  induction n generalizing s with
  | zero => exact Quiet.refl s
  | succ n ih =>
    unfold State.settleQueue
    split
    · exact Quiet.refl s
    · split
      · exact Quiet.refl s
      · split
        · exact Quiet.refl s
        · split
          · exact (s.quiet_leaveHead b w _ _).trans (ih _)
          · exact Quiet.refl s

theorem State.quiet_settleCwbs (s : State) (b w : Nat) : Quiet s (s.settleCwbs b w) := by
  unfold State.settleCwbs
  split
  · exact Quiet.refl s
  · refine s.quiet_modWave b w _ fun y => ?_
    dsimp only
    generalize y.cwbs.filter _ = l
    have h : ∀ (l : List Cwb) (y : Wave), (l.foldl (fun y c => y.perform c.sid) y).regs = y.regs := by
      intro l
      induction l with
      | nil => exact fun _ => rfl
      | cons c l ih => exact fun y => (ih (y.perform c.sid)).trans rfl
    exact h _ _

theorem State.quiet_settleFence (s : State) (b w : Nat) : Quiet s (s.settleFence b w) := by
  unfold State.settleFence
  split
  · exact Quiet.refl s
  · next x hx =>
    split
    · exact Quiet.refl s
    · next y hy =>
      split
      · exact Quiet.refl s
      · split
        · have h := s.quiet_setWave b w y { y with fence := none } (by simp [State.wave?, hx, hy]) rfl
          dsimp only
          split
          · exact h
          · exact h.trans (State.quiet_acquire _ _ _)
        · exact Quiet.refl s

theorem State.quiet_noteTrigger (s : State) (b : Nat) : Quiet s (s.noteTrigger b) := by
  unfold State.noteTrigger
  split
  · exact Quiet.refl s
  · split
    · exact Quiet.refl s
    · exact s.quiet_modLaunch _ _

theorem State.quiet_badFault (s : State) (b w : Nat) (d : BadData) : Quiet s (s.badFault b w d) := s.quiet_asyncFault b w _ _ _ _ _

theorem State.quiet_settleBad (s : State) (b w : Nat) : Quiet s (s.settleBad b w) := by
  unfold State.settleBad
  split
  · next y _ _ =>
    split
    · exact Quiet.refl s
    · dsimp only
      refine Quiet.trans (s.quiet_modWave b w _ ?_) (Quiet.foldl _ (fun t sid => ?_) _ _)
      · exact fun _ => rfl
      cases lowestBad _ with
      | none => exact Quiet.refl t
      | some d => exact t.quiet_badFault b w d
  · exact Quiet.refl s

theorem State.quiet_settleCohort (s : State) (l k : Nat) : Quiet s (s.settleCohort l k) := by
  unfold State.settleCohort
  split
  · exact Quiet.refl s
  · split
    · exact Quiet.refl s
    · split
      · exact Quiet.refl s
      · dsimp only
        split <;> exact s.quiet_modCohort _ _ _

theorem State.quiet_settleCohorts (s : State) (l : Nat) : Quiet s (s.settleCohorts l) := by
  unfold State.settleCohorts
  split
  · exact Quiet.refl s
  · exact Quiet.foldl _ (fun t k => t.quiet_settleCohort l k) _ s

/-- What follows from an event of a block is quiet. -/
theorem State.quiet_settle (s : State) (b : Nat) : Quiet s (s.settle b) := by
  unfold State.settle
  split
  · exact Quiet.refl s
  · exact (((((Quiet.foldl _ (fun t w => t.quiet_settleBad b w) _ s).trans
      (Quiet.foldl _ (fun t w => t.quiet_settleQueue b w _) _ _)).trans
      (Quiet.foldl _ (fun t w => t.quiet_settleCwbs b w) _ _)).trans
      (Quiet.foldl _ (fun t w => t.quiet_settleFence b w) _ _)).trans
      (State.quiet_noteTrigger _ b)).trans
      (State.quiet_settleCohorts _ _)

theorem State.quiet_settleCore (s : State) (n : Nat) : Quiet s (s.settleCore n) :=
  Quiet.foldl (fun t (e : Nat × Block) => t.settle e.1) (fun t e => t.quiet_settle e.1) _ s

end Sys2Proof.Machine
end

