-- ==== Sys2Proof/Laws/Commit.lean ====
section
/-! SUPPORT. What a syllable stages and what a bundle commits: a wrapper's answer in one equation each, what each effect leaves, and the
registers after a commit. -/

namespace Sys2Proof.Machine

/-! ## Staging -/

theorem uSyl_eq {s : State} {e : Env} (he : s.env = some e) (h : Hdr) (f : Env → Act) :
    uSyl h s f = s.issued h e.iu 0 (if e.holds h then f e else .eff []) := by simp [uSyl, he]

theorem vSyl_eq {s : State} {e : Env} (he : s.env = some e) (h : Hdr) (f : Env → Lanes → Act) :
    vSyl h s f = s.issued h { e.iu with vslot := e.iu.vslot + 1 } (if e.iu.vslot = 0 then 1 else 2) (f e (e.issueSet h)) := by
  simp [vSyl, he]

theorem mSyl_eq {s : State} {e : Env} (he : s.env = some e) (h : Hdr) (f : Env → Lanes → List Nat × Act) :
    mSyl h s f = s.issued h (e.iu.touching (if e.issueSet h = 0 then ([], Act.eff []) else f e (e.issueSet h)).1) 3
      (if e.issueSet h = 0 then ([], Act.eff []) else f e (e.issueSet h)).2 := by simp [mSyl, he]

theorem xSyl_eq {s : State} {e : Env} (he : s.env = some e) (h : Hdr) (f : Env → List Nat × Act) :
    xSyl h s f = s.issued h (e.iu.touching (if !e.holds h then ([], Act.eff []) else if e.queueFull then ([], Act.hold) else f e).1) 4
      (if !e.holds h then ([], Act.eff []) else if e.queueFull then ([], Act.hold) else f e).2 := by simp [xSyl, he]

theorem State.issued_eq (s : State) (h : Hdr) (iu : Issue) (k : Nat) (a : Act) : s.issued h iu k a = .next (s.stageSyl h.e iu k a) := rfl

/-- A syllable that translates nothing leaves the bundle's list of addresses. -/
@[simp] theorem Issue.touching_nil (iu : Issue) : iu.touching [] = iu := by simp [Issue.touching]

/-- The bundle in hand is that of a resident wave. -/
theorem State.env_some {s : State} {e : Env} (he : s.env = some e) :
    e.s = s ∧ s.cur = some e.iu ∧ (∃ x, s.block? e.iu.block = some x ∧ e.x = { x with ctx := e.iu.ctx }) ∧ e.x.waves.find? e.iu.wave = some e.y := by
  unfold State.env at he
  split at he
  · simp at he
  · next iu hc =>
    split at he
    · simp at he
    · next x hx =>
      cases hw : x.waves.find? iu.wave with
      | none => simp [hw] at he
      | some y =>
        simp only [hw, Option.map_some, Option.some.injEq] at he
        subst he
        exact ⟨rfl, hc, ⟨x, hx, rfl⟩, hw⟩

/-- The bundle in hand, read back. -/
theorem State.env_of {s : State} {iu : Issue} {x : Block} {y : Wave} (hc : s.cur = some iu) (hx : s.block? iu.block = some x)
    (hy : x.waves.find? iu.wave = some y) : s.env = some ⟨s, iu, { x with ctx := iu.ctx }, y⟩ := by simp [State.env, hc, hx, hy]

/-! ## One effect -/

theorem State.wave?_isSome {s : State} {b w : Nat} {y : Wave} (h : s.wave? b w = some y) : ∃ x, s.block? b = some x := by
  cases hx : s.block? b with
  | none => simp [State.wave?, hx] at h
  | some x => exact ⟨x, rfl⟩

/-- A register effect changes its own wave as Eff.toWave says, and nothing else. -/
theorem State.applyEff_onRegs (s : State) (iu : Issue) (f : Eff) (h : f.onRegs = true) (hb : (s.block? iu.block).isSome) :
    s.applyEff iu f = s.modWave iu.block iu.wave f.toWave := by
  obtain ⟨x, hx⟩ := Option.isSome_iff_exists.1 hb
  unfold State.applyEff
  dsimp only
  rw [hx]
  cases f <;> first | rfl | (simp [Eff.onRegs] at h)

theorem State.block?_modWave_isSome (s : State) (b w a : Nat) (f : Wave → Wave) :
    ((s.modWave b w f).block? a).isSome = (s.block? a).isSome := by
  unfold State.modWave
  split
  · unfold State.setWave
    rw [State.block?_modBlock]
    split
    · next h => subst h; simp
    · rfl
  · rfl

theorem State.modWave_modWave (s : State) (b w : Nat) (f g : Wave → Wave) :
    ((s.modWave b w f).modWave b w g).regs? b w = ((s.wave? b w).map fun y => g (f y)).map Wave.regs := by
  unfold State.regs?
  rw [State.wave?_modWave, State.wave?_modWave]
  simp only [and_self, if_true, Option.map_map]
  rfl

/-- The wave after a list of register effects. -/
theorem State.foldl_onRegs (l : List Eff) (s : State) (iu : Issue) (hl : ∀ f ∈ l, f.onRegs = true) (hb : (s.block? iu.block).isSome) :
    l.foldl (fun s f => s.applyEff iu f) s = l.foldl (fun s f => s.modWave iu.block iu.wave f.toWave) s := by
  induction l generalizing s with
  | nil => rfl
  | cons f l ih =>
    simp only [List.foldl_cons]
    rw [State.applyEff_onRegs s iu f (hl f List.mem_cons_self) hb]
    exact ih _ (fun g hg => hl g (List.mem_cons_of_mem _ hg)) (by rw [State.block?_modWave_isSome]; exact hb)

theorem State.wave?_foldl_modWave (l : List Eff) (s : State) (b w a v : Nat) :
    (l.foldl (fun s f => s.modWave b w f.toWave) s).wave? a v =
      if a = b ∧ v = w then (s.wave? b w).map fun y => l.foldl (fun y f => f.toWave y) y else s.wave? a v := by
  induction l generalizing s with
  | nil =>
    simp only [List.foldl_nil]
    split
    · next h => obtain ⟨rfl, rfl⟩ := h; simp
    · rfl
  | cons f l ih =>
    simp only [List.foldl_cons]
    rw [ih, State.wave?_modWave, State.wave?_modWave]
    simp only [and_self, if_true]
    split
    · rw [Option.map_map]; rfl
    · rfl

/-- A property that each change of a wave keeps is kept by a list of them. -/
theorem State.foldl_modWave_keeps {α : Type} (π : State → α) (b w : Nat) (hπ : ∀ s f, π (s.modWave b w f) = π s) (l : List Eff) (s : State) :
    π (l.foldl (fun s f => s.modWave b w f.toWave) s) = π s := by
  induction l generalizing s with
  | nil => rfl
  | cons f l ih => simp only [List.foldl_cons]; rw [ih, hπ]

theorem State.mtx?_modWave (s : State) (b w a : Nat) (f : Wave → Wave) : (s.modWave b w f).mtx? a = s.mtx? a := by
  unfold State.modWave
  split
  · unfold State.setWave State.mtx?
    rw [State.block?_modBlock]
    split
    · next h =>
      subst h
      cases s.block? a <;> rfl
    · rfl
  · rfl

/-! ## The end of a bundle -/

theorem Wave.resetEsc_regs (y : Wave) : y.resetEsc.regs = y.regs := by
  unfold Wave.resetEsc
  split
  · rfl
  · split <;> rfl

theorem Block.noteRetired_waves (x : Block) (w : Nat) : (x.noteRetired w).waves = x.waves ∧ (x.noteRetired w).mtx = x.mtx := by
  unfold Block.noteRetired
  generalize List.range 16 = l
  induction l generalizing x with
  | nil => exact ⟨rfl, rfl⟩
  | cons n l ih => exact ih (x.setBarrier n { x.barrier n with retiredNow := (x.barrier n).retiredNow ||| (1 : BitVec 16) <<< w })

/-- After its effects a commit is quiet. -/
theorem State.commit_quiet (s : State) (iu : Issue) :
    Quiet (iu.effs.foldl (fun s f => s.applyEff iu f) ({ s with cur := none }.modWave iu.block iu.wave iu.moved)) (s.commit iu) := by
  unfold State.commit
  dsimp only
  have hmv : ({ s with cur := none } : State).modWave iu.block iu.wave (fun y =>
      { (lanesOf iu.lanes).foldl (fun y l => y.setPc l iu.next) y with since := none, full := none, ask := none, split := none }) =
      ({ s with cur := none } : State).modWave iu.block iu.wave iu.moved := rfl
  rw [hmv]
  generalize iu.effs.foldl (fun s f => s.applyEff iu f) (({ s with cur := none } : State).modWave iu.block iu.wave iu.moved) = t
  refine Quiet.trans ?_ (State.quiet_settle _ _)
  have h1 : Quiet t (if (((t.wave? iu.block iu.wave).map fun y => y.step).getD false && !(iu.effs.any fun f => match f with
      | .trap .. => true
      | _ => false)) then t.stopWave iu.block iu.wave 0x36 0 0 (iu.next.setWidth 64) 0 0 else t) := by
    split
    · exact t.quiet_stopWave _ _ _ _ _ _ _ _
    · exact Quiet.refl t
  refine h1.trans ?_
  generalize (if (((t.wave? iu.block iu.wave).map fun y => y.step).getD false && !(iu.effs.any fun f => match f with
      | .trap .. => true
      | _ => false)) then t.stopWave iu.block iu.wave 0x36 0 0 (iu.next.setWidth 64) 0 0 else t) = u
  refine (u.quiet_modWave iu.block iu.wave Wave.resetEsc Wave.resetEsc_regs).trans ?_
  split
  · exact State.quiet_modBlock' _ _ _ (fun x => (x.noteRetired_waves _).1) fun x => (x.noteRetired_waves _).2
  · exact Quiet.refl _

end Sys2Proof.Machine
end

