-- ==== Sys2Proof/Laws/Encoding.lean ====
section
/-! SUPPORT. Encoding: each field format survives its body in both directions, a syllable's word gives back its view, and from those
what one constructor needs for decode of encode. -/

namespace Sys2Proof

/-! ## Fields of concatenations -/

theorem extract_append_low {n m : Nat} (x : BitVec n) (y : BitVec m) (lo k : Nat) (h : lo + k ≤ m) :
    (x ++ y).extractLsb' lo k = y.extractLsb' lo k := by
  ext i hi
  simp only [BitVec.getElem_extractLsb', BitVec.getLsbD_append]
  have : lo + i < m := by omega
  simp [this]

theorem extract_append_high {n m : Nat} (x : BitVec n) (y : BitVec m) (lo k : Nat) (h : m ≤ lo) :
    (x ++ y).extractLsb' lo k = x.extractLsb' (lo - m) k := by
  ext i hi
  simp only [BitVec.getElem_extractLsb', BitVec.getLsbD_append]
  have : ¬lo + i < m := by omega
  have h2 : lo + i - m = lo - m + i := by omega
  simp [this, h2]

theorem extract_all {n : Nat} (x : BitVec n) : x.extractLsb' 0 n = x := by
  ext i hi; simp

/-- Two neighbouring fields are one. -/
theorem extract_join {n : Nat} (x : BitVec n) (a b k m : Nat) (h : a = b + m) :
    x.extractLsb' a k ++ x.extractLsb' b m = x.extractLsb' b (k + m) := by
  subst h
  ext i hi
  simp only [BitVec.getElem_append, BitVec.getElem_extractLsb']
  split
  · rfl
  · next hm =>
    have : b + m + (i - m) = b + i := by omega
    rw [this]

/-! ## Formats -/


theorem FmtA.ofBody_toBody (o : FmtA) : FmtA.ofBody o.toBody = o := by
  obtain ⟨d, s1, s2, s3, m1, m2, m3, ew⟩ := o
  simp only [FmtA.ofBody, FmtA.toBody, FmtA.mk.injEq]
  and_intros <;>
  · repeat' first | rw [extract_append_low _ _ _ _ (by decide)] | rw [extract_append_high _ _ _ _ (by decide)]
    exact extract_all _

theorem FmtA.toBody_ofBody (x : BitVec 47) : (FmtA.ofBody x).toBody = x := by
  simp only [FmtA.ofBody, FmtA.toBody]
  repeat rw [extract_join _ _ _ _ _ (by decide)]
  exact extract_all x


theorem FmtB.ofBody_toBody (o : FmtB) : FmtB.ofBody o.toBody = o := by
  obtain ⟨d, s1, m1, ew, imm⟩ := o
  simp only [FmtB.ofBody, FmtB.toBody, FmtB.mk.injEq]
  and_intros <;>
  · repeat' first | rw [extract_append_low _ _ _ _ (by decide)] | rw [extract_append_high _ _ _ _ (by decide)]
    exact extract_all _

theorem FmtB.toBody_ofBody (x : BitVec 47) : (FmtB.ofBody x).toBody = x := by
  simp only [FmtB.ofBody, FmtB.toBody]
  repeat rw [extract_join _ _ _ _ _ (by decide)]
  exact extract_all x


theorem FmtC.ofBody_toBody (o : FmtC) : FmtC.ofBody o.toBody = o := by
  obtain ⟨d, f, imm⟩ := o
  simp only [FmtC.ofBody, FmtC.toBody, FmtC.mk.injEq]
  and_intros <;>
  · repeat' first | rw [extract_append_low _ _ _ _ (by decide)] | rw [extract_append_high _ _ _ _ (by decide)]
    exact extract_all _

theorem FmtC.toBody_ofBody (x : BitVec 47) : (FmtC.ofBody x).toBody = x := by
  simp only [FmtC.ofBody, FmtC.toBody]
  repeat rw [extract_join _ _ _ _ _ (by decide)]
  exact extract_all x


theorem FmtM.ofBody_toBody (o : FmtM) : FmtM.ofBody o.toBody = o := by
  obtain ⟨d, b, off, sp, sc, ord, ch, z⟩ := o
  simp only [FmtM.ofBody, FmtM.toBody, FmtM.mk.injEq]
  and_intros <;>
  · repeat' first | rw [extract_append_low _ _ _ _ (by decide)] | rw [extract_append_high _ _ _ _ (by decide)]
    exact extract_all _

theorem FmtM.toBody_ofBody (x : BitVec 47) : (FmtM.ofBody x).toBody = x := by
  simp only [FmtM.ofBody, FmtM.toBody]
  repeat rw [extract_join _ _ _ _ _ (by decide)]
  exact extract_all x


theorem FmtT.ofBody_toBody (o : FmtT) : FmtT.ofBody o.toBody = o := by
  obtain ⟨d, b, a, aoff, sp, sc, ord, aw, z⟩ := o
  simp only [FmtT.ofBody, FmtT.toBody, FmtT.mk.injEq]
  and_intros <;>
  · repeat' first | rw [extract_append_low _ _ _ _ (by decide)] | rw [extract_append_high _ _ _ _ (by decide)]
    exact extract_all _

theorem FmtT.toBody_ofBody (x : BitVec 47) : (FmtT.ofBody x).toBody = x := by
  simp only [FmtT.ofBody, FmtT.toBody]
  repeat rw [extract_join _ _ _ _ _ (by decide)]
  exact extract_all x


theorem FmtJ.ofBody_toBody (o : FmtJ) : FmtJ.ofBody o.toBody = o := by
  obtain ⟨off, l, k, f⟩ := o
  simp only [FmtJ.ofBody, FmtJ.toBody, FmtJ.mk.injEq]
  and_intros <;>
  · repeat' first | rw [extract_append_low _ _ _ _ (by decide)] | rw [extract_append_high _ _ _ _ (by decide)]
    exact extract_all _

theorem FmtJ.toBody_ofBody (x : BitVec 47) : (FmtJ.ofBody x).toBody = x := by
  simp only [FmtJ.ofBody, FmtJ.toBody]
  repeat rw [extract_join _ _ _ _ _ (by decide)]
  exact extract_all x


theorem FmtE.ofBody_toBody (o : FmtE) : FmtE.ofBody o.toBody = o := by
  obtain ⟨t1, t2, t3, fs, s1, s2, f⟩ := o
  simp only [FmtE.ofBody, FmtE.toBody, FmtE.mk.injEq]
  and_intros <;>
  · repeat' first | rw [extract_append_low _ _ _ _ (by decide)] | rw [extract_append_high _ _ _ _ (by decide)]
    exact extract_all _

theorem FmtE.toBody_ofBody (x : BitVec 47) : (FmtE.ofBody x).toBody = x := by
  simp only [FmtE.ofBody, FmtE.toBody]
  repeat rw [extract_join _ _ _ _ _ (by decide)]
  exact extract_all x


theorem FmtY.ofBody_toBody (o : FmtY) : FmtY.ofBody o.toBody = o := by
  obtain ⟨d, sr, s1, f⟩ := o
  simp only [FmtY.ofBody, FmtY.toBody, FmtY.mk.injEq]
  and_intros <;>
  · repeat' first | rw [extract_append_low _ _ _ _ (by decide)] | rw [extract_append_high _ _ _ _ (by decide)]
    exact extract_all _

theorem FmtY.toBody_ofBody (x : BitVec 47) : (FmtY.ofBody x).toBody = x := by
  simp only [FmtY.ofBody, FmtY.toBody]
  repeat rw [extract_join _ _ _ _ _ (by decide)]
  exact extract_all x


/-! ## Words -/

theorem getLsbD_of_extract {n : Nat} (x : BitVec n) (k : Nat) (b : Bool) (h : x.extractLsb' k 1 = BitVec.ofBool b) :
    x.getLsbD k = b := by
  have := congrArg (fun y : BitVec 1 => y.getLsbD 0) h
  simpa [BitVec.getLsbD_extractLsb'] using this

theorem ofBool_getLsbD {n : Nat} (x : BitVec n) (k : Nat) : BitVec.ofBool (x.getLsbD k) = x.extractLsb' k 1 := by
  ext i hi
  have : i = 0 := by omega
  subst this
  simp [BitVec.getElem_extractLsb']

theorem View.sylCls_word (v : View) : sylCls v.word = v.cls := by
  simp only [sylCls, View.word]
  repeat' first | rw [extract_append_low _ _ _ _ (by decide)] | rw [extract_append_high _ _ _ _ (by decide)]
  exact extract_all _

theorem View.sylOp_word (v : View) : sylOp v.word = v.op := by
  simp only [sylOp, View.word]
  repeat' first | rw [extract_append_low _ _ _ _ (by decide)] | rw [extract_append_high _ _ _ _ (by decide)]
  exact extract_all _

theorem View.sylHdr_word (v : View) : sylHdr v.word = v.h := by
  obtain ⟨c, p, ⟨e, pn, pi⟩, g⟩ := v
  simp only [sylHdr, View.word, Hdr.mk.injEq]
  refine ⟨getLsbD_of_extract _ _ _ ?_, getLsbD_of_extract _ _ _ ?_, ?_⟩ <;>
  · repeat' first | rw [extract_append_low _ _ _ _ (by decide)] | rw [extract_append_high _ _ _ _ (by decide)]
    exact extract_all _

theorem View.body_word (v : View) : v.word.extractLsb' 0 47 = v.fields.body := by
  simp only [View.word]
  repeat' first | rw [extract_append_low _ _ _ _ (by decide)] | rw [extract_append_high _ _ _ _ (by decide)]
  exact extract_all _

/-- The word of a view parses as its class, header, opcode and body say. -/
theorem View.parseWord_word (v : View) : parseWord v.word = v.parse := by
  rw [parseWord, View.sylCls_word, View.sylHdr_word, View.sylOp_word, View.body_word, View.parse]

/-- A word is that of the class, opcode, header and body it holds. -/
theorem word_eq (w : DWord) (g : Fields) (hg : g.body = w.extractLsb' 0 47) :
    (View.word ⟨sylCls w, sylOp w, sylHdr w, g⟩) = w := by
  simp only [View.word, hg, sylCls, sylOp, sylHdr, ofBool_getLsbD]
  repeat rw [extract_join _ _ _ _ _ (by decide)]
  exact extract_all w

/-- Decode of encode for one instruction, from what the opcode map answers for its fields. -/
theorem decode_of_parse {i : Instr} {v : View} (hv : i.view = some v) (hp : i.formOk = true → v.parse = some i) (hw : i.wf = true)
    (w : DWord) (he : encode i = some w) : decodeWord w = .ok i := by
  have e : w = v.word := by simpa [encode, hv, eq_comm] using he
  simp only [Instr.wf, hv, Instr.syllableOk, Bool.and_eq_true, View.wf] at hw
  obtain ⟨⟨⟨h1, h2⟩, h3⟩, h4⟩ := hw
  subst e
  unfold decodeWord
  rw [View.parseWord_word, hp h4]
  simp only [hv, h1, h2]
  simpa using h3

end Sys2Proof
end

