-- ==== Sys2Proof/Laws/Int.lean ====
section
/-! SUPPORT. The element operations of the integer instructions on a whole word, in terms of bit vectors. -/

namespace Sys2Proof.Machine

theorem sext_toInt (a : Word) : sext 32 a.toNat = a.toInt := by
  simp only [sext, BitVec.toInt]
  rw [Nat.mod_eq_of_lt a.isLt]
  have := a.isLt
  split <;> split <;> omega

theorem toWord_toNat (a : Word) : toWord a.toNat = a := by simp [toWord]

theorem toWord_of_lt {n : Nat} (h : n < 2 ^ 32) : (toWord n).toNat = n := by
  rw [toWord, BitVec.toNat_ofNat, Nat.mod_eq_of_lt h]

theorem toWord_trunc (x : Int) : toWord (trunc 32 x) = BitVec.ofInt 32 x := by
  apply BitVec.eq_of_toNat_eq
  rw [toWord, BitVec.toNat_ofNat, BitVec.toNat_ofInt, trunc]
  have h2 := Int.emod_lt_of_pos x (show (0 : Int) < ((2 ^ 32 : Nat) : Int) by decide)
  omega

theorem word_opAdd (a b : Word) : toWord (opAdd 32 a.toNat b.toNat) = a + b := by
  rw [opAdd, toWord_trunc, sext_toInt, sext_toInt, BitVec.ofInt_add, BitVec.ofInt_toInt, BitVec.ofInt_toInt]

theorem word_opSub (a b : Word) : toWord (opSub 32 a.toNat b.toNat) = a - b := by
  rw [opSub, toWord_trunc, sext_toInt, sext_toInt, Int.sub_eq_add_neg, BitVec.ofInt_add, BitVec.ofInt_neg, BitVec.ofInt_toInt,
    BitVec.ofInt_toInt, BitVec.sub_eq_add_neg]

theorem word_opMul (a b : Word) : toWord (opMul 32 a.toNat b.toNat) = a * b := by
  rw [opMul, toWord_trunc, sext_toInt, sext_toInt, BitVec.ofInt_mul, BitVec.ofInt_toInt, BitVec.ofInt_toInt]

theorem word_opMulh (a b : Word) : toWord (opMulh 32 a.toNat b.toNat) = BitVec.ofInt 32 (a.toInt * b.toInt / 2 ^ 32) := by
  rw [opMulh, toWord_trunc, sext_toInt, sext_toInt]
  rfl

theorem word_opSdiv (a b : Word) : toWord (opSdiv a.toNat b.toNat) =
    if b = 0 then (if a.slt 0 then 1 else BitVec.allOnes 32)
    else if a = BitVec.intMin 32 ∧ b = BitVec.allOnes 32 then BitVec.intMin 32
    else BitVec.ofInt 32 (Int.tdiv a.toInt b.toInt) := by
  simp only [opSdiv, toWord_trunc, sext_toInt]
  by_cases hb : b = 0
  · subst hb
    have h0 : BitVec.toInt (0 : Word) = 0 := rfl
    simp only [h0, if_true, BitVec.slt, decide_eq_true_eq]
    by_cases ha : 0 ≤ a.toInt
    · rw [if_pos ha, if_neg (by omega)]; rfl
    · rw [if_neg ha, if_pos (by omega)]; rfl
  · have hz : b.toInt ≠ 0 := fun h => hb (BitVec.eq_of_toInt_eq h)
    rw [if_neg hz, if_neg hb]
    split
    · next h => rw [h.1, h.2]; decide
    · rfl

theorem word_opSdivu (a b : Word) : toWord (opSdivu a.toNat b.toNat) = if b = 0 then BitVec.allOnes 32 else a / b := by
  by_cases hb : b = 0
  · subst hb; rfl
  · have hz : b.toNat ≠ 0 := fun h => hb (BitVec.eq_of_toNat_eq h)
    rw [opSdivu, if_neg hz, if_neg hb]
    apply BitVec.eq_of_toNat_eq
    rw [toWord_of_lt (Nat.lt_of_le_of_lt (Nat.div_le_self _ _) a.isLt), BitVec.toNat_udiv]

theorem word_and (a b : Word) : toWord (a.toNat &&& b.toNat) = a &&& b := by rw [← BitVec.toNat_and, toWord_toNat]
theorem word_or (a b : Word) : toWord (a.toNat ||| b.toNat) = a ||| b := by rw [← BitVec.toNat_or, toWord_toNat]
theorem word_xor (a b : Word) : toWord (a.toNat ^^^ b.toNat) = a ^^^ b := by rw [← BitVec.toNat_xor, toWord_toNat]

theorem word_opAndn (a b : Word) : toWord (opAndn 32 a.toNat b.toNat) = a &&& ~~~b := by
  have h : 2 ^ 32 - 1 - b.toNat = (~~~b).toNat := by rw [BitVec.toNat_not]
  rw [opAndn, h, word_and]

theorem word_opShl (a b : Word) : toWord (opShl 32 a.toNat b.toNat) = a <<< (b.toNat % 32) := by
  rw [opShl, toWord_trunc]
  apply BitVec.eq_of_toNat_eq
  rw [BitVec.toNat_ofInt, BitVec.toNat_shiftLeft, Nat.shiftLeft_eq]
  exact Int.toNat_natCast _

theorem word_opShr (a b : Word) : toWord (opShr 32 a.toNat b.toNat) = a >>> (b.toNat % 32) := by
  rw [opShr]
  apply BitVec.eq_of_toNat_eq
  rw [toWord_of_lt (Nat.lt_of_le_of_lt (Nat.div_le_self _ _) a.isLt), BitVec.toNat_ushiftRight, Nat.shiftRight_eq_div_pow]

theorem word_opSra (a b : Word) : toWord (opSra 32 a.toNat b.toNat) = a.sshiftRight (b.toNat % 32) := by
  rw [opSra, toWord_trunc, sext_toInt]
  rw [← Int.shiftRight_eq_div_pow, ← BitVec.toInt_sshiftRight, BitVec.ofInt_toInt]

theorem word_opMin (a b : Word) : toWord (opMin 32 a.toNat b.toNat) = if b.slt a then b else a := by
  rw [opMin, toWord_trunc, sext_toInt, sext_toInt]
  simp only [BitVec.slt, decide_eq_true_eq]
  split
  · next h => rw [Int.min_eq_right (Int.le_of_lt h), BitVec.ofInt_toInt]
  · next h => rw [Int.min_eq_left (Int.not_lt.1 h), BitVec.ofInt_toInt]

theorem word_opMax (a b : Word) : toWord (opMax 32 a.toNat b.toNat) = if a.slt b then b else a := by
  rw [opMax, toWord_trunc, sext_toInt, sext_toInt]
  simp only [BitVec.slt, decide_eq_true_eq]
  split
  · next h => rw [Int.max_eq_right (Int.le_of_lt h), BitVec.ofInt_toInt]
  · next h => rw [Int.max_eq_left (Int.not_lt.1 h), BitVec.ofInt_toInt]

theorem word_min (a b : Word) : toWord (min a.toNat b.toNat) = if b.ult a then b else a := by
  simp only [BitVec.ult, decide_eq_true_eq]
  split
  · next h => rw [Nat.min_eq_right (Nat.le_of_lt h), toWord_toNat]
  · next h => rw [Nat.min_eq_left (Nat.not_lt.1 h), toWord_toNat]

theorem word_max (a b : Word) : toWord (max a.toNat b.toNat) = if a.ult b then b else a := by
  simp only [BitVec.ult, decide_eq_true_eq]
  split
  · next h => rw [Nat.max_eq_right (Nat.le_of_lt h), toWord_toNat]
  · next h => rw [Nat.max_eq_left (Nat.not_lt.1 h), toWord_toNat]

/-- The sign-extended immediate of R195 is a 32-bit word. -/
theorem immSx_toNat (i : BitVec 24) : immSx 32 i.toNat = (i.signExtend 32).toNat := by
  have h : sext 24 i.toNat = i.toInt := by
    simp only [sext, BitVec.toInt]
    rw [Nat.mod_eq_of_lt i.isLt]
    have := i.isLt
    split <;> split <;> omega
  have := toWord_trunc i.toInt
  rw [immSx, h, BitVec.signExtend, ← this, toWord_of_lt]
  have h2 := Int.emod_lt_of_pos i.toInt (show (0 : Int) < ((2 ^ 32 : Nat) : Int) by decide)
  have h1 := Int.emod_nonneg i.toInt (show ((2 ^ 32 : Nat) : Int) ≠ 0 by decide)
  rw [trunc]
  omega

/-- The immediate of a compare is a 32-bit word. -/
theorem immCmp_toNat (i : BitVec 24) : immCmp 32 i.toNat = ((i.extractLsb' 0 19).signExtend 32).toNat := by
  have h : sext 19 i.toNat = (i.extractLsb' 0 19).toInt := by
    simp only [sext, BitVec.toInt, BitVec.extractLsb'_toNat, Nat.shiftRight_zero]
    split <;> split <;> omega
  have := toWord_trunc (i.extractLsb' 0 19).toInt
  rw [immCmp, h, BitVec.signExtend, ← this, toWord_of_lt]
  have h2 := Int.emod_lt_of_pos (i.extractLsb' 0 19).toInt (show (0 : Int) < ((2 ^ 32 : Nat) : Int) by decide)
  have h1 := Int.emod_nonneg (i.extractLsb' 0 19).toInt (show ((2 ^ 32 : Nat) : Int) ≠ 0 by decide)
  rw [trunc]
  omega

end Sys2Proof.Machine
end

