-- ==== Sys2Proof/Laws/PerInstr.lean ====
section
/-! SUPPORT. One family of statements per instruction, RoundTrip: decoding the encoding of a well-formed syllable gives it back, every
operand at every value; an event has no encoding. -/

namespace Sys2Proof.Laws.RoundTrip

/-- Decode of encode is the instruction itself. -/
def Statement (i : Instr) : Prop := i.wf = true → ∀ w, encode i = some w → decodeWord w = .ok i

/-- An event has no encoding. -/
theorem of_event {i : Instr} (h : i.view = none) : Statement i := by
  intro _ w he
  simp [encode, h] at he

theorem nop (h : Hdr) (o : FmtA) : Statement (.nop h o) :=
  decode_of_parse (v := ⟨0, 0x00, h, .a o⟩) rfl fun _ => congrArg (fun x => some (Instr.nop h x)) (FmtA.ofBody_toBody o)
theorem sadd (h : Hdr) (o : FmtA) : Statement (.sadd h o) :=
  decode_of_parse (v := ⟨0, 0x01, h, .a o⟩) rfl fun _ => congrArg (fun x => some (Instr.sadd h x)) (FmtA.ofBody_toBody o)
theorem ssub (h : Hdr) (o : FmtA) : Statement (.ssub h o) :=
  decode_of_parse (v := ⟨0, 0x02, h, .a o⟩) rfl fun _ => congrArg (fun x => some (Instr.ssub h x)) (FmtA.ofBody_toBody o)
theorem smul (h : Hdr) (o : FmtA) : Statement (.smul h o) :=
  decode_of_parse (v := ⟨0, 0x03, h, .a o⟩) rfl fun _ => congrArg (fun x => some (Instr.smul h x)) (FmtA.ofBody_toBody o)
theorem smulh (h : Hdr) (o : FmtA) : Statement (.smulh h o) :=
  decode_of_parse (v := ⟨0, 0x04, h, .a o⟩) rfl fun _ => congrArg (fun x => some (Instr.smulh h x)) (FmtA.ofBody_toBody o)
theorem smulhu (h : Hdr) (o : FmtA) : Statement (.smulhu h o) :=
  decode_of_parse (v := ⟨0, 0x05, h, .a o⟩) rfl fun _ => congrArg (fun x => some (Instr.smulhu h x)) (FmtA.ofBody_toBody o)
theorem sdiv (h : Hdr) (o : FmtA) : Statement (.sdiv h o) :=
  decode_of_parse (v := ⟨0, 0x06, h, .a o⟩) rfl fun _ => congrArg (fun x => some (Instr.sdiv h x)) (FmtA.ofBody_toBody o)
theorem sdivu (h : Hdr) (o : FmtA) : Statement (.sdivu h o) :=
  decode_of_parse (v := ⟨0, 0x07, h, .a o⟩) rfl fun _ => congrArg (fun x => some (Instr.sdivu h x)) (FmtA.ofBody_toBody o)
theorem sand (h : Hdr) (o : FmtA) : Statement (.sand h o) :=
  decode_of_parse (v := ⟨0, 0x0A, h, .a o⟩) rfl fun _ => congrArg (fun x => some (Instr.sand h x)) (FmtA.ofBody_toBody o)
theorem sor (h : Hdr) (o : FmtA) : Statement (.sor h o) :=
  decode_of_parse (v := ⟨0, 0x0B, h, .a o⟩) rfl fun _ => congrArg (fun x => some (Instr.sor h x)) (FmtA.ofBody_toBody o)
theorem sxor (h : Hdr) (o : FmtA) : Statement (.sxor h o) :=
  decode_of_parse (v := ⟨0, 0x0C, h, .a o⟩) rfl fun _ => congrArg (fun x => some (Instr.sxor h x)) (FmtA.ofBody_toBody o)
theorem sandn (h : Hdr) (o : FmtA) : Statement (.sandn h o) :=
  decode_of_parse (v := ⟨0, 0x0D, h, .a o⟩) rfl fun _ => congrArg (fun x => some (Instr.sandn h x)) (FmtA.ofBody_toBody o)
theorem sshl (h : Hdr) (o : FmtA) : Statement (.sshl h o) :=
  decode_of_parse (v := ⟨0, 0x0E, h, .a o⟩) rfl fun _ => congrArg (fun x => some (Instr.sshl h x)) (FmtA.ofBody_toBody o)
theorem sshr (h : Hdr) (o : FmtA) : Statement (.sshr h o) :=
  decode_of_parse (v := ⟨0, 0x0F, h, .a o⟩) rfl fun _ => congrArg (fun x => some (Instr.sshr h x)) (FmtA.ofBody_toBody o)
theorem ssra (h : Hdr) (o : FmtA) : Statement (.ssra h o) :=
  decode_of_parse (v := ⟨0, 0x10, h, .a o⟩) rfl fun _ => congrArg (fun x => some (Instr.ssra h x)) (FmtA.ofBody_toBody o)
theorem smin (h : Hdr) (o : FmtA) : Statement (.smin h o) :=
  decode_of_parse (v := ⟨0, 0x11, h, .a o⟩) rfl fun _ => congrArg (fun x => some (Instr.smin h x)) (FmtA.ofBody_toBody o)
theorem smax (h : Hdr) (o : FmtA) : Statement (.smax h o) :=
  decode_of_parse (v := ⟨0, 0x12, h, .a o⟩) rfl fun _ => congrArg (fun x => some (Instr.smax h x)) (FmtA.ofBody_toBody o)
theorem sminu (h : Hdr) (o : FmtA) : Statement (.sminu h o) :=
  decode_of_parse (v := ⟨0, 0x13, h, .a o⟩) rfl fun _ => congrArg (fun x => some (Instr.sminu h x)) (FmtA.ofBody_toBody o)
theorem smaxu (h : Hdr) (o : FmtA) : Statement (.smaxu h o) :=
  decode_of_parse (v := ⟨0, 0x14, h, .a o⟩) rfl fun _ => congrArg (fun x => some (Instr.smaxu h x)) (FmtA.ofBody_toBody o)
theorem scmp (h : Hdr) (o : FmtA) : Statement (.scmp h o) :=
  decode_of_parse (v := ⟨0, 0x15, h, .a o⟩) rfl fun _ => congrArg (fun x => some (Instr.scmp h x)) (FmtA.ofBody_toBody o)
theorem ssel (h : Hdr) (o : FmtA) : Statement (.ssel h o) :=
  decode_of_parse (v := ⟨0, 0x16, h, .a o⟩) rfl fun _ => congrArg (fun x => some (Instr.ssel h x)) (FmtA.ofBody_toBody o)
theorem spopc (h : Hdr) (o : FmtA) : Statement (.spopc h o) :=
  decode_of_parse (v := ⟨0, 0x17, h, .a o⟩) rfl fun _ => congrArg (fun x => some (Instr.spopc h x)) (FmtA.ofBody_toBody o)
theorem sclz (h : Hdr) (o : FmtA) : Statement (.sclz h o) :=
  decode_of_parse (v := ⟨0, 0x18, h, .a o⟩) rfl fun _ => congrArg (fun x => some (Instr.sclz h x)) (FmtA.ofBody_toBody o)
theorem sbfx (h : Hdr) (o : FmtA) : Statement (.sbfx h o) :=
  decode_of_parse (v := ⟨0, 0x19, h, .a o⟩) rfl fun _ => congrArg (fun x => some (Instr.sbfx h x)) (FmtA.ofBody_toBody o)
theorem sbfi (h : Hdr) (o : FmtA) : Statement (.sbfi h o) :=
  decode_of_parse (v := ⟨0, 0x1A, h, .a o⟩) rfl fun _ => congrArg (fun x => some (Instr.sbfi h x)) (FmtA.ofBody_toBody o)
theorem sadd64 (h : Hdr) (o : FmtA) : Statement (.sadd64 h o) :=
  decode_of_parse (v := ⟨0, 0x1B, h, .a o⟩) rfl fun _ => congrArg (fun x => some (Instr.sadd64 h x)) (FmtA.ofBody_toBody o)
theorem saddi (h : Hdr) (o : FmtB) : Statement (.saddi h o) :=
  decode_of_parse (v := ⟨0, 0x20, h, .b o⟩) rfl fun _ => congrArg (fun x => some (Instr.saddi h x)) (FmtB.ofBody_toBody o)
theorem sandi (h : Hdr) (o : FmtB) : Statement (.sandi h o) :=
  decode_of_parse (v := ⟨0, 0x21, h, .b o⟩) rfl fun _ => congrArg (fun x => some (Instr.sandi h x)) (FmtB.ofBody_toBody o)
theorem sori (h : Hdr) (o : FmtB) : Statement (.sori h o) :=
  decode_of_parse (v := ⟨0, 0x22, h, .b o⟩) rfl fun _ => congrArg (fun x => some (Instr.sori h x)) (FmtB.ofBody_toBody o)
theorem sxori (h : Hdr) (o : FmtB) : Statement (.sxori h o) :=
  decode_of_parse (v := ⟨0, 0x23, h, .b o⟩) rfl fun _ => congrArg (fun x => some (Instr.sxori h x)) (FmtB.ofBody_toBody o)
theorem sshli (h : Hdr) (o : FmtB) : Statement (.sshli h o) :=
  decode_of_parse (v := ⟨0, 0x24, h, .b o⟩) rfl fun _ => congrArg (fun x => some (Instr.sshli h x)) (FmtB.ofBody_toBody o)
theorem sshri (h : Hdr) (o : FmtB) : Statement (.sshri h o) :=
  decode_of_parse (v := ⟨0, 0x25, h, .b o⟩) rfl fun _ => congrArg (fun x => some (Instr.sshri h x)) (FmtB.ofBody_toBody o)
theorem ssrai (h : Hdr) (o : FmtB) : Statement (.ssrai h o) :=
  decode_of_parse (v := ⟨0, 0x26, h, .b o⟩) rfl fun _ => congrArg (fun x => some (Instr.ssrai h x)) (FmtB.ofBody_toBody o)
theorem scmpi (h : Hdr) (o : FmtB) : Statement (.scmpi h o) :=
  decode_of_parse (v := ⟨0, 0x27, h, .b o⟩) rfl fun _ => congrArg (fun x => some (Instr.scmpi h x)) (FmtB.ofBody_toBody o)
theorem sli (h : Hdr) (o : FmtC) : Statement (.sli h o) :=
  decode_of_parse (v := ⟨0, 0x28, h, .c o⟩) rfl fun hf => by
    show some (formU28 h (FmtC.ofBody o.toBody)) = _
    rw [FmtC.ofBody_toBody]
    replace hf : (o.f ≠ 1 && o.f ≠ 2 : Bool) = true := hf; simp at hf; simp [formU28, hf]
theorem sliHi (h : Hdr) (o : FmtC) : Statement (.sliHi h o) :=
  decode_of_parse (v := ⟨0, 0x28, h, .c o⟩) rfl fun hf => by
    show some (formU28 h (FmtC.ofBody o.toBody)) = _
    rw [FmtC.ofBody_toBody]
    replace hf : (o.f = 1 : Bool) = true := hf; simp at hf; simp [formU28, hf]
theorem sliSx (h : Hdr) (o : FmtC) : Statement (.sliSx h o) :=
  decode_of_parse (v := ⟨0, 0x28, h, .c o⟩) rfl fun hf => by
    show some (formU28 h (FmtC.ofBody o.toBody)) = _
    rw [FmtC.ofBody_toBody]
    replace hf : (o.f = 2 : Bool) = true := hf; simp at hf; simp [formU28, hf]
theorem clog (h : Hdr) (o : FmtA) : Statement (.clog h o) :=
  decode_of_parse (v := ⟨0, 0x29, h, .a o⟩) rfl fun _ => congrArg (fun x => some (Instr.clog h x)) (FmtA.ofBody_toBody o)
theorem br (h : Hdr) (o : FmtJ) : Statement (.br h o) :=
  decode_of_parse (v := ⟨0, 0x40, h, .j o⟩) rfl fun _ => congrArg (fun x => some (Instr.br h x)) (FmtJ.ofBody_toBody o)
theorem brl (h : Hdr) (o : FmtJ) : Statement (.brl h o) :=
  decode_of_parse (v := ⟨0, 0x41, h, .j o⟩) rfl fun _ => congrArg (fun x => some (Instr.brl h x)) (FmtJ.ofBody_toBody o)
theorem bri (h : Hdr) (o : FmtJ) : Statement (.bri h o) :=
  decode_of_parse (v := ⟨0, 0x42, h, .j o⟩) rfl fun _ => congrArg (fun x => some (Instr.bri h x)) (FmtJ.ofBody_toBody o)
theorem brli (h : Hdr) (o : FmtJ) : Statement (.brli h o) :=
  decode_of_parse (v := ⟨0, 0x43, h, .j o⟩) rfl fun _ => congrArg (fun x => some (Instr.brli h x)) (FmtJ.ofBody_toBody o)
theorem brp (h : Hdr) (o : FmtJ) : Statement (.brp h o) :=
  decode_of_parse (v := ⟨0, 0x44, h, .j o⟩) rfl fun _ => congrArg (fun x => some (Instr.brp h x)) (FmtJ.ofBody_toBody o)
theorem loopb (h : Hdr) (o : FmtJ) : Statement (.loopb h o) :=
  decode_of_parse (v := ⟨0, 0x45, h, .j o⟩) rfl fun _ => congrArg (fun x => some (Instr.loopb h x)) (FmtJ.ofBody_toBody o)
theorem exit (h : Hdr) (o : FmtJ) : Statement (.exit h o) :=
  decode_of_parse (v := ⟨0, 0x46, h, .j o⟩) rfl fun _ => congrArg (fun x => some (Instr.exit h x)) (FmtJ.ofBody_toBody o)
theorem trap (h : Hdr) (o : FmtC) : Statement (.trap h o) :=
  decode_of_parse (v := ⟨0, 0x47, h, .c o⟩) rfl fun _ => congrArg (fun x => some (Instr.trap h x)) (FmtC.ofBody_toBody o)
theorem brk (h : Hdr) (o : FmtC) : Statement (.brk h o) :=
  decode_of_parse (v := ⟨0, 0x4D, h, .c o⟩) rfl fun _ => congrArg (fun x => some (Instr.brk h x)) (FmtC.ofBody_toBody o)
theorem swpt (h : Hdr) (o : FmtC) : Statement (.swpt h o) :=
  decode_of_parse (v := ⟨0, 0x48, h, .c o⟩) rfl fun _ => congrArg (fun x => some (Instr.swpt h x)) (FmtC.ofBody_toBody o)
theorem trigger (h : Hdr) (o : FmtY) : Statement (.trigger h o) :=
  decode_of_parse (v := ⟨0, 0x49, h, .y o⟩) rfl fun _ => congrArg (fun x => some (Instr.trigger h x)) (FmtY.ofBody_toBody o)
theorem gridwait (h : Hdr) (o : FmtY) : Statement (.gridwait h o) :=
  decode_of_parse (v := ⟨0, 0x4A, h, .y o⟩) rfl fun _ => congrArg (fun x => some (Instr.gridwait h x)) (FmtY.ofBody_toBody o)
theorem wait (h : Hdr) (o : FmtC) : Statement (.wait h o) :=
  decode_of_parse (v := ⟨0, 0x4B, h, .c o⟩) rfl fun _ => congrArg (fun x => some (Instr.wait h x)) (FmtC.ofBody_toBody o)
theorem mfs (h : Hdr) (o : FmtY) : Statement (.mfs h o) :=
  decode_of_parse (v := ⟨0, 0x60, h, .y o⟩) rfl fun _ => congrArg (fun x => some (Instr.mfs h x)) (FmtY.ofBody_toBody o)
theorem mts (h : Hdr) (o : FmtY) : Statement (.mts h o) :=
  decode_of_parse (v := ⟨0, 0x61, h, .y o⟩) rfl fun hf => by
    show some (formU61 h (FmtY.ofBody o.toBody)) = _
    rw [FmtY.ofBody_toBody]
    exact congrArg some (of_decide_eq_true hf)
theorem mtsTsh (h : Hdr) (o : FmtY) : Statement (.mtsTsh h o) :=
  decode_of_parse (v := ⟨0, 0x61, h, .y o⟩) rfl fun hf => by
    show some (formU61 h (FmtY.ofBody o.toBody)) = _
    rw [FmtY.ofBody_toBody]
    exact congrArg some (of_decide_eq_true hf)
theorem mtsPlane (h : Hdr) (o : FmtY) : Statement (.mtsPlane h o) :=
  decode_of_parse (v := ⟨0, 0x61, h, .y o⟩) rfl fun hf => by
    show some (formU61 h (FmtY.ofBody o.toBody)) = _
    rw [FmtY.ofBody_toBody]
    exact congrArg some (of_decide_eq_true hf)
theorem mtsSplit (h : Hdr) (o : FmtY) : Statement (.mtsSplit h o) :=
  decode_of_parse (v := ⟨0, 0x61, h, .y o⟩) rfl fun hf => by
    show some (formU61 h (FmtY.ofBody o.toBody)) = _
    rw [FmtY.ofBody_toBody]
    exact congrArg some (of_decide_eq_true hf)
theorem mtsRot (h : Hdr) (o : FmtY) : Statement (.mtsRot h o) :=
  decode_of_parse (v := ⟨0, 0x61, h, .y o⟩) rfl fun hf => by
    show some (formU61 h (FmtY.ofBody o.toBody)) = _
    rw [FmtY.ofBody_toBody]
    exact congrArg some (of_decide_eq_true hf)
theorem ringReset (h : Hdr) (o : FmtY) : Statement (.ringReset h o) :=
  decode_of_parse (v := ⟨0, 0x61, h, .y o⟩) rfl fun hf => by
    show some (formU61 h (FmtY.ofBody o.toBody)) = _
    rw [FmtY.ofBody_toBody]
    exact congrArg some (of_decide_eq_true hf)
theorem mtsDrpth (h : Hdr) (o : FmtY) : Statement (.mtsDrpth h o) :=
  decode_of_parse (v := ⟨0, 0x61, h, .y o⟩) rfl fun hf => by
    show some (formU61 h (FmtY.ofBody o.toBody)) = _
    rw [FmtY.ofBody_toBody]
    exact congrArg some (of_decide_eq_true hf)
theorem shelfctlWrite (h : Hdr) (o : FmtY) : Statement (.shelfctlWrite h o) :=
  decode_of_parse (v := ⟨0, 0x61, h, .y o⟩) rfl fun hf => by
    show some (formU61 h (FmtY.ofBody o.toBody)) = _
    rw [FmtY.ofBody_toBody]
    exact congrArg some (of_decide_eq_true hf)
theorem shelfctlLoad (h : Hdr) (o : FmtY) : Statement (.shelfctlLoad h o) :=
  decode_of_parse (v := ⟨0, 0x61, h, .y o⟩) rfl fun hf => by
    show some (formU61 h (FmtY.ofBody o.toBody)) = _
    rw [FmtY.ofBody_toBody]
    exact Bool.noConfusion hf
theorem time (h : Hdr) (o : FmtY) : Statement (.time h o) :=
  decode_of_parse (v := ⟨0, 0x62, h, .y o⟩) rfl fun _ => congrArg (fun x => some (Instr.time h x)) (FmtY.ofBody_toBody o)
theorem cyc (h : Hdr) (o : FmtY) : Statement (.cyc h o) :=
  decode_of_parse (v := ⟨0, 0x63, h, .y o⟩) rfl fun _ => congrArg (fun x => some (Instr.cyc h x)) (FmtY.ofBody_toBody o)
theorem fenceRel (h : Hdr) (o : FmtY) : Statement (.fenceRel h o) :=
  decode_of_parse (v := ⟨0, 0x64, h, .y o⟩) rfl fun hf => by
    show some (formU64 h (FmtY.ofBody o.toBody)) = _
    rw [FmtY.ofBody_toBody]
    replace hf : (o.f.extractLsb' 0 2 ≠ (2 : BitVec 2) && o.f.extractLsb' 0 2 ≠ (3 : BitVec 2) : Bool) = true := hf; simp at hf; simp [formU64, hf]
theorem fenceAcq (h : Hdr) (o : FmtY) : Statement (.fenceAcq h o) :=
  decode_of_parse (v := ⟨0, 0x64, h, .y o⟩) rfl fun hf => by
    show some (formU64 h (FmtY.ofBody o.toBody)) = _
    rw [FmtY.ofBody_toBody]
    replace hf : (o.f.extractLsb' 0 2 = (2 : BitVec 2) : Bool) = true := hf; simp at hf; simp [formU64, hf]
theorem fenceFull (h : Hdr) (o : FmtY) : Statement (.fenceFull h o) :=
  decode_of_parse (v := ⟨0, 0x64, h, .y o⟩) rfl fun hf => by
    show some (formU64 h (FmtY.ofBody o.toBody)) = _
    rw [FmtY.ofBody_toBody]
    replace hf : (o.f.extractLsb' 0 2 = (3 : BitVec 2) : Bool) = true := hf; simp at hf; simp [formU64, hf]
theorem rfxResume (h : Hdr) (o : FmtY) : Statement (.rfxResume h o) :=
  decode_of_parse (v := ⟨0, 0x65, h, .y o⟩) rfl fun hf => by
    show some (formU65 h (FmtY.ofBody o.toBody)) = _
    rw [FmtY.ofBody_toBody]
    replace hf : (o.f.extractLsb' 0 3 ≠ (1 : BitVec 3) && o.f.extractLsb' 0 3 ≠ (2 : BitVec 3) && o.f.extractLsb' 0 3 ≠ (3 : BitVec 3) : Bool) = true := hf; simp at hf; simp [formU65, hf]
theorem rfxSkip (h : Hdr) (o : FmtY) : Statement (.rfxSkip h o) :=
  decode_of_parse (v := ⟨0, 0x65, h, .y o⟩) rfl fun hf => by
    show some (formU65 h (FmtY.ofBody o.toBody)) = _
    rw [FmtY.ofBody_toBody]
    replace hf : (o.f.extractLsb' 0 3 = (1 : BitVec 3) : Bool) = true := hf; simp at hf; simp [formU65, hf]
theorem rfxKillb (h : Hdr) (o : FmtY) : Statement (.rfxKillb h o) :=
  decode_of_parse (v := ⟨0, 0x65, h, .y o⟩) rfl fun hf => by
    show some (formU65 h (FmtY.ofBody o.toBody)) = _
    rw [FmtY.ofBody_toBody]
    replace hf : (o.f.extractLsb' 0 3 = (2 : BitVec 3) : Bool) = true := hf; simp at hf; simp [formU65, hf]
theorem rfxKilll (h : Hdr) (o : FmtY) : Statement (.rfxKilll h o) :=
  decode_of_parse (v := ⟨0, 0x65, h, .y o⟩) rfl fun hf => by
    show some (formU65 h (FmtY.ofBody o.toBody)) = _
    rw [FmtY.ofBody_toBody]
    replace hf : (o.f.extractLsb' 0 3 = (3 : BitVec 3) : Bool) = true := hf; simp at hf; simp [formU65, hf]
theorem xinv (h : Hdr) (o : FmtY) : Statement (.xinv h o) :=
  decode_of_parse (v := ⟨0, 0x66, h, .y o⟩) rfl fun hf => by
    show some (formU66 h (FmtY.ofBody o.toBody)) = _
    rw [FmtY.ofBody_toBody]
    replace hf : (!o.f.getLsbD 0 : Bool) = true := hf; simp at hf; simp [formU66, hf]
theorem xinvAll (h : Hdr) (o : FmtY) : Statement (.xinvAll h o) :=
  decode_of_parse (v := ⟨0, 0x66, h, .y o⟩) rfl fun hf => by
    show some (formU66 h (FmtY.ofBody o.toBody)) = _
    rw [FmtY.ofBody_toBody]
    replace hf : (o.f.getLsbD 0 : Bool) = true := hf; simp at hf; simp [formU66, hf]
theorem vadd (h : Hdr) (o : FmtA) : Statement (.vadd h o) :=
  decode_of_parse (v := ⟨1, 0x00, h, .a o⟩) rfl fun _ => congrArg (fun x => some (Instr.vadd h x)) (FmtA.ofBody_toBody o)
theorem vsub (h : Hdr) (o : FmtA) : Statement (.vsub h o) :=
  decode_of_parse (v := ⟨1, 0x01, h, .a o⟩) rfl fun _ => congrArg (fun x => some (Instr.vsub h x)) (FmtA.ofBody_toBody o)
theorem vadds (h : Hdr) (o : FmtA) : Statement (.vadds h o) :=
  decode_of_parse (v := ⟨1, 0x02, h, .a o⟩) rfl fun _ => congrArg (fun x => some (Instr.vadds h x)) (FmtA.ofBody_toBody o)
theorem vaddsu (h : Hdr) (o : FmtA) : Statement (.vaddsu h o) :=
  decode_of_parse (v := ⟨1, 0x03, h, .a o⟩) rfl fun _ => congrArg (fun x => some (Instr.vaddsu h x)) (FmtA.ofBody_toBody o)
theorem vsubs (h : Hdr) (o : FmtA) : Statement (.vsubs h o) :=
  decode_of_parse (v := ⟨1, 0x04, h, .a o⟩) rfl fun _ => congrArg (fun x => some (Instr.vsubs h x)) (FmtA.ofBody_toBody o)
theorem vsubsu (h : Hdr) (o : FmtA) : Statement (.vsubsu h o) :=
  decode_of_parse (v := ⟨1, 0x05, h, .a o⟩) rfl fun _ => congrArg (fun x => some (Instr.vsubsu h x)) (FmtA.ofBody_toBody o)
theorem vmul (h : Hdr) (o : FmtA) : Statement (.vmul h o) :=
  decode_of_parse (v := ⟨1, 0x06, h, .a o⟩) rfl fun _ => congrArg (fun x => some (Instr.vmul h x)) (FmtA.ofBody_toBody o)
theorem vmulh (h : Hdr) (o : FmtA) : Statement (.vmulh h o) :=
  decode_of_parse (v := ⟨1, 0x07, h, .a o⟩) rfl fun _ => congrArg (fun x => some (Instr.vmulh h x)) (FmtA.ofBody_toBody o)
theorem vmulhu (h : Hdr) (o : FmtA) : Statement (.vmulhu h o) :=
  decode_of_parse (v := ⟨1, 0x08, h, .a o⟩) rfl fun _ => congrArg (fun x => some (Instr.vmulhu h x)) (FmtA.ofBody_toBody o)
theorem vmad (h : Hdr) (o : FmtA) : Statement (.vmad h o) :=
  decode_of_parse (v := ⟨1, 0x09, h, .a o⟩) rfl fun _ => congrArg (fun x => some (Instr.vmad h x)) (FmtA.ofBody_toBody o)
theorem vand (h : Hdr) (o : FmtA) : Statement (.vand h o) :=
  decode_of_parse (v := ⟨1, 0x0A, h, .a o⟩) rfl fun _ => congrArg (fun x => some (Instr.vand h x)) (FmtA.ofBody_toBody o)
theorem vor (h : Hdr) (o : FmtA) : Statement (.vor h o) :=
  decode_of_parse (v := ⟨1, 0x0B, h, .a o⟩) rfl fun _ => congrArg (fun x => some (Instr.vor h x)) (FmtA.ofBody_toBody o)
theorem vxor (h : Hdr) (o : FmtA) : Statement (.vxor h o) :=
  decode_of_parse (v := ⟨1, 0x0C, h, .a o⟩) rfl fun _ => congrArg (fun x => some (Instr.vxor h x)) (FmtA.ofBody_toBody o)
theorem vandn (h : Hdr) (o : FmtA) : Statement (.vandn h o) :=
  decode_of_parse (v := ⟨1, 0x0D, h, .a o⟩) rfl fun _ => congrArg (fun x => some (Instr.vandn h x)) (FmtA.ofBody_toBody o)
theorem vshl (h : Hdr) (o : FmtA) : Statement (.vshl h o) :=
  decode_of_parse (v := ⟨1, 0x0E, h, .a o⟩) rfl fun _ => congrArg (fun x => some (Instr.vshl h x)) (FmtA.ofBody_toBody o)
theorem vshr (h : Hdr) (o : FmtA) : Statement (.vshr h o) :=
  decode_of_parse (v := ⟨1, 0x0F, h, .a o⟩) rfl fun _ => congrArg (fun x => some (Instr.vshr h x)) (FmtA.ofBody_toBody o)
theorem vsra (h : Hdr) (o : FmtA) : Statement (.vsra h o) :=
  decode_of_parse (v := ⟨1, 0x10, h, .a o⟩) rfl fun _ => congrArg (fun x => some (Instr.vsra h x)) (FmtA.ofBody_toBody o)
theorem vmin (h : Hdr) (o : FmtA) : Statement (.vmin h o) :=
  decode_of_parse (v := ⟨1, 0x11, h, .a o⟩) rfl fun _ => congrArg (fun x => some (Instr.vmin h x)) (FmtA.ofBody_toBody o)
theorem vmax (h : Hdr) (o : FmtA) : Statement (.vmax h o) :=
  decode_of_parse (v := ⟨1, 0x12, h, .a o⟩) rfl fun _ => congrArg (fun x => some (Instr.vmax h x)) (FmtA.ofBody_toBody o)
theorem vminu (h : Hdr) (o : FmtA) : Statement (.vminu h o) :=
  decode_of_parse (v := ⟨1, 0x13, h, .a o⟩) rfl fun _ => congrArg (fun x => some (Instr.vminu h x)) (FmtA.ofBody_toBody o)
theorem vmaxu (h : Hdr) (o : FmtA) : Statement (.vmaxu h o) :=
  decode_of_parse (v := ⟨1, 0x14, h, .a o⟩) rfl fun _ => congrArg (fun x => some (Instr.vmaxu h x)) (FmtA.ofBody_toBody o)
theorem vabsd (h : Hdr) (o : FmtA) : Statement (.vabsd h o) :=
  decode_of_parse (v := ⟨1, 0x15, h, .a o⟩) rfl fun _ => congrArg (fun x => some (Instr.vabsd h x)) (FmtA.ofBody_toBody o)
theorem vcmp (h : Hdr) (o : FmtA) : Statement (.vcmp h o) :=
  decode_of_parse (v := ⟨1, 0x16, h, .a o⟩) rfl fun _ => congrArg (fun x => some (Instr.vcmp h x)) (FmtA.ofBody_toBody o)
theorem vsel (h : Hdr) (o : FmtA) : Statement (.vsel h o) :=
  decode_of_parse (v := ⟨1, 0x17, h, .a o⟩) rfl fun _ => congrArg (fun x => some (Instr.vsel h x)) (FmtA.ofBody_toBody o)
theorem vmov (h : Hdr) (o : FmtA) : Statement (.vmov h o) :=
  decode_of_parse (v := ⟨1, 0x18, h, .a o⟩) rfl fun _ => congrArg (fun x => some (Instr.vmov h x)) (FmtA.ofBody_toBody o)
theorem vpopc (h : Hdr) (o : FmtA) : Statement (.vpopc h o) :=
  decode_of_parse (v := ⟨1, 0x19, h, .a o⟩) rfl fun _ => congrArg (fun x => some (Instr.vpopc h x)) (FmtA.ofBody_toBody o)
theorem vclz (h : Hdr) (o : FmtA) : Statement (.vclz h o) :=
  decode_of_parse (v := ⟨1, 0x1A, h, .a o⟩) rfl fun _ => congrArg (fun x => some (Instr.vclz h x)) (FmtA.ofBody_toBody o)
theorem vbfx (h : Hdr) (o : FmtA) : Statement (.vbfx h o) :=
  decode_of_parse (v := ⟨1, 0x1B, h, .a o⟩) rfl fun _ => congrArg (fun x => some (Instr.vbfx h x)) (FmtA.ofBody_toBody o)
theorem vbfi (h : Hdr) (o : FmtA) : Statement (.vbfi h o) :=
  decode_of_parse (v := ⟨1, 0x1C, h, .a o⟩) rfl fun _ => congrArg (fun x => some (Instr.vbfi h x)) (FmtA.ofBody_toBody o)
theorem vaddi (h : Hdr) (o : FmtB) : Statement (.vaddi h o) :=
  decode_of_parse (v := ⟨1, 0x1D, h, .b o⟩) rfl fun _ => congrArg (fun x => some (Instr.vaddi h x)) (FmtB.ofBody_toBody o)
theorem vandi (h : Hdr) (o : FmtB) : Statement (.vandi h o) :=
  decode_of_parse (v := ⟨1, 0x1E, h, .b o⟩) rfl fun _ => congrArg (fun x => some (Instr.vandi h x)) (FmtB.ofBody_toBody o)
theorem vshli (h : Hdr) (o : FmtB) : Statement (.vshli h o) :=
  decode_of_parse (v := ⟨1, 0x1F, h, .b o⟩) rfl fun _ => congrArg (fun x => some (Instr.vshli h x)) (FmtB.ofBody_toBody o)
theorem vshri (h : Hdr) (o : FmtB) : Statement (.vshri h o) :=
  decode_of_parse (v := ⟨1, 0x20, h, .b o⟩) rfl fun _ => congrArg (fun x => some (Instr.vshri h x)) (FmtB.ofBody_toBody o)
theorem vsrai (h : Hdr) (o : FmtB) : Statement (.vsrai h o) :=
  decode_of_parse (v := ⟨1, 0x21, h, .b o⟩) rfl fun _ => congrArg (fun x => some (Instr.vsrai h x)) (FmtB.ofBody_toBody o)
theorem vli (h : Hdr) (o : FmtC) : Statement (.vli h o) :=
  decode_of_parse (v := ⟨1, 0x22, h, .c o⟩) rfl fun hf => by
    show some (formV22 h (FmtC.ofBody o.toBody)) = _
    rw [FmtC.ofBody_toBody]
    replace hf : (o.f ≠ 1 && o.f ≠ 2 : Bool) = true := hf; simp at hf; simp [formV22, hf]
theorem vliHi (h : Hdr) (o : FmtC) : Statement (.vliHi h o) :=
  decode_of_parse (v := ⟨1, 0x22, h, .c o⟩) rfl fun hf => by
    show some (formV22 h (FmtC.ofBody o.toBody)) = _
    rw [FmtC.ofBody_toBody]
    replace hf : (o.f = 1 : Bool) = true := hf; simp at hf; simp [formV22, hf]
theorem vliSx (h : Hdr) (o : FmtC) : Statement (.vliSx h o) :=
  decode_of_parse (v := ⟨1, 0x22, h, .c o⟩) rfl fun hf => by
    show some (formV22 h (FmtC.ofBody o.toBody)) = _
    rw [FmtC.ofBody_toBody]
    replace hf : (o.f = 2 : Bool) = true := hf; simp at hf; simp [formV22, hf]
theorem vdot4 (h : Hdr) (o : FmtA) : Statement (.vdot4 h o) :=
  decode_of_parse (v := ⟨1, 0x23, h, .a o⟩) rfl fun _ => congrArg (fun x => some (Instr.vdot4 h x)) (FmtA.ofBody_toBody o)
theorem vpack (h : Hdr) (o : FmtA) : Statement (.vpack h o) :=
  decode_of_parse (v := ⟨1, 0x24, h, .a o⟩) rfl fun _ => congrArg (fun x => some (Instr.vpack h x)) (FmtA.ofBody_toBody o)
theorem vunpk (h : Hdr) (o : FmtA) : Statement (.vunpk h o) :=
  decode_of_parse (v := ⟨1, 0x25, h, .a o⟩) rfl fun _ => congrArg (fun x => some (Instr.vunpk h x)) (FmtA.ofBody_toBody o)
theorem vcmpi (h : Hdr) (o : FmtB) : Statement (.vcmpi h o) :=
  decode_of_parse (v := ⟨1, 0x26, h, .b o⟩) rfl fun _ => congrArg (fun x => some (Instr.vcmpi h x)) (FmtB.ofBody_toBody o)
theorem vadd64 (h : Hdr) (o : FmtA) : Statement (.vadd64 h o) :=
  decode_of_parse (v := ⟨1, 0x27, h, .a o⟩) rfl fun _ => congrArg (fun x => some (Instr.vadd64 h x)) (FmtA.ofBody_toBody o)
theorem plog (h : Hdr) (o : FmtA) : Statement (.plog h o) :=
  decode_of_parse (v := ⟨1, 0x28, h, .a o⟩) rfl fun _ => congrArg (fun x => some (Instr.plog h x)) (FmtA.ofBody_toBody o)
theorem fadd (h : Hdr) (o : FmtA) : Statement (.fadd h o) :=
  decode_of_parse (v := ⟨1, 0x40, h, .a o⟩) rfl fun _ => congrArg (fun x => some (Instr.fadd h x)) (FmtA.ofBody_toBody o)
theorem fsub (h : Hdr) (o : FmtA) : Statement (.fsub h o) :=
  decode_of_parse (v := ⟨1, 0x41, h, .a o⟩) rfl fun _ => congrArg (fun x => some (Instr.fsub h x)) (FmtA.ofBody_toBody o)
theorem fmul (h : Hdr) (o : FmtA) : Statement (.fmul h o) :=
  decode_of_parse (v := ⟨1, 0x42, h, .a o⟩) rfl fun _ => congrArg (fun x => some (Instr.fmul h x)) (FmtA.ofBody_toBody o)
theorem ffma (h : Hdr) (o : FmtA) : Statement (.ffma h o) :=
  decode_of_parse (v := ⟨1, 0x43, h, .a o⟩) rfl fun _ => congrArg (fun x => some (Instr.ffma h x)) (FmtA.ofBody_toBody o)
theorem fmin (h : Hdr) (o : FmtA) : Statement (.fmin h o) :=
  decode_of_parse (v := ⟨1, 0x44, h, .a o⟩) rfl fun _ => congrArg (fun x => some (Instr.fmin h x)) (FmtA.ofBody_toBody o)
theorem fmax (h : Hdr) (o : FmtA) : Statement (.fmax h o) :=
  decode_of_parse (v := ⟨1, 0x45, h, .a o⟩) rfl fun _ => congrArg (fun x => some (Instr.fmax h x)) (FmtA.ofBody_toBody o)
theorem fcmp (h : Hdr) (o : FmtA) : Statement (.fcmp h o) :=
  decode_of_parse (v := ⟨1, 0x46, h, .a o⟩) rfl fun _ => congrArg (fun x => some (Instr.fcmp h x)) (FmtA.ofBody_toBody o)
theorem fcvt (h : Hdr) (o : FmtA) : Statement (.fcvt h o) :=
  decode_of_parse (v := ⟨1, 0x47, h, .a o⟩) rfl fun _ => congrArg (fun x => some (Instr.fcvt h x)) (FmtA.ofBody_toBody o)
theorem fcvti (h : Hdr) (o : FmtA) : Statement (.fcvti h o) :=
  decode_of_parse (v := ⟨1, 0x48, h, .a o⟩) rfl fun _ => congrArg (fun x => some (Instr.fcvti h x)) (FmtA.ofBody_toBody o)
theorem icvtf (h : Hdr) (o : FmtA) : Statement (.icvtf h o) :=
  decode_of_parse (v := ⟨1, 0x49, h, .a o⟩) rfl fun _ => congrArg (fun x => some (Instr.icvtf h x)) (FmtA.ofBody_toBody o)
theorem fmaxk (h : Hdr) (o : FmtA) : Statement (.fmaxk h o) :=
  decode_of_parse (v := ⟨1, 0x4A, h, .a o⟩) rfl fun _ => congrArg (fun x => some (Instr.fmaxk h x)) (FmtA.ofBody_toBody o)
theorem fclass (h : Hdr) (o : FmtA) : Statement (.fclass h o) :=
  decode_of_parse (v := ⟨1, 0x4B, h, .a o⟩) rfl fun _ => congrArg (fun x => some (Instr.fclass h x)) (FmtA.ofBody_toBody o)
theorem fdot2 (h : Hdr) (o : FmtA) : Statement (.fdot2 h o) :=
  decode_of_parse (v := ⟨1, 0x4C, h, .a o⟩) rfl fun _ => congrArg (fun x => some (Instr.fdot2 h x)) (FmtA.ofBody_toBody o)
theorem fmxq (h : Hdr) (o : FmtA) : Statement (.fmxq h o) :=
  decode_of_parse (v := ⟨1, 0x4D, h, .a o⟩) rfl fun _ => congrArg (fun x => some (Instr.fmxq h x)) (FmtA.ofBody_toBody o)
theorem fmxd (h : Hdr) (o : FmtA) : Statement (.fmxd h o) :=
  decode_of_parse (v := ⟨1, 0x4E, h, .a o⟩) rfl fun _ => congrArg (fun x => some (Instr.fmxd h x)) (FmtA.ofBody_toBody o)
theorem sfsin (h : Hdr) (o : FmtA) : Statement (.sfsin h o) :=
  decode_of_parse (v := ⟨1, 0x60, h, .a o⟩) rfl fun _ => congrArg (fun x => some (Instr.sfsin h x)) (FmtA.ofBody_toBody o)
theorem sfcos (h : Hdr) (o : FmtA) : Statement (.sfcos h o) :=
  decode_of_parse (v := ⟨1, 0x61, h, .a o⟩) rfl fun _ => congrArg (fun x => some (Instr.sfcos h x)) (FmtA.ofBody_toBody o)
theorem sfexp2 (h : Hdr) (o : FmtA) : Statement (.sfexp2 h o) :=
  decode_of_parse (v := ⟨1, 0x62, h, .a o⟩) rfl fun _ => congrArg (fun x => some (Instr.sfexp2 h x)) (FmtA.ofBody_toBody o)
theorem sflog2 (h : Hdr) (o : FmtA) : Statement (.sflog2 h o) :=
  decode_of_parse (v := ⟨1, 0x63, h, .a o⟩) rfl fun _ => congrArg (fun x => some (Instr.sflog2 h x)) (FmtA.ofBody_toBody o)
theorem sfrcp (h : Hdr) (o : FmtA) : Statement (.sfrcp h o) :=
  decode_of_parse (v := ⟨1, 0x64, h, .a o⟩) rfl fun _ => congrArg (fun x => some (Instr.sfrcp h x)) (FmtA.ofBody_toBody o)
theorem sfrsq (h : Hdr) (o : FmtA) : Statement (.sfrsq h o) :=
  decode_of_parse (v := ⟨1, 0x65, h, .a o⟩) rfl fun _ => congrArg (fun x => some (Instr.sfrsq h x)) (FmtA.ofBody_toBody o)
theorem sfsqrt (h : Hdr) (o : FmtA) : Statement (.sfsqrt h o) :=
  decode_of_parse (v := ⟨1, 0x66, h, .a o⟩) rfl fun _ => congrArg (fun x => some (Instr.sfsqrt h x)) (FmtA.ofBody_toBody o)
theorem sftwid (h : Hdr) (o : FmtA) : Statement (.sftwid h o) :=
  decode_of_parse (v := ⟨1, 0x67, h, .a o⟩) rfl fun _ => congrArg (fun x => some (Instr.sftwid h x)) (FmtA.ofBody_toBody o)
theorem xshf (h : Hdr) (o : FmtA) : Statement (.xshf h o) :=
  decode_of_parse (v := ⟨1, 0x70, h, .a o⟩) rfl fun _ => congrArg (fun x => some (Instr.xshf h x)) (FmtA.ofBody_toBody o)
theorem xbfly (h : Hdr) (o : FmtA) : Statement (.xbfly h o) :=
  decode_of_parse (v := ⟨1, 0x71, h, .a o⟩) rfl fun _ => congrArg (fun x => some (Instr.xbfly h x)) (FmtA.ofBody_toBody o)
theorem xup (h : Hdr) (o : FmtA) : Statement (.xup h o) :=
  decode_of_parse (v := ⟨1, 0x72, h, .a o⟩) rfl fun _ => congrArg (fun x => some (Instr.xup h x)) (FmtA.ofBody_toBody o)
theorem xdn (h : Hdr) (o : FmtA) : Statement (.xdn h o) :=
  decode_of_parse (v := ⟨1, 0x73, h, .a o⟩) rfl fun _ => congrArg (fun x => some (Instr.xdn h x)) (FmtA.ofBody_toBody o)
theorem xred (h : Hdr) (o : FmtA) : Statement (.xred h o) :=
  decode_of_parse (v := ⟨1, 0x74, h, .a o⟩) rfl fun _ => congrArg (fun x => some (Instr.xred h x)) (FmtA.ofBody_toBody o)
theorem xscan (h : Hdr) (o : FmtA) : Statement (.xscan h o) :=
  decode_of_parse (v := ⟨1, 0x75, h, .a o⟩) rfl fun _ => congrArg (fun x => some (Instr.xscan h x)) (FmtA.ofBody_toBody o)
theorem xballot (h : Hdr) (o : FmtA) : Statement (.xballot h o) :=
  decode_of_parse (v := ⟨1, 0x76, h, .a o⟩) rfl fun _ => congrArg (fun x => some (Instr.xballot h x)) (FmtA.ofBody_toBody o)
theorem xbcast (h : Hdr) (o : FmtA) : Statement (.xbcast h o) :=
  decode_of_parse (v := ⟨1, 0x77, h, .a o⟩) rfl fun _ => congrArg (fun x => some (Instr.xbcast h x)) (FmtA.ofBody_toBody o)
theorem xvote (h : Hdr) (o : FmtA) : Statement (.xvote h o) :=
  decode_of_parse (v := ⟨1, 0x78, h, .a o⟩) rfl fun _ => congrArg (fun x => some (Instr.xvote h x)) (FmtA.ofBody_toBody o)
theorem ldb (h : Hdr) (o : FmtM) : Statement (.ldb h o) :=
  decode_of_parse (v := ⟨2, 0x00, h, .m o⟩) rfl fun _ => congrArg (fun x => some (Instr.ldb h x)) (FmtM.ofBody_toBody o)
theorem ldbz (h : Hdr) (o : FmtM) : Statement (.ldbz h o) :=
  decode_of_parse (v := ⟨2, 0x01, h, .m o⟩) rfl fun _ => congrArg (fun x => some (Instr.ldbz h x)) (FmtM.ofBody_toBody o)
theorem ldh (h : Hdr) (o : FmtM) : Statement (.ldh h o) :=
  decode_of_parse (v := ⟨2, 0x02, h, .m o⟩) rfl fun _ => congrArg (fun x => some (Instr.ldh h x)) (FmtM.ofBody_toBody o)
theorem ldhz (h : Hdr) (o : FmtM) : Statement (.ldhz h o) :=
  decode_of_parse (v := ⟨2, 0x03, h, .m o⟩) rfl fun _ => congrArg (fun x => some (Instr.ldhz h x)) (FmtM.ofBody_toBody o)
theorem ldw (h : Hdr) (o : FmtM) : Statement (.ldw h o) :=
  decode_of_parse (v := ⟨2, 0x04, h, .m o⟩) rfl fun _ => congrArg (fun x => some (Instr.ldw h x)) (FmtM.ofBody_toBody o)
theorem ldd (h : Hdr) (o : FmtM) : Statement (.ldd h o) :=
  decode_of_parse (v := ⟨2, 0x05, h, .m o⟩) rfl fun _ => congrArg (fun x => some (Instr.ldd h x)) (FmtM.ofBody_toBody o)
theorem ldq (h : Hdr) (o : FmtM) : Statement (.ldq h o) :=
  decode_of_parse (v := ⟨2, 0x06, h, .m o⟩) rfl fun _ => congrArg (fun x => some (Instr.ldq h x)) (FmtM.ofBody_toBody o)
theorem stb (h : Hdr) (o : FmtM) : Statement (.stb h o) :=
  decode_of_parse (v := ⟨2, 0x07, h, .m o⟩) rfl fun _ => congrArg (fun x => some (Instr.stb h x)) (FmtM.ofBody_toBody o)
theorem sth (h : Hdr) (o : FmtM) : Statement (.sth h o) :=
  decode_of_parse (v := ⟨2, 0x08, h, .m o⟩) rfl fun _ => congrArg (fun x => some (Instr.sth h x)) (FmtM.ofBody_toBody o)
theorem stw (h : Hdr) (o : FmtM) : Statement (.stw h o) :=
  decode_of_parse (v := ⟨2, 0x09, h, .m o⟩) rfl fun _ => congrArg (fun x => some (Instr.stw h x)) (FmtM.ofBody_toBody o)
theorem std (h : Hdr) (o : FmtM) : Statement (.std h o) :=
  decode_of_parse (v := ⟨2, 0x0A, h, .m o⟩) rfl fun _ => congrArg (fun x => some (Instr.std h x)) (FmtM.ofBody_toBody o)
theorem stq (h : Hdr) (o : FmtM) : Statement (.stq h o) :=
  decode_of_parse (v := ⟨2, 0x0B, h, .m o⟩) rfl fun _ => congrArg (fun x => some (Instr.stq h x)) (FmtM.ofBody_toBody o)
theorem sldw (h : Hdr) (o : FmtM) : Statement (.sldw h o) :=
  decode_of_parse (v := ⟨2, 0x0C, h, .m o⟩) rfl fun _ => congrArg (fun x => some (Instr.sldw h x)) (FmtM.ofBody_toBody o)
theorem sldd (h : Hdr) (o : FmtM) : Statement (.sldd h o) :=
  decode_of_parse (v := ⟨2, 0x0D, h, .m o⟩) rfl fun _ => congrArg (fun x => some (Instr.sldd h x)) (FmtM.ofBody_toBody o)
theorem sstw (h : Hdr) (o : FmtM) : Statement (.sstw h o) :=
  decode_of_parse (v := ⟨2, 0x0E, h, .m o⟩) rfl fun _ => congrArg (fun x => some (Instr.sstw h x)) (FmtM.ofBody_toBody o)
theorem sstd (h : Hdr) (o : FmtM) : Statement (.sstd h o) :=
  decode_of_parse (v := ⟨2, 0x0F, h, .m o⟩) rfl fun _ => congrArg (fun x => some (Instr.sstd h x)) (FmtM.ofBody_toBody o)
theorem pref (h : Hdr) (o : FmtM) : Statement (.pref h o) :=
  decode_of_parse (v := ⟨2, 0x10, h, .m o⟩) rfl fun _ => congrArg (fun x => some (Instr.pref h x)) (FmtM.ofBody_toBody o)
theorem cwb (h : Hdr) (o : FmtM) : Statement (.cwb h o) :=
  decode_of_parse (v := ⟨2, 0x11, h, .m o⟩) rfl fun _ => congrArg (fun x => some (Instr.cwb h x)) (FmtM.ofBody_toBody o)
theorem cinv (h : Hdr) (o : FmtM) : Statement (.cinv h o) :=
  decode_of_parse (v := ⟨2, 0x12, h, .m o⟩) rfl fun _ => congrArg (fun x => some (Instr.cinv h x)) (FmtM.ofBody_toBody o)
theorem aadd (h : Hdr) (o : FmtT) : Statement (.aadd h o) :=
  decode_of_parse (v := ⟨2, 0x20, h, .t o⟩) rfl fun _ => congrArg (fun x => some (Instr.aadd h x)) (FmtT.ofBody_toBody o)
theorem aand (h : Hdr) (o : FmtT) : Statement (.aand h o) :=
  decode_of_parse (v := ⟨2, 0x21, h, .t o⟩) rfl fun _ => congrArg (fun x => some (Instr.aand h x)) (FmtT.ofBody_toBody o)
theorem aor (h : Hdr) (o : FmtT) : Statement (.aor h o) :=
  decode_of_parse (v := ⟨2, 0x22, h, .t o⟩) rfl fun _ => congrArg (fun x => some (Instr.aor h x)) (FmtT.ofBody_toBody o)
theorem axor (h : Hdr) (o : FmtT) : Statement (.axor h o) :=
  decode_of_parse (v := ⟨2, 0x23, h, .t o⟩) rfl fun _ => congrArg (fun x => some (Instr.axor h x)) (FmtT.ofBody_toBody o)
theorem amin (h : Hdr) (o : FmtT) : Statement (.amin h o) :=
  decode_of_parse (v := ⟨2, 0x24, h, .t o⟩) rfl fun _ => congrArg (fun x => some (Instr.amin h x)) (FmtT.ofBody_toBody o)
theorem amax (h : Hdr) (o : FmtT) : Statement (.amax h o) :=
  decode_of_parse (v := ⟨2, 0x25, h, .t o⟩) rfl fun _ => congrArg (fun x => some (Instr.amax h x)) (FmtT.ofBody_toBody o)
theorem aminu (h : Hdr) (o : FmtT) : Statement (.aminu h o) :=
  decode_of_parse (v := ⟨2, 0x26, h, .t o⟩) rfl fun _ => congrArg (fun x => some (Instr.aminu h x)) (FmtT.ofBody_toBody o)
theorem amaxu (h : Hdr) (o : FmtT) : Statement (.amaxu h o) :=
  decode_of_parse (v := ⟨2, 0x27, h, .t o⟩) rfl fun _ => congrArg (fun x => some (Instr.amaxu h x)) (FmtT.ofBody_toBody o)
theorem axchg (h : Hdr) (o : FmtT) : Statement (.axchg h o) :=
  decode_of_parse (v := ⟨2, 0x28, h, .t o⟩) rfl fun hf => by
    show some (formM28 h (FmtT.ofBody o.toBody)) = _
    rw [FmtT.ofBody_toBody]
    replace hf : (o.aw ≠ 1 : Bool) = true := hf; simp at hf; simp [formM28, hf]
theorem axchgX64 (h : Hdr) (o : FmtT) : Statement (.axchgX64 h o) :=
  decode_of_parse (v := ⟨2, 0x28, h, .t o⟩) rfl fun hf => by
    show some (formM28 h (FmtT.ofBody o.toBody)) = _
    rw [FmtT.ofBody_toBody]
    replace hf : (o.aw = 1 : Bool) = true := hf; simp at hf; simp [formM28, hf]
theorem acas (h : Hdr) (o : FmtT) : Statement (.acas h o) :=
  decode_of_parse (v := ⟨2, 0x29, h, .t o⟩) rfl fun _ => congrArg (fun x => some (Instr.acas h x)) (FmtT.ofBody_toBody o)
theorem afadd (h : Hdr) (o : FmtT) : Statement (.afadd h o) :=
  decode_of_parse (v := ⟨2, 0x2A, h, .t o⟩) rfl fun _ => congrArg (fun x => some (Instr.afadd h x)) (FmtT.ofBody_toBody o)
theorem aadd64 (h : Hdr) (o : FmtT) : Statement (.aadd64 h o) :=
  decode_of_parse (v := ⟨2, 0x2B, h, .t o⟩) rfl fun _ => congrArg (fun x => some (Instr.aadd64 h x)) (FmtT.ofBody_toBody o)
theorem acas64 (h : Hdr) (o : FmtT) : Statement (.acas64 h o) :=
  decode_of_parse (v := ⟨2, 0x2C, h, .t o⟩) rfl fun hf => by
    show some (formM2C h (FmtT.ofBody o.toBody)) = _
    rw [FmtT.ofBody_toBody]
    replace hf : (o.aw ≠ 1 : Bool) = true := hf; simp at hf; simp [formM2C, hf]
theorem acas64X128 (h : Hdr) (o : FmtT) : Statement (.acas64X128 h o) :=
  decode_of_parse (v := ⟨2, 0x2C, h, .t o⟩) rfl fun hf => by
    show some (formM2C h (FmtT.ofBody o.toBody)) = _
    rw [FmtT.ofBody_toBody]
    replace hf : (o.aw = 1 : Bool) = true := hf; simp at hf; simp [formM2C, hf]
theorem qpop (h : Hdr) (o : FmtM) : Statement (.qpop h o) :=
  decode_of_parse (v := ⟨2, 0x30, h, .m o⟩) rfl fun _ => congrArg (fun x => some (Instr.qpop h x)) (FmtM.ofBody_toBody o)
theorem qpeek (h : Hdr) (o : FmtM) : Statement (.qpeek h o) :=
  decode_of_parse (v := ⟨2, 0x31, h, .m o⟩) rfl fun _ => congrArg (fun x => some (Instr.qpeek h x)) (FmtM.ofBody_toBody o)
theorem tscl (h : Hdr) (o : FmtM) : Statement (.tscl h o) :=
  decode_of_parse (v := ⟨2, 0x38, h, .m o⟩) rfl fun _ => congrArg (fun x => some (Instr.tscl h x)) (FmtM.ofBody_toBody o)
theorem tld (h : Hdr) (o : FmtE) : Statement (.tld h o) :=
  decode_of_parse (v := ⟨3, 0x00, h, .e o⟩) rfl fun _ => congrArg (fun x => some (Instr.tld h x)) (FmtE.ofBody_toBody o)
theorem tst (h : Hdr) (o : FmtE) : Statement (.tst h o) :=
  decode_of_parse (v := ⟨3, 0x01, h, .e o⟩) rfl fun _ => congrArg (fun x => some (Instr.tst h x)) (FmtE.ofBody_toBody o)
theorem tmma (h : Hdr) (o : FmtE) : Statement (.tmma h o) :=
  decode_of_parse (v := ⟨3, 0x02, h, .e o⟩) rfl fun _ => congrArg (fun x => some (Instr.tmma h x)) (FmtE.ofBody_toBody o)
theorem trnd (h : Hdr) (o : FmtE) : Statement (.trnd h o) :=
  decode_of_parse (v := ⟨3, 0x03, h, .e o⟩) rfl fun _ => congrArg (fun x => some (Instr.trnd h x)) (FmtE.ofBody_toBody o)
theorem tzeroPlane (h : Hdr) (o : FmtE) : Statement (.tzeroPlane h o) :=
  decode_of_parse (v := ⟨3, 0x04, h, .e o⟩) rfl fun hf => by
    show some (formX04 h (FmtE.ofBody o.toBody)) = _
    rw [FmtE.ofBody_toBody]
    replace hf : (!o.f.getLsbD 0 : Bool) = true := hf; simp at hf; simp [formX04, hf]
theorem tzeroTile (h : Hdr) (o : FmtE) : Statement (.tzeroTile h o) :=
  decode_of_parse (v := ⟨3, 0x04, h, .e o⟩) rfl fun hf => by
    show some (formX04 h (FmtE.ofBody o.toBody)) = _
    rw [FmtE.ofBody_toBody]
    replace hf : (o.f.getLsbD 0 : Bool) = true := hf; simp at hf; simp [formX04, hf]
theorem twin (h : Hdr) (o : FmtE) : Statement (.twin h o) :=
  decode_of_parse (v := ⟨3, 0x05, h, .e o⟩) rfl fun _ => congrArg (fun x => some (Instr.twin h x)) (FmtE.ofBody_toBody o)
theorem tbfly (h : Hdr) (o : FmtE) : Statement (.tbfly h o) :=
  decode_of_parse (v := ⟨3, 0x06, h, .e o⟩) rfl fun _ => congrArg (fun x => some (Instr.tbfly h x)) (FmtE.ofBody_toBody o)
theorem tbrev (h : Hdr) (o : FmtE) : Statement (.tbrev h o) :=
  decode_of_parse (v := ⟨3, 0x07, h, .e o⟩) rfl fun _ => congrArg (fun x => some (Instr.tbrev h x)) (FmtE.ofBody_toBody o)
theorem ttwg (h : Hdr) (o : FmtE) : Statement (.ttwg h o) :=
  decode_of_parse (v := ⟨3, 0x08, h, .e o⟩) rfl fun _ => congrArg (fun x => some (Instr.ttwg h x)) (FmtE.ofBody_toBody o)
theorem ttrn (h : Hdr) (o : FmtE) : Statement (.ttrn h o) :=
  decode_of_parse (v := ⟨3, 0x09, h, .e o⟩) rfl fun _ => congrArg (fun x => some (Instr.ttrn h x)) (FmtE.ofBody_toBody o)
theorem tmovvTv (h : Hdr) (o : FmtE) : Statement (.tmovvTv h o) :=
  decode_of_parse (v := ⟨3, 0x0A, h, .e o⟩) rfl fun hf => by
    show some (formX0A h (FmtE.ofBody o.toBody)) = _
    rw [FmtE.ofBody_toBody]
    replace hf : (!o.f.getLsbD 0 && !o.f.getLsbD 1 : Bool) = true := hf; simp at hf; simp [formX0A, hf]
theorem tmovvVt (h : Hdr) (o : FmtE) : Statement (.tmovvVt h o) :=
  decode_of_parse (v := ⟨3, 0x0A, h, .e o⟩) rfl fun hf => by
    show some (formX0A h (FmtE.ofBody o.toBody)) = _
    rw [FmtE.ofBody_toBody]
    replace hf : (o.f.getLsbD 0 && !o.f.getLsbD 1 : Bool) = true := hf; simp at hf; simp [formX0A, hf]
theorem tmovvTvRx (h : Hdr) (o : FmtE) : Statement (.tmovvTvRx h o) :=
  decode_of_parse (v := ⟨3, 0x0A, h, .e o⟩) rfl fun hf => by
    show some (formX0A h (FmtE.ofBody o.toBody)) = _
    rw [FmtE.ofBody_toBody]
    replace hf : (!o.f.getLsbD 0 && o.f.getLsbD 1 : Bool) = true := hf; simp at hf; simp [formX0A, hf]
theorem tmovvVtRx (h : Hdr) (o : FmtE) : Statement (.tmovvVtRx h o) :=
  decode_of_parse (v := ⟨3, 0x0A, h, .e o⟩) rfl fun hf => by
    show some (formX0A h (FmtE.ofBody o.toBody)) = _
    rw [FmtE.ofBody_toBody]
    replace hf : (o.f.getLsbD 0 && o.f.getLsbD 1 : Bool) = true := hf; simp at hf; simp [formX0A, hf]
theorem tmerge (h : Hdr) (o : FmtE) : Statement (.tmerge h o) :=
  decode_of_parse (v := ⟨3, 0x0B, h, .e o⟩) rfl fun _ => congrArg (fun x => some (Instr.tmerge h x)) (FmtE.ofBody_toBody o)
theorem cpy (h : Hdr) (o : FmtE) : Statement (.cpy h o) :=
  decode_of_parse (v := ⟨3, 0x20, h, .e o⟩) rfl fun _ => congrArg (fun x => some (Instr.cpy h x)) (FmtE.ofBody_toBody o)
theorem cpys (h : Hdr) (o : FmtE) : Statement (.cpys h o) :=
  decode_of_parse (v := ⟨3, 0x21, h, .e o⟩) rfl fun _ => congrArg (fun x => some (Instr.cpys h x)) (FmtE.ofBody_toBody o)
theorem cpym (h : Hdr) (o : FmtE) : Statement (.cpym h o) :=
  decode_of_parse (v := ⟨3, 0x22, h, .e o⟩) rfl fun _ => congrArg (fun x => some (Instr.cpym h x)) (FmtE.ofBody_toBody o)
theorem gath (h : Hdr) (o : FmtE) : Statement (.gath h o) :=
  decode_of_parse (v := ⟨3, 0x23, h, .e o⟩) rfl fun _ => congrArg (fun x => some (Instr.gath h x)) (FmtE.ofBody_toBody o)
theorem redc (h : Hdr) (o : FmtE) : Statement (.redc h o) :=
  decode_of_parse (v := ⟨3, 0x24, h, .e o⟩) rfl fun _ => congrArg (fun x => some (Instr.redc h x)) (FmtE.ofBody_toBody o)
theorem cnvt (h : Hdr) (o : FmtE) : Statement (.cnvt h o) :=
  decode_of_parse (v := ⟨3, 0x25, h, .e o⟩) rfl fun _ => congrArg (fun x => some (Instr.cnvt h x)) (FmtE.ofBody_toBody o)
theorem bsnd (h : Hdr) (o : FmtE) : Statement (.bsnd h o) :=
  decode_of_parse (v := ⟨3, 0x26, h, .e o⟩) rfl fun _ => congrArg (fun x => some (Instr.bsnd h x)) (FmtE.ofBody_toBody o)
theorem swait (h : Hdr) (o : FmtE) : Statement (.swait h o) :=
  decode_of_parse (v := ⟨3, 0x27, h, .e o⟩) rfl fun _ => congrArg (fun x => some (Instr.swait h x)) (FmtE.ofBody_toBody o)
theorem srel (h : Hdr) (o : FmtE) : Statement (.srel h o) :=
  decode_of_parse (v := ⟨3, 0x28, h, .e o⟩) rfl fun _ => congrArg (fun x => some (Instr.srel h x)) (FmtE.ofBody_toBody o)
theorem cpyt (h : Hdr) (o : FmtE) : Statement (.cpyt h o) :=
  decode_of_parse (v := ⟨3, 0x29, h, .e o⟩) rfl fun _ => congrArg (fun x => some (Instr.cpyt h x)) (FmtE.ofBody_toBody o)
theorem spawn (h : Hdr) (o : FmtE) : Statement (.spawn h o) :=
  decode_of_parse (v := ⟨3, 0x30, h, .e o⟩) rfl fun _ => congrArg (fun x => some (Instr.spawn h x)) (FmtE.ofBody_toBody o)
theorem spawnd (h : Hdr) (o : FmtE) : Statement (.spawnd h o) :=
  decode_of_parse (v := ⟨3, 0x31, h, .e o⟩) rfl fun _ => congrArg (fun x => some (Instr.spawnd h x)) (FmtE.ofBody_toBody o)
theorem enq (h : Hdr) (o : FmtE) : Statement (.enq h o) :=
  decode_of_parse (v := ⟨3, 0x32, h, .e o⟩) rfl fun _ => congrArg (fun x => some (Instr.enq h x)) (FmtE.ofBody_toBody o)
theorem deq (h : Hdr) (o : FmtE) : Statement (.deq h o) :=
  decode_of_parse (v := ⟨3, 0x33, h, .e o⟩) rfl fun hf => by
    show some (formX33 h (FmtE.ofBody o.toBody)) = _
    rw [FmtE.ofBody_toBody]
    replace hf : (!o.f.getLsbD 0 : Bool) = true := hf; simp at hf; simp [formX33, hf]
theorem deqNb (h : Hdr) (o : FmtE) : Statement (.deqNb h o) :=
  decode_of_parse (v := ⟨3, 0x33, h, .e o⟩) rfl fun hf => by
    show some (formX33 h (FmtE.ofBody o.toBody)) = _
    rw [FmtE.ofBody_toBody]
    replace hf : (o.f.getLsbD 0 : Bool) = true := hf; simp at hf; simp [formX33, hf]
theorem barv (h : Hdr) (o : FmtE) : Statement (.barv h o) :=
  decode_of_parse (v := ⟨3, 0x40, h, .e o⟩) rfl fun _ => congrArg (fun x => some (Instr.barv h x)) (FmtE.ofBody_toBody o)
theorem barw (h : Hdr) (o : FmtE) : Statement (.barw h o) :=
  decode_of_parse (v := ⟨3, 0x41, h, .e o⟩) rfl fun _ => congrArg (fun x => some (Instr.barw h x)) (FmtE.ofBody_toBody o)
theorem bart (h : Hdr) (o : FmtE) : Statement (.bart h o) :=
  decode_of_parse (v := ⟨3, 0x42, h, .e o⟩) rfl fun _ => congrArg (fun x => some (Instr.bart h x)) (FmtE.ofBody_toBody o)
theorem barx (h : Hdr) (o : FmtE) : Statement (.barx h o) :=
  decode_of_parse (v := ⟨3, 0x43, h, .e o⟩) rfl fun _ => congrArg (fun x => some (Instr.barx h x)) (FmtE.ofBody_toBody o)
theorem cbar (h : Hdr) (o : FmtE) : Statement (.cbar h o) :=
  decode_of_parse (v := ⟨3, 0x44, h, .e o⟩) rfl fun _ => congrArg (fun x => some (Instr.cbar h x)) (FmtE.ofBody_toBody o)
theorem tlwait (h : Hdr) (o : FmtE) : Statement (.tlwait h o) :=
  decode_of_parse (v := ⟨3, 0x45, h, .e o⟩) rfl fun _ => congrArg (fun x => some (Instr.tlwait h x)) (FmtE.ofBody_toBody o)
theorem tlsig (h : Hdr) (o : FmtE) : Statement (.tlsig h o) :=
  decode_of_parse (v := ⟨3, 0x46, h, .e o⟩) rfl fun _ => congrArg (fun x => some (Instr.tlsig h x)) (FmtE.ofBody_toBody o)
theorem tlrd (h : Hdr) (o : FmtE) : Statement (.tlrd h o) :=
  decode_of_parse (v := ⟨3, 0x47, h, .e o⟩) rfl fun _ => congrArg (fun x => some (Instr.tlrd h x)) (FmtE.ofBody_toBody o)
theorem rast (h : Hdr) (o : FmtE) : Statement (.rast h o) :=
  decode_of_parse (v := ⟨3, 0x50, h, .e o⟩) rfl fun _ => congrArg (fun x => some (Instr.rast h x)) (FmtE.ofBody_toBody o)
theorem rayq (h : Hdr) (o : FmtE) : Statement (.rayq h o) :=
  decode_of_parse (v := ⟨3, 0x51, h, .e o⟩) rfl fun _ => congrArg (fun x => some (Instr.rayq h x)) (FmtE.ofBody_toBody o)
theorem rtile (h : Hdr) (o : FmtE) : Statement (.rtile h o) :=
  decode_of_parse (v := ⟨3, 0x52, h, .e o⟩) rfl fun _ => congrArg (fun x => some (Instr.rtile h x)) (FmtE.ofBody_toBody o)
theorem doubleFault (die : Nat) (cause : BitVec 6) : Statement (.doubleFault die cause) := of_event rfl
theorem illegalOpcode (mask : BitVec 5) (detail : BitVec 32) : Statement (.illegalOpcode mask detail) := of_event rfl
theorem fetchFault (addr : BitVec 64) (sub : BitVec 6) : Statement (.fetchFault addr sub) := of_event rfl
theorem loadReturn (b w k : Nat) : Statement (.loadReturn b w k) := of_event rfl
theorem storePerform (site : StoreSite) : Statement (.storePerform site) := of_event rfl
theorem atomicPerform (core k : Nat) : Statement (.atomicPerform core k) := of_event rfl
theorem hostAtomicopCompletion (core k : Nat) (status : BitVec 16) : Statement (.hostAtomicopCompletion core k status) := of_event rfl
theorem hostCompletionTimeout (core k : Nat) : Statement (.hostCompletionTimeout core k) := of_event rfl
theorem staleLineExpire (core line : Nat) : Statement (.staleLineExpire core line) := of_event rfl
theorem tableUpdate (r : TableReq) : Statement (.tableUpdate r) := of_event rfl
theorem copyDequeue (core : Nat) : Statement (.copyDequeue core) := of_event rfl
theorem copyFragment (core k : Nat) : Statement (.copyFragment core k) := of_event rfl
theorem copyComplete (core k : Nat) : Statement (.copyComplete core k) := of_event rfl
theorem cpytRelease (core k : Nat) : Statement (.cpytRelease core k) := of_event rfl
theorem basedieExecute (core k : Nat) : Statement (.basedieExecute core k) := of_event rfl
theorem ringAccept (core k : Nat) : Statement (.ringAccept core k) := of_event rfl
theorem ringSlotWritten (core k : Nat) : Statement (.ringSlotWritten core k) := of_event rfl
theorem srelDequeue (core : Nat) : Statement (.srelDequeue core) := of_event rfl
theorem matrixExecute (core n : Nat) : Statement (.matrixExecute core n) := of_event rfl
theorem matrixComplete (core : Nat) : Statement (.matrixComplete core) := of_event rfl
theorem tsclLatchWrite (b : Nat) : Statement (.tsclLatchWrite b) := of_event rfl
theorem rasterBatch (core : Nat) : Statement (.rasterBatch core) := of_event rfl
theorem rtileComplete (core : Nat) (act : EngineAct) : Statement (.rtileComplete core act) := of_event rfl
theorem rayqComplete (core : Nat) (act : EngineAct) : Statement (.rayqComplete core act) := of_event rfl
theorem taskPush (core : Nat) : Statement (.taskPush core) := of_event rfl
theorem enqArrive (core : Nat) : Statement (.enqArrive core) := of_event rfl
theorem taskGather (core : Nat) : Statement (.taskGather core) := of_event rfl
theorem taskSteal (core victim : Nat) : Statement (.taskSteal core victim) := of_event rfl
theorem stealRetry (core : Nat) : Statement (.stealRetry core) := of_event rfl
theorem dequeFullTimeout (b w : Nat) : Statement (.dequeFullTimeout b w) := of_event rfl
theorem queueFullTimeout (b w : Nat) : Statement (.queueFullTimeout b w) := of_event rfl
theorem waitSatisfied (b w : Nat) : Statement (.waitSatisfied b w) := of_event rfl
theorem watchdog (b w : Nat) : Statement (.watchdog b w) := of_event rfl
theorem blockExit (b : Nat) : Statement (.blockExit b) := of_event rfl
theorem blockRelease (b : Nat) : Statement (.blockRelease b) := of_event rfl
theorem kick (v : BitVec 64) : Statement (.kick v) := of_event rfl
theorem grcmdRegister (v : BitVec 32) : Statement (.grcmdRegister v) := of_event rfl
theorem grcmdUnregister (v : BitVec 32) : Statement (.grcmdUnregister v) := of_event rfl
theorem grcmdInvalid (v : BitVec 32) : Statement (.grcmdInvalid v) := of_event rfl
theorem eqConfigWrite (a : Bar0Access) : Statement (.eqConfigWrite a) := of_event rfl
theorem eqlostClear (a : Bar0Access) : Statement (.eqlostClear a) := of_event rfl
theorem bar0RegisterWrite (a : Bar0Access) : Statement (.bar0RegisterWrite a) := of_event rfl
theorem bar0BadAccess (a : Bar0Access) : Statement (.bar0BadAccess a) := of_event rfl
theorem hostBar2Access (a : MemRequest) : Statement (.hostBar2Access a) := of_event rfl
theorem replayStart (handle : Nat) : Statement (.replayStart handle) := of_event rfl
theorem nodeReady (replay node : Nat) : Statement (.nodeReady replay node) := of_event rfl
theorem launchAccept (queue : Nat) : Statement (.launchAccept queue) := of_event rfl
theorem placeBlock (launch : Nat) : Statement (.placeBlock launch) := of_event rfl
theorem governorPoint (replay node : Nat) : Statement (.governorPoint replay node) := of_event rfl
theorem skippedNodeComplete (replay node : Nat) : Statement (.skippedNodeComplete replay node) := of_event rfl
theorem launchComplete (launch : Nat) : Statement (.launchComplete launch) := of_event rfl
theorem replayComplete (replay : Nat) : Statement (.replayComplete replay) := of_event rfl
theorem replayFinish (replay : Nat) : Statement (.replayFinish replay) := of_event rfl
theorem faultRecordWrite (die : Nat) : Statement (.faultRecordWrite die) := of_event rfl
theorem blockStop (b : Nat) : Statement (.blockStop b) := of_event rfl
theorem exitedBlockImage (b : Nat) : Statement (.exitedBlockImage b) := of_event rfl
theorem saveImage (b : Nat) : Statement (.saveImage b) := of_event rfl
theorem restoreBlock (k : Nat) : Statement (.restoreBlock k) := of_event rfl
theorem preemptRequest (t : PreemptTarget) : Statement (.preemptRequest t) := of_event rfl
theorem switchRequest (b target : Nat) : Statement (.switchRequest b target) := of_event rfl
theorem variantSwitch (b : Nat) : Statement (.variantSwitch b) := of_event rfl
theorem switchWithdraw (b : Nat) : Statement (.switchWithdraw b) := of_event rfl
theorem migrate (core : Nat) (hot : HotCore) : Statement (.migrate core hot) := of_event rfl
theorem migrateRecheck (core : Nat) : Statement (.migrateRecheck core) := of_event rfl
theorem thermalLimit (celsius mhz : Nat) : Statement (.thermalLimit celsius mhz) := of_event rfl
theorem droopAlarm (cluster : Nat) : Statement (.droopAlarm cluster) := of_event rfl
theorem droopHalvingEnd (cluster : Nat) : Statement (.droopHalvingEnd cluster) := of_event rfl
theorem balanceSample (die : Nat) (imb : Int) : Statement (.balanceSample die imb) := of_event rfl
theorem gatingStart (die : Nat) : Statement (.gatingStart die) := of_event rfl
theorem gatingComplete (die : Nat) : Statement (.gatingComplete die) := of_event rfl
theorem wakeComplete (die : Nat) : Statement (.wakeComplete die) := of_event rfl
theorem shelfPoll (p : ShelfReading) : Statement (.shelfPoll p) := of_event rfl
theorem shedPark (b : Nat) : Statement (.shedPark b) := of_event rfl
theorem shedForced (b : Nat) : Statement (.shedForced b) := of_event rfl
theorem clampCheck (pm : Nat) : Statement (.clampCheck pm) := of_event rfl
theorem clockStep (pm : Nat) : Statement (.clockStep pm) := of_event rfl
theorem clampRelease : Statement .clampRelease := of_event rfl
theorem classRestore : Statement .classRestore := of_event rfl
theorem ptpFirstLock (tai : Nat) : Statement (.ptpFirstLock tai) := of_event rfl
theorem ptpLockChange (locked : Bool) (tai : Nat) : Statement (.ptpLockChange locked tai) := of_event rfl
theorem ppsInEdge : Statement .ppsInEdge := of_event rfl
theorem ppsOut : Statement .ppsOut := of_event rfl
theorem mboxDoorbell (a : Bar0Access) : Statement (.mboxDoorbell a) := of_event rfl
theorem attest : Statement .attest := of_event rfl
theorem update (write : FlashWrite) : Statement (.update write) := of_event rfl
theorem remap : Statement .remap := of_event rfl
theorem wdog : Statement .wdog := of_event rfl
theorem preempt : Statement .preempt := of_event rfl
theorem dawnstate : Statement .dawnstate := of_event rfl
theorem mboxUnknownCommand : Statement .mboxUnknownCommand := of_event rfl
theorem reset : Statement .reset := of_event rfl
theorem trainingComplete (failed : BitVec 3) : Statement (.trainingComplete failed) := of_event rfl
theorem peerLinkUp (link : Nat) : Statement (.peerLinkUp link) := of_event rfl
theorem bridgeLinkFault (core : Nat) (site : LinkSite) : Statement (.bridgeLinkFault core site) := of_event rfl
theorem peerLinkFault (core k : Nat) : Statement (.peerLinkFault core k) := of_event rfl
theorem hostLinkFault : Statement .hostLinkFault := of_event rfl
theorem peerTimelineSignal (p : PeerSignal) : Statement (.peerTimelineSignal p) := of_event rfl
theorem sramUncorrectable (e : SramError) : Statement (.sramUncorrectable e) := of_event rfl
theorem evictUncorrectable (line : Nat) : Statement (.evictUncorrectable line) := of_event rfl
theorem scrubError (granule : Nat) : Statement (.scrubError granule) := of_event rfl
theorem peerLinkRequest (a : PeerRequest) : Statement (.peerLinkRequest a) := of_event rfl
theorem ppsinExpire : Statement .ppsinExpire := of_event rfl
theorem timerValid : Statement .timerValid := of_event rfl
theorem streamRingPlace (p : RingPlacement) : Statement (.streamRingPlace p) := of_event rfl
theorem namedQueueAssign (p : QueueAssignment) : Statement (.namedQueueAssign p) := of_event rfl
theorem poolRefill (die size : Nat) (frames : List Nat) : Statement (.poolRefill die size frames) := of_event rfl

end Sys2Proof.Laws.RoundTrip
end

