-- ==== Sys2Proof/Laws/Stages.lean ====
section
/-! SUPPORT. How a wrapper's form becomes a statement about what a syllable stages. -/

namespace Sys2Proof.Safety

open Sys2Proof.Machine

theorem stagesU_of {i : Instr} {h : Hdr} {f g : Env → List Eff} (hx : ∀ s, exec i s = uSyl h s fun e => .eff (f e))
    (hfg : ∀ e, f e = g e) : StagesU i h g := by
  intro s e he
  rw [hx, uSyl_eq he, hfg]
  split <;> rfl

theorem stagesUIf_of {i : Instr} {h : Hdr} {p : Env → Prop} {f : Env → Act} {g : Env → List Eff}
    (hx : ∀ s, exec i s = uSyl h s f) (hfg : ∀ e, p e → f e = .eff (g e)) : StagesUIf i h p g := by
  intro s e he hh hp
  rw [hx, uSyl_eq he, hfg e hp]
  simp [hh, State.issued_eq]

theorem skipsU_of {i : Instr} {h : Hdr} {f : Env → Act} (hx : ∀ s, exec i s = uSyl h s f) : SkipsU i h := by
  intro s e he hh
  rw [hx, uSyl_eq he]
  simp [hh, State.issued_eq]

theorem stagesV_of {i : Instr} {h : Hdr} {f g : Env → Lanes → List Eff} (hx : ∀ s, exec i s = vSyl h s fun e m => .eff (f e m))
    (hfg : ∀ e m, f e m = g e m) : StagesV i h g := by
  intro s e he
  rw [hx, vSyl_eq he, hfg]
  rfl

theorem skipsM_of {i : Instr} {h : Hdr} {f : Env → Lanes → List Nat × Act} (hx : ∀ s, exec i s = mSyl h s f) : SkipsM i h := by
  intro s e he hh
  rw [hx, mSyl_eq he]
  simp [hh, State.issued_eq]

theorem skipsX_of {i : Instr} {h : Hdr} {f : Env → List Nat × Act} (hx : ∀ s, exec i s = xSyl h s f) : SkipsX i h := by
  intro s e he hh
  rw [hx, xSyl_eq he]
  simp [hh, State.issued_eq]

end Sys2Proof.Safety
end

