-- ==== Sys2Proof/Laws/Time.lean ====
section
/-! SUPPORT. What the passing of time does to a cluster: its cycle counter and its place in the cycle change and nothing else, and the
time is used up to the last millionth of a period (R4, R166, R167). -/

namespace Sys2Proof.Machine

variable (c : Cluster) (ps : Nat)

@[simp] theorem Cluster.advance_mhz : (c.advance ps).mhz = c.mhz := by unfold advance; extract_lets; split <;> rfl
@[simp] theorem Cluster.advance_alarms : (c.advance ps).alarms = c.alarms := by unfold advance; extract_lets; split <;> rfl
@[simp] theorem Cluster.advance_thr : (c.advance ps).thr = c.thr := by unfold advance; extract_lets; split <;> rfl
@[simp] theorem Cluster.advance_droop : (c.advance ps).droop = c.droop := by unfold advance; extract_lets; split <;> rfl
@[simp] theorem Cluster.advance_droopAt : (c.advance ps).droopAt = c.droopAt := by unfold advance; extract_lets; split <;> rfl

@[simp] theorem Cluster.advance_clockedAt : (c.advance ps).clockedAt = c.clockedAt := by unfold advance; extract_lets; split <;> rfl

/-- Outside a droop response every cycle takes one nominal period. -/
theorem Cluster.advance_of_no_droop (h : c.droop = 0) : c.advance ps =
    { c with cyc := c.cyc + BitVec.ofNat 64 ((c.phase + ps * c.mhz) / 1000000), phase := (c.phase + ps * c.mhz) % 1000000 } := by
  simp [advance, h]

/-- In cycles 1 to 6 the periods that pass are the cycles counted, plus one for each stretched cycle that ends (R443). -/
theorem Cluster.advance_periods (h : c.droop ≠ 0) (hu : 2000000 * (6 - c.since) ≤ c.phase + ps * c.mhz) :
    ∃ n, (c.advance ps).cyc = c.cyc + BitVec.ofNat 64 n ∧ 6 - c.since ≤ n ∧
      c.phase + ps * c.mhz = 1000000 * (n + (6 - c.since)) + (c.advance ps).phase := by
  refine ⟨6 - c.since + (c.phase + ps * c.mhz - 2000000 * (6 - c.since)) / 1000000, ?_, by omega, ?_⟩
  · simp [advance, h, Nat.not_lt.2 hu]
  · simp only [advance, h, if_false, Nat.not_lt.2 hu]
    omega

/-- A fold of updates that keep a part of the state keeps it. -/
theorem State.foldl_keeps {α β : Type} (g : State → β) (f : State → α → State) (h : ∀ s a, g (f s a) = g s) (l : List α) (s : State) :
    g (l.foldl f s) = g s := by
  induction l generalizing s with
  | nil => rfl
  | cons a l ih => rw [List.foldl_cons, ih, h]

/-- Passing time moves the timer and the clusters alone. -/
theorem State.pass_keeps {β : Type} (g : State → β) (ht : ∀ (s : State) t, g { s with time := t } = g s)
    (hc : ∀ (s : State) k c, g (s.setCluster k c) = g s) (s : State) (ps : Nat) : g (s.pass ps) = g s := by
  unfold State.pass
  rw [State.foldl_keeps g _ (fun s k => ?_), ht]
  split
  · rfl
  · exact hc _ _ _

theorem State.pass_mem (s : State) (ps : Nat) : (s.pass ps).mem = s.mem := State.pass_keeps State.mem (fun _ _ => rfl) (fun _ _ _ => rfl) s ps
theorem State.pass_blocks (s : State) (ps : Nat) : (s.pass ps).blocks = s.blocks :=
  State.pass_keeps State.blocks (fun _ _ => rfl) (fun _ _ _ => rfl) s ps

@[simp] theorem State.endCycles_mem (s old : State) : (s.endCycles old).mem = s.mem := rfl
@[simp] theorem State.endCycles_unspec (s old : State) : (s.endCycles old).unspec = s.unspec := rfl
@[simp] theorem State.endCycles_cores (s old : State) : (s.endCycles old).cores = s.cores := rfl

end Sys2Proof.Machine
end

