-- ==== Sys2Proof/Laws/Walk.lean ====
section
/-! SUPPORT. What a translation leaves: it may bind pages by first touch, and changes nothing else. -/

namespace Sys2Proof.Machine

/-- From s to t pages may have been bound by first touch (R240), and nothing else has happened: no register, no block, no timer and no
host register has changed, a pool has only lost frames, and memory has changed only where one has. -/
structure Binds (s t : State) : Prop where
  regs : ∀ b w, t.regs? b w = s.regs? b w
  mtx : ∀ b, t.mtx? b = s.mtx? b
  cur : t.cur = s.cur
  time : t.time = s.time
  agenda : t.agenda = s.agenda
  blocks : t.blocks = s.blocks
  launches : t.launches = s.launches
  timelines : t.timelines = s.timelines
  steps : t.steps = s.steps
  host : t.host = s.host
  disp : t.disp = s.disp
  power : t.power = s.power
  fw : t.fw = s.fw
  clusters : t.clusters = s.clusters
  ctxs : t.ctxs = s.ctxs
  double : ∀ d, (t.die d).double = (s.die d).double
  le : ∀ d c, (Table.get [] (t.die d).pools c).length ≤ (Table.get [] (s.die d).pools c).length
  mem : (∀ d c, (Table.get [] (t.die d).pools c).length = (Table.get [] (s.die d).pools c).length) →
    t.mem = s.mem ∧ t.unspec = s.unspec ∧ t.poison = s.poison

theorem Binds.refl (s : State) : Binds s s := by
  constructor
  case le => exact fun _ _ => Nat.le_refl _
  case mem => exact fun _ => ⟨rfl, rfl, rfl⟩
  all_goals (intros; rfl)

theorem Binds.trans {s t u : State} (h : Binds s t) (g : Binds t u) : Binds s u := by
  constructor
  case regs => exact fun b w => (g.regs b w).trans (h.regs b w)
  case mtx => exact fun b => (g.mtx b).trans (h.mtx b)
  case double => exact fun d => (g.double d).trans (h.double d)
  case le => exact fun d c => Nat.le_trans (g.le d c) (h.le d c)
  case mem =>
    intro e
    obtain ⟨a, b, c⟩ := g.mem fun d c => Nat.le_antisymm (g.le d c) (by have := e d c; have := h.le d c; omega)
    obtain ⟨a', b', c'⟩ := h.mem fun d c => Nat.le_antisymm (h.le d c) (by have := e d c; have := g.le d c; omega)
    exact ⟨a.trans a', b.trans b', c.trans c'⟩
  all_goals first
    | exact g.cur.trans h.cur | exact g.time.trans h.time | exact g.agenda.trans h.agenda | exact g.blocks.trans h.blocks
    | exact g.launches.trans h.launches | exact g.timelines.trans h.timelines | exact g.steps.trans h.steps | exact g.host.trans h.host
    | exact g.disp.trans h.disp | exact g.power.trans h.power | exact g.fw.trans h.fw | exact g.clusters.trans h.clusters
    | exact g.ctxs.trans h.ctxs

/-- With every pool as it was, memory is as it was. -/
theorem Binds.same {s t : State} (h : Binds s t) (hp : ∀ d, (t.die d).pools = (s.die d).pools) :
    t.mem = s.mem ∧ t.unspec = s.unspec ∧ t.poison = s.poison := h.mem fun d c => by rw [hp d]

/-- A change of the cores alone binds nothing. -/
theorem State.binds_cores (s : State) (c : Table CoreSt) : Binds s { s with cores := c } := by
  constructor
  case le => exact fun _ _ => Nat.le_refl _
  case mem => exact fun _ => ⟨rfl, rfl, rfl⟩
  all_goals (intros; rfl)

theorem State.writeEntry_keeps {α : Type} (π : State → α) (hπ : ∀ s c p b, π (State.write s c p b) = π s) (s : State) (m : Nat) (e : DWord) :
    π (s.writeEntry m e) = π s := by
  unfold State.writeEntry State.writeNum; simp [List.foldl, hπ]

theorem State.writeEntries_keep {α : Type} (π : State → α) (hπ : ∀ s c p b, π (State.write s c p b) = π s) (l : List Nat) (s : State) (e : DWord) :
    π (l.foldl (fun t m => t.writeEntry m e) s) = π s := by
  induction l generalizing s with
  | nil => rfl
  | cons a l ih => rw [List.foldl_cons, ih, State.writeEntry_keeps π hπ]

theorem State.binds_firstTouch (s : State) (d l : Nat) (e : DWord) (m : Nat) : Binds s (s.firstTouch d l e m).1 := by
  unfold State.firstTouch; dsimp only
  split
  · exact Binds.refl s
  · next f fs hf =>
    split
    · exact Binds.refl s
    · refine Binds.trans ?_ (State.binds_cores _ _)
      constructor
      case le =>
        intro d' c
        rw [State.writeEntries_keep (fun s => s.die d') (fun _ _ _ _ => rfl)]
        by_cases hd : d' = d
        · subst hd
          simp only [State.die_modDie, Table.get, Table.find?_put]
          split
          · next h => subst h; simp only [Table.get] at hf; simp [hf]
          · exact Nat.le_refl _
        · exact Nat.le_of_eq (by rw [State.die_modDie_ne _ _ hd])
      case mem =>
        intro h
        have := h d (sizeCode l (pteG e))
        rw [State.writeEntries_keep (fun s => s.die d) (fun _ _ _ _ => rfl), State.die_modDie, hf] at this
        simp [Table.get] at this
      case double =>
        intro d'
        rw [State.writeEntries_keep (fun s => s.die d') (fun _ _ _ _ => rfl)]
        by_cases hd : d' = d
        · subst hd; rw [State.die_modDie]
        · rw [State.die_modDie_ne _ _ hd]
      case regs => intro b w; rw [State.writeEntries_keep (fun s => s.regs? b w) (fun _ _ _ _ => rfl)]; rfl
      case mtx => intro b; rw [State.writeEntries_keep (fun s => s.mtx? b) (fun _ _ _ _ => rfl)]; rfl
      case cur => rw [State.writeEntries_keep State.cur (fun _ _ _ _ => rfl)]; rfl
      case time => rw [State.writeEntries_keep State.time (fun _ _ _ _ => rfl)]; rfl
      case agenda => rw [State.writeEntries_keep State.agenda (fun _ _ _ _ => rfl)]; rfl
      case blocks => rw [State.writeEntries_keep State.blocks (fun _ _ _ _ => rfl)]; rfl
      case launches => rw [State.writeEntries_keep State.launches (fun _ _ _ _ => rfl)]; rfl
      case timelines => rw [State.writeEntries_keep State.timelines (fun _ _ _ _ => rfl)]; rfl
      case steps => rw [State.writeEntries_keep State.steps (fun _ _ _ _ => rfl)]; rfl
      case host => rw [State.writeEntries_keep State.host (fun _ _ _ _ => rfl)]; rfl
      case disp => rw [State.writeEntries_keep State.disp (fun _ _ _ _ => rfl)]; rfl
      case power => rw [State.writeEntries_keep State.power (fun _ _ _ _ => rfl)]; rfl
      case fw => rw [State.writeEntries_keep State.fw (fun _ _ _ _ => rfl)]; rfl
      case clusters => rw [State.writeEntries_keep State.clusters (fun _ _ _ _ => rfl)]; rfl
      case ctxs => rw [State.writeEntries_keep State.ctxs (fun _ _ _ _ => rfl)]; rfl

theorem State.binds_translate (s : State) (d : Nat) (c : Option Nat) (x va : Nat) (k : XKind) : Binds s (s.translate d c x va k).1 := by
  have hfill : ∀ (u : State) (leaf : Nat) (e : DWord), Binds s u → Binds s (match c with
        | some c => u.modCore c fun z => { z with tlb := (⟨x, va / leaf * leaf, leaf, e⟩ :: z.tlb).take 1024 }
        | none => u) := by
    intro u z e h
    cases c with
    | none => exact h
    | some c => exact h.trans (State.binds_cores _ _)
  have htouch : ∀ (l : Nat) (e : DWord) (m : Nat) (u : State) (r : Touch), s.firstTouch d l e m = (u, r) → Binds s u := by
    intro l e m u r h
    have := State.binds_firstTouch s d l e m
    rwa [h] at this
  unfold State.translate; dsimp only
  split
  · exact Binds.refl s
  · split
    · exact Binds.refl s
    · split
      · exact Binds.refl s
      · exact Binds.refl s
      · exact hfill _ _ _ (Binds.refl s)
      · split
        · exact Binds.refl s
        · split
          · next h => exact htouch _ _ _ _ _ h
          · next h => exact hfill _ _ _ (htouch _ _ _ _ _ h)
          · next h =>
            have hu := htouch _ _ _ _ _ h
            split
            · exact hfill _ _ _ hu
            · exact hu
            · exact hu

theorem State.binds_address (s : State) (x : Block) (sp : Nat) (b : Int) (t n al : Nat) (k : XKind) : Binds s (s.address x sp b t n al k).1 := by
  unfold State.address; dsimp only
  split
  · split
    · exact Binds.refl s
    · split
      · exact Binds.refl s
      · exact State.binds_translate _ _ _ _ _ _
  · split
    · exact Binds.refl s
    · split <;> exact Binds.refl s
  · split
    · exact Binds.refl s
    · split
      · exact Binds.refl s
      · split <;> exact Binds.refl s

/-- The end of a bundle binds the pages that it touched (R164, R240). -/
theorem State.binds_bindTouched (s : State) (e : Env) : Binds s (s.bindTouched e) := by
  unfold State.bindTouched
  generalize e.iu.touch = l
  induction l generalizing s with
  | nil => exact Binds.refl s
  | cons a l ih => exact (State.binds_translate s _ _ _ _ _).trans (ih _)

@[simp] theorem State.bindTouched_nil (s : State) (e : Env) (h : e.iu.touch = []) : s.bindTouched e = s := by simp [State.bindTouched, h]

end Sys2Proof.Machine
end

