-- ==== Sys2Proof/Tests/Slice0.lean ====
section
/-! SUPPORT. Tests: decoding of words written from the encoding tables of the manual, one for each constructor of a syllable; one
ill-formed term for each check of WellFormed; small steps; and for each obligation a state and operands that meet its hypotheses. The
theorems are checked one after another, which keeps the memory that their evaluation takes at once small. -/

open Sys2Proof Sys2Proof.Machine Sys2Proof.Safety

section

set_option Elab.async false

/-! ## Decoding: header, opcode map and field layouts of R123 to R139 and R259, written out as words -/

theorem test_decode_u1 : ∀ p ∈ ([
    (0x8000000000000000, .nop ⟨true, false, 0⟩ ⟨0, 0, 0, 0, 0, 0, 0, 0⟩),
    (0x8019A0D09F5002E0, .sadd ⟨true, true, 3⟩ ⟨0x83, 0x84, 0x1f5, 0, 2, 7, 0, 0⟩),
    (0x8029A0D09F5002E0, .ssub ⟨true, true, 3⟩ ⟨0x83, 0x84, 0x1f5, 0, 2, 7, 0, 0⟩),
    (0x8039A0D09F5002E0, .smul ⟨true, true, 3⟩ ⟨0x83, 0x84, 0x1f5, 0, 2, 7, 0, 0⟩),
    (0x8049A0D09F5002E0, .smulh ⟨true, true, 3⟩ ⟨0x83, 0x84, 0x1f5, 0, 2, 7, 0, 0⟩),
    (0x8059A0D09F5002E0, .smulhu ⟨true, true, 3⟩ ⟨0x83, 0x84, 0x1f5, 0, 2, 7, 0, 0⟩),
    (0x8069A0D09F5002E0, .sdiv ⟨true, true, 3⟩ ⟨0x83, 0x84, 0x1f5, 0, 2, 7, 0, 0⟩),
    (0x8079A0D09F5002E0, .sdivu ⟨true, true, 3⟩ ⟨0x83, 0x84, 0x1f5, 0, 2, 7, 0, 0⟩),
    (0x80A9A0D09F5002E0, .sand ⟨true, true, 3⟩ ⟨0x83, 0x84, 0x1f5, 0, 2, 7, 0, 0⟩),
    (0x80B9A0D09F5002E0, .sor ⟨true, true, 3⟩ ⟨0x83, 0x84, 0x1f5, 0, 2, 7, 0, 0⟩),
    (0x80C9A0D09F5002E0, .sxor ⟨true, true, 3⟩ ⟨0x83, 0x84, 0x1f5, 0, 2, 7, 0, 0⟩),
    (0x80D9A0D09F5002E0, .sandn ⟨true, true, 3⟩ ⟨0x83, 0x84, 0x1f5, 0, 2, 7, 0, 0⟩),
    (0x80E9A0D09F5002E0, .sshl ⟨true, true, 3⟩ ⟨0x83, 0x84, 0x1f5, 0, 2, 7, 0, 0⟩),
    (0x80F9A0D09F5002E0, .sshr ⟨true, true, 3⟩ ⟨0x83, 0x84, 0x1f5, 0, 2, 7, 0, 0⟩),
    (0x8109A0D09F5002E0, .ssra ⟨true, true, 3⟩ ⟨0x83, 0x84, 0x1f5, 0, 2, 7, 0, 0⟩),
    (0x8119A0D09F5002E0, .smin ⟨true, true, 3⟩ ⟨0x83, 0x84, 0x1f5, 0, 2, 7, 0, 0⟩),
    (0x8129A0D09F5002E0, .smax ⟨true, true, 3⟩ ⟨0x83, 0x84, 0x1f5, 0, 2, 7, 0, 0⟩),
    (0x8139A0D09F5002E0, .sminu ⟨true, true, 3⟩ ⟨0x83, 0x84, 0x1f5, 0, 2, 7, 0, 0⟩),
    (0x8149A0D09F5002E0, .smaxu ⟨true, true, 3⟩ ⟨0x83, 0x84, 0x1f5, 0, 2, 7, 0, 0⟩),
    (0x815981909F548740, .scmp ⟨true, true, 3⟩ ⟨6, 0x84, 0x1f5, 0x90, 7, 2, 0, 0⟩),
    (0x8169A0D09F506F40, .ssel ⟨true, true, 3⟩ ⟨0x83, 0x84, 0x1f5, 0xd, 7, 2, 0, 0⟩),
    (0x8179A0D080000700, .spopc ⟨true, true, 3⟩ ⟨0x83, 0x84, 0, 0, 7, 0, 0, 0⟩),
    (0x8189A0D080000700, .sclz ⟨true, true, 3⟩ ⟨0x83, 0x84, 0, 0, 7, 0, 0, 0⟩),
    (0x8199A0D09F5002E0, .sbfx ⟨true, true, 3⟩ ⟨0x83, 0x84, 0x1f5, 0, 2, 7, 0, 0⟩),
    (0x81A9A0D09F5482E8, .sbfi ⟨true, true, 3⟩ ⟨0x83, 0x84, 0x1f5, 0x90, 2, 7, 2, 0⟩),
    (0x81B9A110C8800702, .sadd64 ⟨true, true, 3⟩ ⟨0x84, 0x86, 0x88, 0, 7, 0, 0, 2⟩),
    (0x8209A0FE88ABCDEF, .saddi ⟨true, true, 3⟩ ⟨0x83, 0x1f4, 2, 0, 0xabcdef⟩),
    (0x8219A0FE88ABCDEF, .sandi ⟨true, true, 3⟩ ⟨0x83, 0x1f4, 2, 0, 0xabcdef⟩),
    (0x8229A0FE88ABCDEF, .sori ⟨true, true, 3⟩ ⟨0x83, 0x1f4, 2, 0, 0xabcdef⟩),
    (0x8239A0FE88ABCDEF, .sxori ⟨true, true, 3⟩ ⟨0x83, 0x1f4, 2, 0, 0xabcdef⟩)] : List (Nat × Instr)),
    decodeTableWord 64 p.1 = some p.2 ∧ p.2.wf = true := by decide +kernel

theorem test_decode_u2 : ∀ p ∈ ([
    (0x8249A0FE8800001D, .sshli ⟨true, true, 3⟩ ⟨0x83, 0x1f4, 2, 0, 0x1d⟩),
    (0x8259A0FE8800001D, .sshri ⟨true, true, 3⟩ ⟨0x83, 0x1f4, 2, 0, 0x1d⟩),
    (0x8269A0FE8800001D, .ssrai ⟨true, true, 3⟩ ⟨0x83, 0x1f4, 2, 0, 0x1d⟩),
    (0x827981BE883ABCDE, .scmpi ⟨true, true, 3⟩ ⟨6, 0x1f4, 2, 0, 0x3abcde⟩),
    (0x8289A18089ABCDEF, .sli ⟨true, true, 3⟩ ⟨0x86, 0, 0x89abcdef⟩),
    (0x8289A18189ABCDEF, .sliHi ⟨true, true, 3⟩ ⟨0x86, 1, 0x89abcdef⟩),
    (0x8289A18289ABCDEF, .sliSx ⟨true, true, 3⟩ ⟨0x86, 2, 0x89abcdef⟩),
    (0x8299804040302000, .clog ⟨true, true, 3⟩ ⟨1, 2, 3, 4, 0, 0, 0, 0⟩),
    (0x8409891A2B3C0000, .br ⟨true, true, 3⟩ ⟨0x12345678, 0, 0, 0⟩),
    (0x8419C91A2B3C2180, .brl ⟨true, true, 3⟩ ⟨0x92345678, 0x86, 0, 0⟩),
    (0x8429800000002180, .bri ⟨true, true, 3⟩ ⟨0, 0x86, 0, 0⟩),
    (0x8439800000002180, .brli ⟨true, true, 3⟩ ⟨0, 0x86, 0, 0⟩),
    (0x8449891A2B3C001D, .brp ⟨true, true, 3⟩ ⟨0x12345678, 0, 7, 1⟩),
    (0x8459891A2B3C0000, .loopb ⟨true, true, 3⟩ ⟨0x12345678, 0, 0, 0⟩),
    (0x846980000000001D, .exit ⟨true, true, 3⟩ ⟨0, 0, 7, 1⟩),
    (0x8479800089ABCDEF, .trap ⟨true, true, 3⟩ ⟨0, 0, 0x89abcdef⟩),
    (0x84D9800089ABCDEF, .brk ⟨true, true, 3⟩ ⟨0, 0, 0x89abcdef⟩),
    (0x84898000000000EF, .swpt ⟨true, true, 3⟩ ⟨0, 0, 0xef⟩),
    (0x8499800000000000, .trigger ⟨true, true, 3⟩ ⟨0, 0, 0, 0⟩),
    (0x84A9800000000000, .gridwait ⟨true, true, 3⟩ ⟨0, 0, 0, 0⟩),
    (0x84B9800089ABCDEF, .wait ⟨true, true, 3⟩ ⟨0, 0, 0x89abcdef⟩),
    (0x8609A0C080000000, .mfs ⟨true, true, 3⟩ ⟨0x83, 8, 0, 0⟩),
    (0x8619800384200000, .mts ⟨true, true, 3⟩ ⟨0, 0x38, 0x84, 0⟩),
    (0x86198002F4200000, .mtsTsh ⟨true, true, 3⟩ ⟨0, 0x2f, 0x84, 0⟩),
    (0x8619800314200000, .mtsPlane ⟨true, true, 3⟩ ⟨0, 0x31, 0x84, 0⟩),
    (0x8619800344200000, .mtsSplit ⟨true, true, 3⟩ ⟨0, 0x34, 0x84, 0⟩),
    (0x8619800514200000, .mtsRot ⟨true, true, 3⟩ ⟨0, 0x51, 0x84, 0⟩),
    (0x8619800444200000, .ringReset ⟨true, true, 3⟩ ⟨0, 0x44, 0x84, 0⟩),
    (0x8619801104200000, .mtsDrpth ⟨true, true, 3⟩ ⟨0, 0x110, 0x84, 0⟩),
    (0x8619801324200000, .shelfctlWrite ⟨true, true, 3⟩ ⟨0, 0x132, 0x84, 0⟩)] : List (Nat × Instr)),
    decodeTableWord 64 p.1 = some p.2 ∧ p.2.wf = true := by decide +kernel

theorem test_decode_u3 : ∀ p ∈ ([
    (0x8629A10000000000, .time ⟨true, true, 3⟩ ⟨0x84, 0, 0, 0⟩),
    (0x8639A10000000000, .cyc ⟨true, true, 3⟩ ⟨0x84, 0, 0, 0⟩),
    (0x8649800000000011, .fenceRel ⟨true, true, 3⟩ ⟨0, 0, 0, 0x11⟩),
    (0x8649800000000012, .fenceAcq ⟨true, true, 3⟩ ⟨0, 0, 0, 0x12⟩),
    (0x8649800000000017, .fenceFull ⟨true, true, 3⟩ ⟨0, 0, 0, 0x17⟩),
    (0x8659800004200008, .rfxResume ⟨true, true, 3⟩ ⟨0, 0, 0x84, 8⟩),
    (0x8659800004200009, .rfxSkip ⟨true, true, 3⟩ ⟨0, 0, 0x84, 9⟩),
    (0x865980000420000A, .rfxKillb ⟨true, true, 3⟩ ⟨0, 0, 0x84, 0xa⟩),
    (0x865980000420000B, .rfxKilll ⟨true, true, 3⟩ ⟨0, 0, 0x84, 0xb⟩),
    (0x8669800004200000, .xinv ⟨true, true, 3⟩ ⟨0, 0, 0x84, 0⟩),
    (0x8669800000000001, .xinvAll ⟨true, true, 3⟩ ⟨0, 0, 0, 1⟩)] : List (Nat × Instr)),
    decodeTableWord 64 p.1 = some p.2 ∧ p.2.wf = true := by decide +kernel

theorem test_decode_v1 : ∀ p ∈ ([
    (0x900980D0875001C1, .vadd ⟨true, true, 3⟩ ⟨3, 0x84, 0x75, 0, 1, 6, 0, 1⟩),
    (0x901980D0875001C1, .vsub ⟨true, true, 3⟩ ⟨3, 0x84, 0x75, 0, 1, 6, 0, 1⟩),
    (0x902980D0875001C1, .vadds ⟨true, true, 3⟩ ⟨3, 0x84, 0x75, 0, 1, 6, 0, 1⟩),
    (0x903980D0875001C1, .vaddsu ⟨true, true, 3⟩ ⟨3, 0x84, 0x75, 0, 1, 6, 0, 1⟩),
    (0x904980D0875001C1, .vsubs ⟨true, true, 3⟩ ⟨3, 0x84, 0x75, 0, 1, 6, 0, 1⟩),
    (0x905980D0875001C1, .vsubsu ⟨true, true, 3⟩ ⟨3, 0x84, 0x75, 0, 1, 6, 0, 1⟩),
    (0x906980D0875001C1, .vmul ⟨true, true, 3⟩ ⟨3, 0x84, 0x75, 0, 1, 6, 0, 1⟩),
    (0x907980D0875001C1, .vmulh ⟨true, true, 3⟩ ⟨3, 0x84, 0x75, 0, 1, 6, 0, 1⟩),
    (0x908980D0875001C1, .vmulhu ⟨true, true, 3⟩ ⟨3, 0x84, 0x75, 0, 1, 6, 0, 1⟩),
    (0x909980D0875131CD, .vmad ⟨true, true, 3⟩ ⟨3, 0x84, 0x75, 0x26, 1, 6, 3, 1⟩),
    (0x90A980D0875004A2, .vand ⟨true, true, 3⟩ ⟨3, 0x84, 0x75, 0, 4, 5, 0, 2⟩),
    (0x90B980D0875004A2, .vor ⟨true, true, 3⟩ ⟨3, 0x84, 0x75, 0, 4, 5, 0, 2⟩),
    (0x90C980D0875004A2, .vxor ⟨true, true, 3⟩ ⟨3, 0x84, 0x75, 0, 4, 5, 0, 2⟩),
    (0x90D980D0875004A2, .vandn ⟨true, true, 3⟩ ⟨3, 0x84, 0x75, 0, 4, 5, 0, 2⟩),
    (0x90E980D0875004A2, .vshl ⟨true, true, 3⟩ ⟨3, 0x84, 0x75, 0, 4, 5, 0, 2⟩),
    (0x90F980D0875004A2, .vshr ⟨true, true, 3⟩ ⟨3, 0x84, 0x75, 0, 4, 5, 0, 2⟩),
    (0x910980D0875004A2, .vsra ⟨true, true, 3⟩ ⟨3, 0x84, 0x75, 0, 4, 5, 0, 2⟩),
    (0x911980D0875004A2, .vmin ⟨true, true, 3⟩ ⟨3, 0x84, 0x75, 0, 4, 5, 0, 2⟩),
    (0x912980D0875004A2, .vmax ⟨true, true, 3⟩ ⟨3, 0x84, 0x75, 0, 4, 5, 0, 2⟩),
    (0x913980D0875004A2, .vminu ⟨true, true, 3⟩ ⟨3, 0x84, 0x75, 0, 4, 5, 0, 2⟩),
    (0x914980D0875004A2, .vmaxu ⟨true, true, 3⟩ ⟨3, 0x84, 0x75, 0, 4, 5, 0, 2⟩),
    (0x915980D0875004A2, .vabsd ⟨true, true, 3⟩ ⟨3, 0x84, 0x75, 0, 4, 5, 0, 2⟩),
    (0x91698190875484A2, .vcmp ⟨true, true, 3⟩ ⟨6, 0x84, 0x75, 0x90, 4, 5, 0, 2⟩),
    (0x917980D087506F40, .vsel ⟨true, true, 3⟩ ⟨3, 0x84, 0x75, 0xd, 7, 2, 0, 0⟩),
    (0x918980D080000101, .vmov ⟨true, true, 3⟩ ⟨3, 0x84, 0, 0, 1, 0, 0, 1⟩),
    (0x919980D080000101, .vpopc ⟨true, true, 3⟩ ⟨3, 0x84, 0, 0, 1, 0, 0, 1⟩),
    (0x91A980D080000101, .vclz ⟨true, true, 3⟩ ⟨3, 0x84, 0, 0, 1, 0, 0, 1⟩),
    (0x91B980D087500740, .vbfx ⟨true, true, 3⟩ ⟨3, 0x84, 0x75, 0, 7, 2, 0, 0⟩),
    (0x91C980D08751375C, .vbfi ⟨true, true, 3⟩ ⟨3, 0x84, 0x75, 0x26, 7, 2, 7, 0⟩),
    (0x91D980D085ABCDEF, .vaddi ⟨true, true, 3⟩ ⟨3, 0x84, 1, 1, 0xabcdef⟩)] : List (Nat × Instr)),
    decodeTableWord 64 p.1 = some p.2 ∧ p.2.wf = true := by decide +kernel

theorem test_decode_v2 : ∀ p ∈ ([
    (0x91E980D085ABCDEF, .vandi ⟨true, true, 3⟩ ⟨3, 0x84, 1, 1, 0xabcdef⟩),
    (0x91F980D08500000D, .vshli ⟨true, true, 3⟩ ⟨3, 0x84, 1, 1, 0xd⟩),
    (0x920980D08500000D, .vshri ⟨true, true, 3⟩ ⟨3, 0x84, 1, 1, 0xd⟩),
    (0x921980D08500000D, .vsrai ⟨true, true, 3⟩ ⟨3, 0x84, 1, 1, 0xd⟩),
    (0x9229810089ABCDEF, .vli ⟨true, true, 3⟩ ⟨4, 0, 0x89abcdef⟩),
    (0x9229810189ABCDEF, .vliHi ⟨true, true, 3⟩ ⟨4, 1, 0x89abcdef⟩),
    (0x9229810289ABCDEF, .vliSx ⟨true, true, 3⟩ ⟨4, 2, 0x89abcdef⟩),
    (0x923980D0875134AA, .vdot4 ⟨true, true, 3⟩ ⟨3, 0x84, 0x75, 0x26, 4, 5, 2, 2⟩),
    (0x924980D0875001C2, .vpack ⟨true, true, 3⟩ ⟨3, 0x84, 0x75, 0, 1, 6, 0, 2⟩),
    (0x925980D080001C02, .vunpk ⟨true, true, 3⟩ ⟨3, 0x84, 0, 3, 4, 0, 0, 2⟩),
    (0x92698190853ABCDE, .vcmpi ⟨true, true, 3⟩ ⟨6, 0x84, 1, 1, 0x3abcde⟩),
    (0x92798110C7600702, .vadd64 ⟨true, true, 3⟩ ⟨4, 0x86, 0x76, 0, 7, 0, 0, 2⟩),
    (0x9289804040302000, .plog ⟨true, true, 3⟩ ⟨1, 2, 3, 4, 0, 0, 0, 0⟩),
    (0x940980D0875021C1, .fadd ⟨true, true, 3⟩ ⟨3, 0x84, 0x75, 4, 1, 6, 0, 1⟩),
    (0x941980D0875021C1, .fsub ⟨true, true, 3⟩ ⟨3, 0x84, 0x75, 4, 1, 6, 0, 1⟩),
    (0x942980D0875021C1, .fmul ⟨true, true, 3⟩ ⟨3, 0x84, 0x75, 4, 1, 6, 0, 1⟩),
    (0x943980D0875131CE, .ffma ⟨true, true, 3⟩ ⟨3, 0x84, 0x75, 0x26, 1, 6, 3, 2⟩),
    (0x944980D0875001C1, .fmin ⟨true, true, 3⟩ ⟨3, 0x84, 0x75, 0, 1, 6, 0, 1⟩),
    (0x945980D0875001C1, .fmax ⟨true, true, 3⟩ ⟨3, 0x84, 0x75, 0, 1, 6, 0, 1⟩),
    (0x94698190875E81C1, .fcmp ⟨true, true, 3⟩ ⟨6, 0x84, 0x75, 0x1d0, 1, 6, 0, 1⟩),
    (0x947980D085902100, .fcvt ⟨true, true, 3⟩ ⟨3, 0x84, 0x59, 4, 1, 0, 0, 0⟩),
    (0x948980D080102101, .fcvti ⟨true, true, 3⟩ ⟨3, 0x84, 1, 4, 1, 0, 0, 1⟩),
    (0x949980D080102101, .icvtf ⟨true, true, 3⟩ ⟨3, 0x84, 1, 4, 1, 0, 0, 1⟩),
    (0x94A980D087500101, .fmaxk ⟨true, true, 3⟩ ⟨3, 0x84, 0x75, 0, 1, 0, 0, 1⟩),
    (0x94B980D080000101, .fclass ⟨true, true, 3⟩ ⟨3, 0x84, 0, 0, 1, 0, 0, 1⟩),
    (0x94C980D0875131CA, .fdot2 ⟨true, true, 3⟩ ⟨3, 0x84, 0x75, 0x26, 1, 6, 2, 2⟩),
    (0x94D9811080302700, .fmxq ⟨true, true, 3⟩ ⟨4, 0x84, 3, 4, 7, 0, 0, 0⟩),
    (0x94E9811080300000, .fmxd ⟨true, true, 3⟩ ⟨4, 0x84, 3, 0, 0, 0, 0, 0⟩),
    (0x960980D080000101, .sfsin ⟨true, true, 3⟩ ⟨3, 0x84, 0, 0, 1, 0, 0, 1⟩),
    (0x961980D080000101, .sfcos ⟨true, true, 3⟩ ⟨3, 0x84, 0, 0, 1, 0, 0, 1⟩)] : List (Nat × Instr)),
    decodeTableWord 64 p.1 = some p.2 ∧ p.2.wf = true := by decide +kernel

theorem test_decode_v3 : ∀ p ∈ ([
    (0x962980D080000101, .sfexp2 ⟨true, true, 3⟩ ⟨3, 0x84, 0, 0, 1, 0, 0, 1⟩),
    (0x963980D080000101, .sflog2 ⟨true, true, 3⟩ ⟨3, 0x84, 0, 0, 1, 0, 0, 1⟩),
    (0x964980D080000101, .sfrcp ⟨true, true, 3⟩ ⟨3, 0x84, 0, 0, 1, 0, 0, 1⟩),
    (0x965980D080000101, .sfrsq ⟨true, true, 3⟩ ⟨3, 0x84, 0, 0, 1, 0, 0, 1⟩),
    (0x966980D080000101, .sfsqrt ⟨true, true, 3⟩ ⟨3, 0x84, 0, 0, 1, 0, 0, 1⟩),
    (0x9679811087500000, .sftwid ⟨true, true, 3⟩ ⟨4, 0x84, 0x75, 0, 0, 0, 0, 0⟩),
    (0x970980C4875030E0, .xshf ⟨true, true, 3⟩ ⟨3, 0x24, 0x75, 6, 0, 7, 0, 0⟩),
    (0x971980C4875030E0, .xbfly ⟨true, true, 3⟩ ⟨3, 0x24, 0x75, 6, 0, 7, 0, 0⟩),
    (0x972980C4875030E0, .xup ⟨true, true, 3⟩ ⟨3, 0x24, 0x75, 6, 0, 7, 0, 0⟩),
    (0x973980C4875030E0, .xdn ⟨true, true, 3⟩ ⟨3, 0x24, 0x75, 6, 0, 7, 0, 0⟩),
    (0x974980C480017402, .xred ⟨true, true, 3⟩ ⟨3, 0x24, 0, 0x2e, 4, 0, 0, 2⟩),
    (0x975980C480057402, .xscan ⟨true, true, 3⟩ ⟨3, 0x24, 0, 0xae, 4, 0, 0, 2⟩),
    (0x9769810120000000, .xballot ⟨true, true, 3⟩ ⟨4, 9, 0, 0, 0, 0, 0, 0⟩),
    (0x977980C480003000, .xbcast ⟨true, true, 3⟩ ⟨3, 0x24, 0, 6, 0, 0, 0, 0⟩),
    (0x978981812000B000, .xvote ⟨true, true, 3⟩ ⟨6, 9, 0, 0x16, 0, 0, 0, 0⟩)] : List (Nat × Instr)),
    decodeTableWord 64 p.1 = some p.2 ∧ p.2.wf = true := by decide +kernel

theorem test_decode_m1 : ∀ p ∈ ([
    (0xA00980D0955E6D5C, .ldb ⟨true, true, 3⟩ ⟨3, 0x84, 0x2abcd, 2, 5, 1, 3, 0⟩),
    (0xA01980D0955E6D5C, .ldbz ⟨true, true, 3⟩ ⟨3, 0x84, 0x2abcd, 2, 5, 1, 3, 0⟩),
    (0xA02980D0955E6D5C, .ldh ⟨true, true, 3⟩ ⟨3, 0x84, 0x2abcd, 2, 5, 1, 3, 0⟩),
    (0xA03980D0955E6D5C, .ldhz ⟨true, true, 3⟩ ⟨3, 0x84, 0x2abcd, 2, 5, 1, 3, 0⟩),
    (0xA04980D0955E6D5C, .ldw ⟨true, true, 3⟩ ⟨3, 0x84, 0x2abcd, 2, 5, 1, 3, 0⟩),
    (0xA0598110955E6B58, .ldd ⟨true, true, 3⟩ ⟨4, 0x84, 0x2abcd, 1, 5, 1, 2, 0⟩),
    (0xA0698210955E6954, .ldq ⟨true, true, 3⟩ ⟨8, 0x84, 0x2abcd, 0, 5, 1, 1, 0⟩),
    (0xA07980D0955E6D6C, .stb ⟨true, true, 3⟩ ⟨3, 0x84, 0x2abcd, 2, 5, 2, 3, 0⟩),
    (0xA08980D0955E6D6C, .sth ⟨true, true, 3⟩ ⟨3, 0x84, 0x2abcd, 2, 5, 2, 3, 0⟩),
    (0xA09980D0955E6D6C, .stw ⟨true, true, 3⟩ ⟨3, 0x84, 0x2abcd, 2, 5, 2, 3, 0⟩),
    (0xA0A98110955E6B68, .std ⟨true, true, 3⟩ ⟨4, 0x84, 0x2abcd, 1, 5, 2, 2, 0⟩),
    (0xA0B98210955E6B68, .stq ⟨true, true, 3⟩ ⟨8, 0x84, 0x2abcd, 1, 5, 2, 2, 0⟩),
    (0xA0C9A0D0955E6D5C, .sldw ⟨true, true, 3⟩ ⟨0x83, 0x84, 0x2abcd, 2, 5, 1, 3, 0⟩),
    (0xA0D9A190955E6B5C, .sldd ⟨true, true, 3⟩ ⟨0x86, 0x84, 0x2abcd, 1, 5, 1, 3, 0⟩),
    (0xA0E9A0D0955E6D6C, .sstw ⟨true, true, 3⟩ ⟨0x83, 0x84, 0x2abcd, 2, 5, 2, 3, 0⟩),
    (0xA0F9A190955E6B6C, .sstd ⟨true, true, 3⟩ ⟨0x86, 0x84, 0x2abcd, 1, 5, 2, 3, 0⟩),
    (0xA1098010955E680C, .pref ⟨true, true, 3⟩ ⟨0, 0x84, 0x2abcd, 0, 0, 0, 3, 0⟩),
    (0xA1198010955E6940, .cwb ⟨true, true, 3⟩ ⟨0, 0x84, 0x2abcd, 0, 5, 0, 0, 0⟩),
    (0xA1298010955E6800, .cinv ⟨true, true, 3⟩ ⟨0, 0x84, 0x2abcd, 0, 0, 0, 0, 0⟩),
    (0xA20980D0826E6D70, .aadd ⟨true, true, 3⟩ ⟨3, 0x84, 0x26, 0x1cd, 2, 5, 3, 0, 0⟩),
    (0xA21980D0826E6D70, .aand ⟨true, true, 3⟩ ⟨3, 0x84, 0x26, 0x1cd, 2, 5, 3, 0, 0⟩),
    (0xA22980D0826E6D70, .aor ⟨true, true, 3⟩ ⟨3, 0x84, 0x26, 0x1cd, 2, 5, 3, 0, 0⟩),
    (0xA23980D0826E6D70, .axor ⟨true, true, 3⟩ ⟨3, 0x84, 0x26, 0x1cd, 2, 5, 3, 0, 0⟩),
    (0xA24980D0826E6D70, .amin ⟨true, true, 3⟩ ⟨3, 0x84, 0x26, 0x1cd, 2, 5, 3, 0, 0⟩),
    (0xA25980D0826E6D70, .amax ⟨true, true, 3⟩ ⟨3, 0x84, 0x26, 0x1cd, 2, 5, 3, 0, 0⟩),
    (0xA26980D0826E6D70, .aminu ⟨true, true, 3⟩ ⟨3, 0x84, 0x26, 0x1cd, 2, 5, 3, 0, 0⟩),
    (0xA27980D0826E6D70, .amaxu ⟨true, true, 3⟩ ⟨3, 0x84, 0x26, 0x1cd, 2, 5, 3, 0, 0⟩),
    (0xA28980D0826E6D70, .axchg ⟨true, true, 3⟩ ⟨3, 0x84, 0x26, 0x1cd, 2, 5, 3, 0, 0⟩),
    (0xA29980D0826E6D70, .acas ⟨true, true, 3⟩ ⟨3, 0x84, 0x26, 0x1cd, 2, 5, 3, 0, 0⟩),
    (0xA2A980D0826E6D70, .afadd ⟨true, true, 3⟩ ⟨3, 0x84, 0x26, 0x1cd, 2, 5, 3, 0, 0⟩)] : List (Nat × Instr)),
    decodeTableWord 64 p.1 = some p.2 ∧ p.2.wf = true := by decide +kernel

theorem test_decode_m2 : ∀ p ∈ ([
    (0xA2898110826E6974, .axchgX64 ⟨true, true, 3⟩ ⟨4, 0x84, 0x26, 0x1cd, 0, 5, 3, 1, 0⟩),
    (0xA2B98110826E6970, .aadd64 ⟨true, true, 3⟩ ⟨4, 0x84, 0x26, 0x1cd, 0, 5, 3, 0, 0⟩),
    (0xA2C98110828E6970, .acas64 ⟨true, true, 3⟩ ⟨4, 0x84, 0x28, 0x1cd, 0, 5, 3, 0, 0⟩),
    (0xA2C98110828E6974, .acas64X128 ⟨true, true, 3⟩ ⟨4, 0x84, 0x28, 0x1cd, 0, 5, 3, 1, 0⟩),
    (0xA309810000001800, .qpop ⟨true, true, 3⟩ ⟨4, 0, 3, 0, 0, 0, 0, 0⟩),
    (0xA319810000001000, .qpeek ⟨true, true, 3⟩ ⟨4, 0, 2, 0, 0, 0, 0, 0⟩),
    (0xA3898090955E6A00, .tscl ⟨true, true, 3⟩ ⟨2, 0x84, 0x2abcd, 1, 0, 0, 0, 0⟩)] : List (Nat × Instr)),
    decodeTableWord 64 p.1 = some p.2 ∧ p.2.wf = true := by decide +kernel

theorem test_decode_x1 : ∀ p ∈ ([
    (0xB009C80042224002, .tld ⟨true, true, 3⟩ ⟨9, 0, 0, 0, 0x84, 0x89, 2⟩),
    (0xB019C80042224001, .tst ⟨true, true, 3⟩ ⟨9, 0, 0, 0, 0x84, 0x89, 1⟩),
    (0xB0299D5D00000006, .tmma ⟨true, true, 3⟩ ⟨3, 0xa, 0xb, 5, 0, 0, 6⟩),
    (0xB039C98500000001, .trnd ⟨true, true, 3⟩ ⟨9, 3, 0, 5, 0, 0, 1⟩),
    (0xB049980000000000, .tzeroPlane ⟨true, true, 3⟩ ⟨3, 0, 0, 0, 0, 0, 0⟩),
    (0xB049C80000000001, .tzeroTile ⟨true, true, 3⟩ ⟨9, 0, 0, 0, 0, 0, 1⟩),
    (0xB0599D0500000006, .twin ⟨true, true, 3⟩ ⟨3, 0xa, 0, 5, 0, 0, 6⟩),
    (0xB069CD004200000D, .tbfly ⟨true, true, 3⟩ ⟨9, 0xa, 0, 0, 0x84, 0, 0xd⟩),
    (0xB079CD0000000001, .tbrev ⟨true, true, 3⟩ ⟨9, 0xa, 0, 0, 0, 0, 1⟩),
    (0xB089800042224000, .ttwg ⟨true, true, 3⟩ ⟨0, 0, 0, 0, 0x84, 0x89, 0⟩),
    (0xB099CD0000000000, .ttrn ⟨true, true, 3⟩ ⟨9, 0xa, 0, 0, 0, 0, 0⟩),
    (0xB0A9C80044894000, .tmovvTv ⟨true, true, 3⟩ ⟨9, 0, 0, 0, 0x89, 0x25, 0⟩),
    (0xB0A9C80044894001, .tmovvVt ⟨true, true, 3⟩ ⟨9, 0, 0, 0, 0x89, 0x25, 1⟩),
    (0xB0A9C80044894002, .tmovvTvRx ⟨true, true, 3⟩ ⟨9, 0, 0, 0, 0x89, 0x25, 2⟩),
    (0xB0A9C80044894003, .tmovvVtRx ⟨true, true, 3⟩ ⟨9, 0, 0, 0, 0x89, 0x25, 3⟩),
    (0xB0B9CD5800000000, .tmerge ⟨true, true, 3⟩ ⟨9, 0xa, 0xb, 0, 0, 0, 0⟩),
    (0xB2099C80422235A0, .cpy ⟨true, true, 3⟩ ⟨3, 9, 0, 0, 0x84, 0x88, 0x35a0⟩),
    (0xB2299C80422235A0, .cpym ⟨true, true, 3⟩ ⟨3, 9, 0, 0, 0x84, 0x88, 0x35a0⟩),
    (0xB2999C80422235A0, .cpyt ⟨true, true, 3⟩ ⟨3, 9, 0, 0, 0x84, 0x88, 0x35a0⟩),
    (0xB2199C80422235E0, .cpys ⟨true, true, 3⟩ ⟨3, 9, 0, 0, 0x84, 0x88, 0x35e0⟩),
    (0xB2399C90422235C0, .gath ⟨true, true, 3⟩ ⟨3, 9, 2, 0, 0x84, 0x88, 0x35c0⟩),
    (0xB2499C90422235C0, .redc ⟨true, true, 3⟩ ⟨3, 9, 2, 0, 0x84, 0x88, 0x35c0⟩),
    (0xB2599C90422235C0, .cnvt ⟨true, true, 3⟩ ⟨3, 9, 2, 0, 0x84, 0x88, 0x35c0⟩),
    (0xB269980042223520, .bsnd ⟨true, true, 3⟩ ⟨3, 0, 0, 0, 0x84, 0x88, 0x3520⟩),
    (0xB279980000000055, .swait ⟨true, true, 3⟩ ⟨3, 0, 0, 0, 0, 0, 0x55⟩),
    (0xB289980000000055, .srel ⟨true, true, 3⟩ ⟨3, 0, 0, 0, 0, 0, 0x55⟩),
    (0xB309800042000000, .spawn ⟨true, true, 3⟩ ⟨0, 0, 0, 0, 0x84, 0, 0⟩),
    (0xB319800042228000, .spawnd ⟨true, true, 3⟩ ⟨0, 0, 0, 0, 0x84, 0x8a, 0⟩),
    (0xB329800042224000, .enq ⟨true, true, 3⟩ ⟨0, 0, 0, 0, 0x84, 0x89, 0⟩),
    (0xB339800042228000, .deq ⟨true, true, 3⟩ ⟨0, 0, 0, 0, 0x84, 0x8a, 0⟩)] : List (Nat × Instr)),
    decodeTableWord 64 p.1 = some p.2 ∧ p.2.wf = true := by decide +kernel

theorem test_decode_x2 : ∀ p ∈ ([
    (0xB339802842228001, .deqNb ⟨true, true, 3⟩ ⟨0, 0, 5, 0, 0x84, 0x8a, 1⟩),
    (0xB409C80042000005, .barv ⟨true, true, 3⟩ ⟨9, 0, 0, 0, 0x84, 0, 5⟩),
    (0xB419C80042000005, .barw ⟨true, true, 3⟩ ⟨9, 0, 0, 0, 0x84, 0, 5⟩),
    (0xB429C82842000005, .bart ⟨true, true, 3⟩ ⟨9, 0, 5, 0, 0x84, 0, 5⟩),
    (0xB439C80042224000, .barx ⟨true, true, 3⟩ ⟨9, 0, 0, 0, 0x84, 0x89, 0⟩),
    (0xB449800042003FCD, .cbar ⟨true, true, 3⟩ ⟨0, 0, 0, 0, 0x84, 0, 0x3fcd⟩),
    (0xB459800042218005, .tlwait ⟨true, true, 3⟩ ⟨0, 0, 0, 0, 0x84, 0x86, 5⟩),
    (0xB469800042218025, .tlsig ⟨true, true, 3⟩ ⟨0, 0, 0, 0, 0x84, 0x86, 0x25⟩),
    (0xB479800042218000, .tlrd ⟨true, true, 3⟩ ⟨0, 0, 0, 0, 0x84, 0x86, 0⟩),
    (0xB509800042000000, .rast ⟨true, true, 3⟩ ⟨0, 0, 0, 0, 0x84, 0, 0⟩),
    (0xB519801842224000, .rayq ⟨true, true, 3⟩ ⟨0, 0, 3, 0, 0x84, 0x89, 0⟩),
    (0xB529801842000000, .rtile ⟨true, true, 3⟩ ⟨0, 0, 3, 0, 0x84, 0, 0⟩)] : List (Nat × Instr)),
    decodeTableWord 64 p.1 = some p.2 ∧ p.2.wf = true := by decide +kernel

/-! ## Ill-formed terms: one for each static rule of R122 to R139 and of the pages of the instructions -/

theorem test_ill_formed_header : ∀ i ∈ ([
    .sadd ⟨true, true, 0⟩ ⟨0x83, 0x84, 0x1f5, 0, 2, 7, 0, 0⟩,
    .cpy ⟨true, true, 0⟩ ⟨3, 9, 0, 0, 0x84, 0x88, 0x35a0⟩] : List Instr), i.wf = false := by decide +kernel

theorem test_ill_formed_scalar_a : ∀ i ∈ ([
    .nop ⟨true, false, 0⟩ ⟨1, 0, 0, 0, 0, 0, 0, 0⟩,
    .scmp ⟨true, true, 3⟩ ⟨0x10, 0x84, 0x1f5, 0x90, 7, 2, 0, 0⟩,
    .scmp ⟨true, true, 3⟩ ⟨6, 0x84, 0x1f5, 0xa0, 7, 2, 0, 0⟩,
    .scmp ⟨true, true, 3⟩ ⟨6, 0x84, 0x1f5, 0x91, 7, 2, 0, 0⟩,
    .scmp ⟨true, true, 3⟩ ⟨6, 0x84, 0x1f5, 0x90, 7, 2, 0, 1⟩,
    .scmp ⟨true, true, 3⟩ ⟨6, 0x84, 0x1f5, 0x90, 1, 2, 0, 0⟩,
    .ssel ⟨true, true, 3⟩ ⟨0x83, 0x84, 0x1f5, 0x10, 7, 2, 0, 0⟩,
    .ssel ⟨true, true, 3⟩ ⟨0x83, 0x84, 0x1f5, 0xd, 7, 2, 1, 0⟩,
    .spopc ⟨true, true, 3⟩ ⟨0x83, 0x84, 1, 0, 7, 0, 0, 0⟩,
    .sclz ⟨true, true, 3⟩ ⟨0x83, 0x84, 0, 1, 7, 0, 0, 0⟩,
    .sbfi ⟨true, true, 3⟩ ⟨0x83, 0x84, 0x1f5, 0x90, 2, 7, 1, 0⟩,
    .sbfi ⟨true, true, 3⟩ ⟨0x83, 0x84, 0x1f5, 0x90, 2, 7, 2, 1⟩,
    .sadd64 ⟨true, true, 3⟩ ⟨0x84, 0x86, 0x88, 0, 7, 0, 0, 3⟩,
    .sadd64 ⟨true, true, 3⟩ ⟨0x84, 0x86, 0x88, 0, 2, 0, 0, 2⟩,
    .sadd64 ⟨true, true, 3⟩ ⟨0x84, 0x86, 0x88, 1, 7, 0, 0, 2⟩,
    .clog ⟨true, true, 3⟩ ⟨0x10, 2, 3, 4, 0, 0, 0, 0⟩,
    .clog ⟨true, true, 3⟩ ⟨1, 0x10, 3, 4, 0, 0, 0, 0⟩,
    .clog ⟨true, true, 3⟩ ⟨1, 2, 0x10, 4, 0, 0, 0, 0⟩,
    .clog ⟨true, true, 3⟩ ⟨1, 2, 3, 0x10, 0, 0, 0, 0⟩,
    .clog ⟨true, true, 3⟩ ⟨1, 2, 3, 4, 1, 0, 0, 0⟩,
    .sadd ⟨true, true, 3⟩ ⟨0x83, 0x84, 0x1f5, 1, 2, 7, 0, 0⟩,
    .sadd ⟨true, true, 3⟩ ⟨0x83, 0x84, 0x1f5, 0, 2, 7, 0, 1⟩,
    .sadd ⟨true, true, 3⟩ ⟨0x83, 0x84, 0x1f5, 0, 1, 7, 0, 0⟩,
    .sadd ⟨true, true, 3⟩ ⟨0x83, 0x84, 0x1f5, 0, 2, 4, 0, 0⟩] : List Instr), i.wf = false := by decide +kernel

theorem test_ill_formed_vector_a : ∀ i ∈ ([
    .vmad ⟨true, true, 3⟩ ⟨3, 0x84, 0x75, 0x26, 1, 6, 4, 1⟩,
    .vadd ⟨true, true, 3⟩ ⟨3, 0x84, 0x75, 1, 1, 6, 0, 1⟩,
    .vadd ⟨true, true, 3⟩ ⟨3, 0x84, 0x75, 0, 4, 6, 0, 1⟩,
    .vcmp ⟨true, true, 3⟩ ⟨0x10, 0x84, 0x75, 0x90, 4, 5, 0, 2⟩,
    .vcmp ⟨true, true, 3⟩ ⟨6, 0x84, 0x75, 0xa0, 4, 5, 0, 2⟩,
    .vsel ⟨true, true, 3⟩ ⟨3, 0x84, 0x75, 0x10, 7, 2, 0, 0⟩,
    .vsel ⟨true, true, 3⟩ ⟨3, 0x84, 0x75, 0xd, 7, 2, 0, 1⟩,
    .vmov ⟨true, true, 3⟩ ⟨3, 0x84, 1, 0, 1, 0, 0, 1⟩,
    .vbfx ⟨true, true, 3⟩ ⟨3, 0x84, 0x75, 0, 7, 2, 0, 1⟩,
    .vbfx ⟨true, true, 3⟩ ⟨3, 0x84, 0x75, 1, 7, 2, 0, 0⟩,
    .vbfi ⟨true, true, 3⟩ ⟨3, 0x84, 0x75, 0x26, 7, 2, 1, 0⟩,
    .vdot4 ⟨true, true, 3⟩ ⟨3, 0x84, 0x75, 0x26, 4, 5, 2, 0⟩,
    .vdot4 ⟨true, true, 3⟩ ⟨3, 0x84, 0x75, 0x26, 4, 5, 1, 2⟩,
    .vpack ⟨true, true, 3⟩ ⟨3, 0x84, 0x75, 0, 1, 6, 0, 0⟩,
    .vpack ⟨true, true, 3⟩ ⟨3, 0x84, 0x75, 0, 4, 6, 0, 2⟩,
    .vunpk ⟨true, true, 3⟩ ⟨3, 0x84, 0, 3, 4, 0, 0, 0⟩,
    .vunpk ⟨true, true, 3⟩ ⟨3, 0x84, 0, 4, 4, 0, 0, 2⟩,
    .vadd64 ⟨true, true, 3⟩ ⟨4, 0x86, 0x76, 0, 7, 0, 0, 3⟩,
    .vadd64 ⟨true, true, 3⟩ ⟨4, 0x86, 0x76, 0, 7, 1, 0, 2⟩,
    .plog ⟨true, true, 3⟩ ⟨0x10, 2, 3, 4, 0, 0, 0, 0⟩,
    .plog ⟨true, true, 3⟩ ⟨1, 2, 3, 4, 0, 0, 0, 1⟩] : List Instr), i.wf = false := by decide +kernel

theorem test_ill_formed_vector_float : ∀ i ∈ ([
    .fadd ⟨true, true, 3⟩ ⟨3, 0x84, 0x75, 4, 1, 6, 0, 3⟩,
    .fadd ⟨true, true, 3⟩ ⟨3, 0x84, 0x75, 5, 1, 6, 0, 1⟩,
    .fadd ⟨true, true, 3⟩ ⟨3, 0x84, 0x75, 4, 1, 6, 1, 1⟩,
    .fadd ⟨true, true, 3⟩ ⟨3, 0x84, 0x75, 4, 4, 6, 0, 1⟩,
    .ffma ⟨true, true, 3⟩ ⟨3, 0x84, 0x75, 0x26, 1, 6, 3, 3⟩,
    .fmin ⟨true, true, 3⟩ ⟨3, 0x84, 0x75, 1, 1, 6, 0, 1⟩,
    .fcmp ⟨true, true, 3⟩ ⟨6, 0x84, 0x75, 0x1e0, 1, 6, 0, 1⟩,
    .fcmp ⟨true, true, 3⟩ ⟨6, 0x84, 0x75, 0xf0, 1, 6, 0, 1⟩,
    .fcvt ⟨true, true, 3⟩ ⟨3, 0x84, 0x1b, 4, 1, 0, 0, 0⟩,
    .fcvt ⟨true, true, 3⟩ ⟨3, 0x84, 0x99, 4, 1, 0, 0, 0⟩,
    .fcvt ⟨true, true, 3⟩ ⟨3, 0x84, 0x59, 4, 1, 0, 0, 1⟩,
    .fcvti ⟨true, true, 3⟩ ⟨3, 0x84, 2, 4, 1, 0, 0, 1⟩,
    .icvtf ⟨true, true, 3⟩ ⟨3, 0x84, 1, 4, 1, 0, 0, 3⟩,
    .fmaxk ⟨true, true, 3⟩ ⟨3, 0x84, 0x75, 0, 1, 0, 0, 0⟩,
    .fclass ⟨true, true, 3⟩ ⟨3, 0x84, 1, 0, 1, 0, 0, 1⟩,
    .fdot2 ⟨true, true, 3⟩ ⟨3, 0x84, 0x75, 0x26, 1, 6, 2, 0⟩,
    .fdot2 ⟨true, true, 3⟩ ⟨3, 0x84, 0x75, 0x26, 1, 6, 1, 2⟩,
    .fmxq ⟨true, true, 3⟩ ⟨4, 0x84, 2, 4, 7, 0, 0, 0⟩,
    .fmxq ⟨true, true, 3⟩ ⟨4, 0x84, 3, 4, 7, 0, 0, 1⟩,
    .fmxd ⟨true, true, 3⟩ ⟨4, 0x84, 3, 0, 7, 0, 0, 0⟩,
    .fmxd ⟨true, true, 3⟩ ⟨4, 0x84, 8, 0, 0, 0, 0, 0⟩,
    .sfsin ⟨true, true, 3⟩ ⟨3, 0x84, 0, 0, 1, 0, 0, 3⟩,
    .sfrcp ⟨true, true, 3⟩ ⟨3, 0x84, 1, 0, 1, 0, 0, 1⟩,
    .sftwid ⟨true, true, 3⟩ ⟨4, 0x84, 0x75, 0, 7, 0, 0, 0⟩] : List Instr), i.wf = false := by decide +kernel

theorem test_ill_formed_vector_exchange : ∀ i ∈ ([
    .xshf ⟨true, true, 3⟩ ⟨3, 0x24, 0x75, 6, 7, 7, 0, 0⟩,
    .xbfly ⟨true, true, 3⟩ ⟨3, 0x24, 0x75, 8, 0, 7, 0, 0⟩,
    .xup ⟨true, true, 3⟩ ⟨3, 0x24, 0x75, 6, 0, 7, 0, 1⟩,
    .xred ⟨true, true, 3⟩ ⟨3, 0x24, 0, 0x48, 4, 0, 0, 2⟩,
    .xred ⟨true, true, 3⟩ ⟨3, 0x24, 0, 0x80, 4, 0, 0, 2⟩,
    .xred ⟨true, true, 3⟩ ⟨3, 0x24, 0, 0x40, 0, 0, 0, 3⟩,
    .xscan ⟨true, true, 3⟩ ⟨3, 0x24, 0, 0x100, 4, 0, 0, 2⟩,
    .xballot ⟨true, true, 3⟩ ⟨4, 0x10, 0, 0, 0, 0, 0, 0⟩,
    .xbcast ⟨true, true, 3⟩ ⟨3, 0x24, 0, 8, 0, 0, 0, 0⟩,
    .xvote ⟨true, true, 3⟩ ⟨6, 9, 0, 0x18, 0, 0, 0, 0⟩,
    .xvote ⟨true, true, 3⟩ ⟨0x10, 9, 0, 0x16, 0, 0, 0, 0⟩] : List Instr), i.wf = false := by decide +kernel

theorem test_ill_formed_immediates : ∀ i ∈ ([
    .saddi ⟨true, true, 3⟩ ⟨0x83, 0x1f4, 2, 1, 0xabcdef⟩,
    .saddi ⟨true, true, 3⟩ ⟨0x83, 0x1f4, 1, 0, 0xabcdef⟩,
    .sshli ⟨true, true, 3⟩ ⟨0x83, 0x1f4, 2, 0, 0x20⟩,
    .vaddi ⟨true, true, 3⟩ ⟨3, 0x84, 4, 1, 0xabcdef⟩,
    .vshri ⟨true, true, 3⟩ ⟨3, 0x84, 1, 1, 0x20⟩,
    .scmpi ⟨true, true, 3⟩ ⟨0x10, 0x1f4, 2, 0, 0x3abcde⟩,
    .scmpi ⟨true, true, 3⟩ ⟨6, 0x1f4, 2, 0, 0x500000⟩,
    .vcmpi ⟨true, true, 3⟩ ⟨6, 0x84, 1, 1, 0x500000⟩,
    .sli ⟨true, true, 3⟩ ⟨0x86, 3, 0x89abcdef⟩,
    .vli ⟨true, true, 3⟩ ⟨4, 3, 0x89abcdef⟩,
    .trap ⟨true, true, 3⟩ ⟨1, 0, 0x89abcdef⟩,
    .wait ⟨true, true, 3⟩ ⟨0, 1, 0x89abcdef⟩,
    .swpt ⟨true, true, 3⟩ ⟨0, 0, 0x100⟩] : List Instr), i.wf = false := by decide +kernel

theorem test_ill_formed_branches : ∀ i ∈ ([
    .br ⟨true, true, 3⟩ ⟨0x12345678, 1, 0, 0⟩,
    .br ⟨true, true, 3⟩ ⟨0x12345678, 0, 0, 2⟩,
    .brl ⟨true, true, 3⟩ ⟨0x92345678, 0x86, 1, 0⟩,
    .bri ⟨true, true, 3⟩ ⟨8, 0x86, 0, 0⟩,
    .brli ⟨true, true, 3⟩ ⟨0, 0x86, 0, 1⟩,
    .brp ⟨true, true, 3⟩ ⟨0x12345678, 1, 7, 1⟩,
    .loopb ⟨true, true, 3⟩ ⟨0x12345678, 0, 1, 0⟩,
    .exit ⟨true, true, 3⟩ ⟨8, 0, 7, 1⟩,
    .brl ⟨true, true, 3⟩ ⟨0x92345678, 0x81, 0, 0⟩,
    .bri ⟨true, true, 3⟩ ⟨0, 5, 0, 0⟩] : List Instr), i.wf = false := by decide +kernel

theorem test_ill_formed_system : ∀ i ∈ ([
    .trigger ⟨true, true, 3⟩ ⟨1, 0, 0, 0⟩,
    .gridwait ⟨true, true, 3⟩ ⟨0, 0, 0, 1⟩,
    .mfs ⟨true, true, 3⟩ ⟨0x83, 8, 1, 0⟩,
    .mts ⟨true, true, 3⟩ ⟨1, 0x38, 0x84, 0⟩,
    .time ⟨true, true, 3⟩ ⟨0x84, 1, 0, 0⟩,
    .cyc ⟨true, true, 3⟩ ⟨0x84, 0, 1, 0⟩,
    .fenceRel ⟨true, true, 3⟩ ⟨0, 0, 0, 0⟩,
    .fenceRel ⟨true, true, 3⟩ ⟨0, 0, 0, 0x19⟩,
    .fenceFull ⟨true, true, 3⟩ ⟨0, 0, 0, 0x23⟩,
    .rfxResume ⟨true, true, 3⟩ ⟨0, 0, 0x84, 4⟩,
    .rfxSkip ⟨true, true, 3⟩ ⟨0, 0, 0x84, 0x11⟩,
    .xinv ⟨true, true, 3⟩ ⟨0, 0, 0x84, 2⟩,
    .xinvAll ⟨true, true, 3⟩ ⟨0, 0, 0x84, 1⟩,
    .mfs ⟨true, true, 3⟩ ⟨0x83, 0xc, 0, 0⟩,
    .mts ⟨true, true, 3⟩ ⟨0, 0, 0x84, 0⟩,
    .mts ⟨true, true, 3⟩ ⟨0, 0x3ff, 0x84, 0⟩] : List Instr), i.wf = false := by decide +kernel

theorem test_ill_formed_memory : ∀ i ∈ ([
    .ldw ⟨true, true, 3⟩ ⟨3, 0x84, 0x2abcd, 2, 5, 1, 3, 1⟩,
    .ldw ⟨true, true, 3⟩ ⟨3, 0x84, 0x2abcd, 2, 6, 1, 3, 0⟩,
    .ldw ⟨true, true, 3⟩ ⟨3, 0x84, 0x2abcd, 2, 5, 2, 3, 0⟩,
    .stw ⟨true, true, 3⟩ ⟨3, 0x84, 0x2abcd, 2, 5, 1, 3, 0⟩,
    .pref ⟨true, true, 3⟩ ⟨1, 0x84, 0x2abcd, 0, 0, 0, 3, 0⟩,
    .cwb ⟨true, true, 3⟩ ⟨0, 0x84, 0x2abcd, 0, 5, 0, 1, 0⟩,
    .cinv ⟨true, true, 3⟩ ⟨0, 0x84, 0x2abcd, 0, 1, 0, 0, 0⟩,
    .tscl ⟨true, true, 3⟩ ⟨4, 0x84, 0x2abcd, 1, 0, 0, 0, 0⟩,
    .tscl ⟨true, true, 3⟩ ⟨2, 0x84, 0x2abcd, 0, 0, 0, 0, 0⟩,
    .qpop ⟨true, true, 3⟩ ⟨4, 1, 3, 0, 0, 0, 0, 0⟩,
    .qpeek ⟨true, true, 3⟩ ⟨4, 0, 4, 0, 0, 0, 0, 0⟩,
    .ldw ⟨true, true, 3⟩ ⟨3, 0x84, 0x2abcd, 3, 5, 1, 3, 0⟩,
    .pref ⟨true, true, 3⟩ ⟨0, 0x84, 0x2abcd, 1, 0, 0, 3, 0⟩,
    .aadd ⟨true, true, 3⟩ ⟨3, 0x84, 0x26, 0x1cd, 2, 5, 3, 0, 1⟩,
    .aadd ⟨true, true, 3⟩ ⟨3, 0x84, 0x26, 0x1cd, 2, 6, 3, 0, 0⟩,
    .aadd ⟨true, true, 3⟩ ⟨3, 0x84, 0x26, 0x1cd, 2, 5, 3, 1, 0⟩,
    .axchg ⟨true, true, 3⟩ ⟨3, 0x84, 0x26, 0x1cd, 2, 5, 3, 2, 0⟩,
    .aadd ⟨true, true, 3⟩ ⟨3, 0x84, 0x26, 0x1cd, 3, 5, 3, 0, 0⟩] : List Instr), i.wf = false := by decide +kernel

theorem test_ill_formed_matrix : ∀ i ∈ ([
    .tld ⟨true, true, 3⟩ ⟨9, 1, 0, 0, 0x84, 0x89, 2⟩,
    .tst ⟨true, true, 3⟩ ⟨9, 0, 0, 0, 0x84, 0x89, 3⟩,
    .tmma ⟨true, true, 3⟩ ⟨3, 0xa, 0xb, 5, 0x84, 0, 6⟩,
    .tmma ⟨true, true, 3⟩ ⟨3, 0xa, 0xb, 5, 0, 0, 3⟩,
    .trnd ⟨true, true, 3⟩ ⟨9, 3, 1, 5, 0, 0, 1⟩,
    .tzeroPlane ⟨true, true, 3⟩ ⟨3, 1, 0, 0, 0, 0, 0⟩,
    .twin ⟨true, true, 3⟩ ⟨3, 0xa, 1, 5, 0, 0, 6⟩,
    .twin ⟨true, true, 3⟩ ⟨3, 0xa, 0, 5, 0, 0, 3⟩,
    .tbfly ⟨true, true, 3⟩ ⟨9, 0xa, 0, 0, 0x84, 0x84, 0xd⟩,
    .tbrev ⟨true, true, 3⟩ ⟨9, 0xa, 0, 0, 0, 0, 2⟩,
    .ttwg ⟨true, true, 3⟩ ⟨1, 0, 0, 0, 0x84, 0x89, 0⟩,
    .ttrn ⟨true, true, 3⟩ ⟨9, 0xa, 0, 0, 0, 0, 1⟩,
    .tmovvTv ⟨true, true, 3⟩ ⟨9, 1, 0, 0, 0x89, 0x25, 0⟩,
    .tmerge ⟨true, true, 3⟩ ⟨9, 0xa, 0xb, 1, 0, 0, 0⟩,
    .tmma ⟨true, true, 3⟩ ⟨4, 0xa, 0xb, 5, 0, 0, 6⟩,
    .trnd ⟨true, true, 3⟩ ⟨9, 4, 0, 5, 0, 0, 1⟩,
    .tzeroPlane ⟨true, true, 3⟩ ⟨4, 0, 0, 0, 0, 0, 0⟩,
    .tmovvTv ⟨true, true, 3⟩ ⟨9, 0, 0, 0, 0x89, 0x84, 0⟩] : List Instr), i.wf = false := by decide +kernel

theorem test_ill_formed_copies : ∀ i ∈ ([
    .cpy ⟨true, true, 3⟩ ⟨4, 9, 0, 0, 0x84, 0x88, 0x35a0⟩,
    .cpy ⟨true, true, 3⟩ ⟨3, 9, 0, 0, 0x84, 0x88, 0x3520⟩,
    .cpy ⟨true, true, 3⟩ ⟨3, 9, 0, 0, 0x84, 0x88, 0x15a0⟩,
    .cpy ⟨true, true, 3⟩ ⟨3, 9, 0, 0, 0x84, 0x88, 0x36a0⟩,
    .cpy ⟨true, true, 3⟩ ⟨3, 9, 0, 0, 0x84, 0x88, 0x35a1⟩,
    .cpy ⟨true, true, 3⟩ ⟨3, 9, 0, 0, 0x84, 0x88, 0x35b0⟩,
    .cpym ⟨true, true, 3⟩ ⟨3, 9, 0, 0, 0x84, 0x88, 0x35e0⟩,
    .gath ⟨true, true, 3⟩ ⟨3, 9, 4, 0, 0x84, 0x88, 0x35c0⟩,
    .redc ⟨true, true, 3⟩ ⟨3, 9, 2, 0, 0x84, 0x88, 0x3580⟩,
    .cnvt ⟨true, true, 3⟩ ⟨3, 9, 2, 0, 0x84, 0x88, 0x35d0⟩,
    .bsnd ⟨true, true, 3⟩ ⟨3, 0, 0, 0, 0x84, 0x88, 0x35a0⟩,
    .swait ⟨true, true, 3⟩ ⟨3, 0, 0, 0, 0, 0, 0x80⟩,
    .srel ⟨true, true, 3⟩ ⟨3, 0, 0, 0, 0x84, 0, 0x55⟩] : List Instr), i.wf = false := by decide +kernel

theorem test_ill_formed_tasks : ∀ i ∈ ([
    .spawn ⟨true, true, 3⟩ ⟨0, 0, 0, 0, 0x84, 0x84, 0⟩,
    .enq ⟨true, true, 3⟩ ⟨1, 0, 0, 0, 0x84, 0x89, 0⟩,
    .deq ⟨true, true, 3⟩ ⟨0, 0, 5, 0, 0x84, 0x8a, 0⟩,
    .deqNb ⟨true, true, 3⟩ ⟨0, 0, 5, 0, 0x84, 0x8a, 3⟩,
    .barv ⟨true, true, 3⟩ ⟨9, 0, 0, 0, 0x84, 0, 6⟩,
    .barw ⟨true, true, 3⟩ ⟨9, 0, 0, 0, 0x84, 0, 0x15⟩,
    .bart ⟨true, true, 3⟩ ⟨9, 1, 5, 0, 0x84, 0, 5⟩,
    .barx ⟨true, true, 3⟩ ⟨9, 0, 0, 0, 0x84, 0x89, 1⟩,
    .cbar ⟨true, true, 3⟩ ⟨0, 0, 0, 0, 0x84, 0, 0x3fed⟩,
    .tlwait ⟨true, true, 3⟩ ⟨0, 0, 0, 0, 0x84, 0x86, 6⟩,
    .tlsig ⟨true, true, 3⟩ ⟨0, 0, 0, 0, 0x84, 0x86, 0x2d⟩,
    .tlrd ⟨true, true, 3⟩ ⟨0, 0, 0, 0, 0x84, 0x86, 1⟩,
    .rast ⟨true, true, 3⟩ ⟨0, 0, 0, 0, 0x84, 0x84, 0⟩,
    .rayq ⟨true, true, 3⟩ ⟨0, 0, 4, 0, 0x84, 0x89, 0⟩,
    .rtile ⟨true, true, 3⟩ ⟨1, 0, 3, 0, 0x84, 0, 0⟩] : List Instr), i.wf = false := by decide +kernel

theorem test_ill_formed_operands : ∀ i ∈ ([
    .sadd ⟨true, true, 3⟩ ⟨3, 0x84, 0x1f5, 0, 2, 7, 0, 0⟩,
    .vadd ⟨true, true, 3⟩ ⟨0x83, 0x84, 0x75, 0, 1, 6, 0, 1⟩,
    .sadd64 ⟨true, true, 3⟩ ⟨0x83, 0x86, 0x88, 0, 7, 0, 0, 2⟩,
    .ldq ⟨true, true, 3⟩ ⟨6, 0x84, 0x2abcd, 0, 5, 1, 1, 0⟩,
    .vadd64 ⟨true, true, 3⟩ ⟨4, 0x85, 0x76, 0, 7, 0, 0, 2⟩,
    .aadd ⟨true, true, 3⟩ ⟨0x81, 0x84, 0x26, 0x1cd, 2, 5, 3, 0, 0⟩,
    .acas64X128 ⟨true, true, 3⟩ ⟨4, 0x84, 0x24, 0x1cd, 0, 5, 3, 1, 0⟩,
    .cpy ⟨true, true, 3⟩ ⟨3, 9, 0, 0, 0x82, 0x88, 0x35a0⟩,
    .sldd ⟨true, true, 3⟩ ⟨0x85, 0x84, 0x2abcd, 1, 5, 1, 3, 0⟩,
    .stq ⟨true, true, 3⟩ ⟨0x7e, 0x84, 0x2abcd, 1, 5, 2, 2, 0⟩] : List Instr), i.wf = false := by decide +kernel

theorem test_ill_formed_forms : ∀ i ∈ ([
    .sli ⟨true, true, 3⟩ ⟨0x86, 1, 0x89abcdef⟩,
    .sliHi ⟨true, true, 3⟩ ⟨0x86, 2, 0x89abcdef⟩,
    .sliSx ⟨true, true, 3⟩ ⟨0x86, 0, 0x89abcdef⟩,
    .vli ⟨true, true, 3⟩ ⟨4, 2, 0x89abcdef⟩,
    .vliHi ⟨true, true, 3⟩ ⟨4, 0, 0x89abcdef⟩,
    .vliSx ⟨true, true, 3⟩ ⟨4, 1, 0x89abcdef⟩,
    .mts ⟨true, true, 3⟩ ⟨0, 0x34, 0x84, 0⟩,
    .mtsTsh ⟨true, true, 3⟩ ⟨0, 0x38, 0x84, 0⟩,
    .mtsPlane ⟨true, true, 3⟩ ⟨0, 0x34, 0x84, 0⟩,
    .mtsSplit ⟨true, true, 3⟩ ⟨0, 0x33, 0x84, 0⟩,
    .mtsRot ⟨true, true, 3⟩ ⟨0, 0x50, 0x84, 0⟩,
    .ringReset ⟨true, true, 3⟩ ⟨0, 0x38, 0x84, 0⟩,
    .mtsDrpth ⟨true, true, 3⟩ ⟨0, 0x132, 0x84, 0⟩,
    .shelfctlWrite ⟨true, true, 3⟩ ⟨0, 0x110, 0x84, 0⟩,
    .fenceRel ⟨true, true, 3⟩ ⟨0, 0, 0, 2⟩,
    .fenceAcq ⟨true, true, 3⟩ ⟨0, 0, 0, 1⟩,
    .fenceFull ⟨true, true, 3⟩ ⟨0, 0, 0, 2⟩,
    .rfxResume ⟨true, true, 3⟩ ⟨0, 0, 0x84, 1⟩,
    .rfxSkip ⟨true, true, 3⟩ ⟨0, 0, 0x84, 0⟩,
    .rfxKillb ⟨true, true, 3⟩ ⟨0, 0, 0x84, 3⟩,
    .rfxKilll ⟨true, true, 3⟩ ⟨0, 0, 0x84, 2⟩,
    .xinv ⟨true, true, 3⟩ ⟨0, 0, 0, 1⟩,
    .xinvAll ⟨true, true, 3⟩ ⟨0, 0, 0, 0⟩,
    .axchg ⟨true, true, 3⟩ ⟨4, 0x84, 0x26, 0x1cd, 2, 5, 3, 1, 0⟩,
    .axchgX64 ⟨true, true, 3⟩ ⟨4, 0x84, 0x26, 0x1cd, 0, 5, 3, 0, 0⟩,
    .acas64 ⟨true, true, 3⟩ ⟨4, 0x84, 0x28, 0x1cd, 0, 5, 3, 1, 0⟩,
    .acas64X128 ⟨true, true, 3⟩ ⟨4, 0x84, 0x28, 0x1cd, 0, 5, 3, 0, 0⟩,
    .tzeroPlane ⟨true, true, 3⟩ ⟨3, 0, 0, 0, 0, 0, 1⟩,
    .tzeroTile ⟨true, true, 3⟩ ⟨3, 0, 0, 0, 0, 0, 0⟩,
    .tmovvTv ⟨true, true, 3⟩ ⟨9, 0, 0, 0, 0x89, 0x25, 1⟩,
    .tmovvVt ⟨true, true, 3⟩ ⟨9, 0, 0, 0, 0x89, 0x25, 0⟩,
    .tmovvTvRx ⟨true, true, 3⟩ ⟨9, 0, 0, 0, 0x89, 0x25, 3⟩,
    .tmovvVtRx ⟨true, true, 3⟩ ⟨9, 0, 0, 0, 0x89, 0x25, 2⟩,
    .deq ⟨true, true, 3⟩ ⟨0, 0, 0, 0, 0x84, 0x8a, 1⟩,
    .deqNb ⟨true, true, 3⟩ ⟨0, 0, 0, 0, 0x84, 0x8a, 0⟩] : List Instr), i.wf = false := by decide +kernel

/-! ## Ill-formed events: one for each operand check -/

theorem test_ill_formed_events :
    (Instr.tableUpdate ⟨256, 0, 0, 0, 0, false, false⟩).wf = false ∧ (Instr.tableUpdate ⟨0, 0, 5, 0, 0, false, false⟩).wf = false ∧
    (Instr.gatingStart 3).wf = false ∧ (Instr.gatingComplete 3).wf = false ∧ (Instr.wakeComplete 3).wf = false ∧
    (Instr.poolRefill 3 0 []).wf = false ∧ (Instr.poolRefill 0 6 []).wf = false ∧
    (Instr.streamRingPlace ⟨0, 0, 0, 0, 0, 2⟩).wf = false ∧ (Instr.streamRingPlace ⟨0, 0, 0, 0, 1, 65⟩).wf = false ∧
    (Instr.namedQueueAssign ⟨192, 0, 4⟩).wf = false ∧ (Instr.namedQueueAssign ⟨0, 0, 13⟩).wf = false ∧
    (Instr.sramUncorrectable ⟨0, 0, 5, 0⟩).wf = false ∧ (Instr.peerLinkUp 3).wf = true ∧
    (Instr.shelfctlLoad ⟨true, false, 0⟩ ⟨0, 0x132, 0x84, 0⟩).wf = false := by decide +kernel

/-! ## Steps

The word stands at 0x1000 for wave 0 of block 1, which has thread 0 alone; expected values are worked out by hand from the rules. -/

/-- Wave 0 after the step that runs a word, with its registers set first. -/
def after (w : Nat) (f : Wave → Wave) : Option Wave :=
  match step ((State.reset.withFetchWord 64 w).modWave 1 0 f) with
  | .next t => t.wave? 1 0
  | _ => none

/-- R195: s3 + (-1) wraps below zero. -/
theorem test_step_saddi : (after 0x8200211060FFFFFF fun y => y).map (fun y => y.rdS 4) = some 0xFFFFFFFF := by decide +kernel

/-- R187: 5 - 7 in two's complement; S1 is the minuend. -/
theorem test_step_ssub : (after 0x8020211068500000 fun y => { y with s := [(3, 5), (5, 7)] }).map (fun y => y.rdS 4) = some 0xFFFFFFFE := by decide +kernel

/-- R187: the high half of (-1) x (-1) is 0. -/
theorem test_step_smulh : (after 0x8040211068300000 fun y => { y with s := [(3, 0xFFFFFFFF), (4, 9)] }).map (fun y => y.rdS 4) = some 0 := by decide +kernel

/-- R188: the overflow answers the dividend. -/
theorem test_step_sdiv_overflow : (after 0x8060211068500000 fun y => { y with s := [(3, 0x80000000), (5, 0xFFFFFFFF)] }).map (fun y => y.rdS 4) = some 0x80000000 := by decide +kernel

/-- R187: the distance is taken modulo 32. -/
theorem test_step_ssra : (after 0x8100211068500000 fun y => { y with s := [(3, 0x80000000), (5, 33)] }).map (fun y => y.rdS 4) = some 0xC0000000 := by decide +kernel

/-- R132: a write of s0 is discarded. -/
theorem test_step_s0 : (after 0x8010201068300000 fun y => { y with s := [(3, 5)] }).map (fun y => y.s) = some [(3, 5)] := by decide +kernel

/-- R196: the worked example, SLI.hi s20.d, 0x12345678, keeps the even register. -/
theorem test_step_sli_hi : (after 0x8280250112345678 fun y => { y with s := [(20, 0x9ABCDEF0)] }).map (fun y => pair (y.rdS 20) (y.rdS 21)) = some 0x123456789ABCDEF0 := by decide +kernel

/-- R190: less-than is signed. -/
theorem test_step_scmp : (after 0x8150015068410000 fun y => { y with s := [(3, 0xFFFFFFFF), (4, 1)] }).map (fun y => y.rdC 5) = some true := by decide +kernel

/-- R124: under a false condition a syllable writes nothing, and the threads move on. -/
theorem test_step_false_condition : (after 0x8201211060000007 fun y => y).map (fun y => (y.rdS 4, y.pcOf 0)) = some (0, 0x1008) := by decide +kernel

/-- R184, R187: 16-bit elements wrap apart. -/
theorem test_step_vadd_halves : (after 0x9000009068400001 fun y => { y with s := [(3, 0xFFFF0001), (4, 0x00020003)] }).map (fun y => y.rdV 2 0) = some 0x00010004 := by decide +kernel

/-- R187: a saturating subtract stops at the most negative byte. -/
theorem test_step_vsubs : (after 0x9040009068400002 fun y => { y with s := [(3, 0x80), (4, 0x01)] }).map (fun y => y.rdV 2 0) = some 0x80 := by decide +kernel

/-- R205: 1.0 + 2^-24 rounds to even. -/
theorem test_step_fadd : (after 0x9400009068400000 fun y => { y with s := [(3, 0x3F800000), (4, 0x33800000)] }).map (fun y => y.rdV 2 0) = some 0x3F800000 := by decide +kernel

/-- R203, R28: the same sum rounded up. -/
theorem test_step_fadd_up : (after 0x9400009068401800 fun y => { y with s := [(3, 0x3F800000), (4, 0x33800000)] }).map (fun y => y.rdV 2 0) = some 0x3F800001 := by decide +kernel

/-- R206: one rounding: 1.5 x 2 + 0.25. -/
theorem test_step_ffma : (after 0x9430009068442800 fun y => { y with s := [(3, 0x3FC00000), (4, 0x40000000), (5, 0x3E800000)] }).map (fun y => y.rdV 2 0) = some 0x40500000 := by decide +kernel

/-- R223: the ballot of the one thread. -/
theorem test_step_xballot : (after 0x9760010000000000 fun y => y).map (fun y => (y.rdV 4 0, y.rdV 5 0)) = some (1, 0) := by decide +kernel

/-- R173: the target counts in syllables from the bundle, and the link names the next bundle. -/
theorem test_step_brl : (after 0x84107FFFFFF82100 fun y => y).map (fun y => (pair (y.rdS 4) (y.rdS 5), y.pcOf 0)) = some (0x1008, 0xF80) := by decide +kernel

/-- R173: the pair holds the target. -/
theorem test_step_bri : (after 0x8420000000002100 fun y => { y with s := [(4, 0x2000)] }).map (fun y => y.pcOf 0) = some 0x2000 := by decide +kernel

/-- R176: the last pass leaves LOOPC 0 and falls through. -/
theorem test_step_loopb : (after 0x8450000000100000 fun y => { y with loopc := 1 }).map (fun y => (y.loopc, y.pcOf 0)) = some (0, 0x1008) := by decide +kernel

/-- R177: the thread ends. -/
theorem test_step_exit : (after 0x8460000000000000 fun y => y).map (fun y => y.living) = some 0 := by decide +kernel

/-- R141, R142: COREID of die 1, cluster 0, core 0. -/
theorem test_step_mfs_coreid : (after 0x8600210080000000 fun y => y).map (fun y => y.rdS 4) = some 0x100 := by decide +kernel

/-- R175: MTS writes LOOPC. -/
theorem test_step_mts_loopc : (after 0x8610000504200000 fun y => { y with s := [(4, 7)] }).map (fun y => y.loopc) = some 7 := by decide +kernel

/-- R253: a load owes its word until it returns. -/
theorem test_step_ldw : (after 0xA040009080000200 fun y => { y with s := [(4, 0x40)] }).map (fun y => (y.outs.map OutLoad.writes, y.count .ld)) = some ([[.v 2 0 0]], 1) := by decide +kernel

/-- R254: a store enters the queue with its four bytes. -/
theorem test_step_stw : (after 0xA090009080002200 fun y => { y with s := [(4, 0x40)], v := [(256, 0x04030201)] }).map (fun y => y.storeq.map StoreEntry.kind) = some [.bytes 1 1 (windowPa 256 0x44) [1, 2, 3, 4]] := by decide +kernel

/-- R178: TRAP commits, its thread moves on, and the wave stops with cause 7, the mark of U, its address and its code. -/
theorem test_step_trap : (after 0x8470000000001234 fun y => y).map (fun y => (y.cause, y.fmask, y.faddr, y.fdet, y.pcOf 0)) = some (7, 1, 0x1000, 0x1234, 0x1008) := by decide +kernel

/-- R226: a word at an odd address stops the wave with cause 9 and the address. -/
theorem test_step_ldw_misaligned : (after 0xA040009080000200 fun y => { y with s := [(4, 0x41)] }).map (fun y => (y.cause, y.faddr)) = some (9, 0x41) := by decide +kernel

/-- R122, R136: an unlisted opcode stops the wave with cause 1. -/
theorem test_step_illegal_opcode : (after 0x8080000000000000 fun y => y).map (fun y => (y.cause, y.pcOf 0)) = some (1, 0x1000) := by decide +kernel

/-- R140: a command of class X reads its wave converged and commits. -/
theorem test_step_barv : (after 0xB400000042000000 fun y => { y with s := [(4, 16)] }).map (fun y => (y.cause, y.pcOf 0)) = some (0, 0x1008) := by decide +kernel

/-- R163, R266: a copy counts in CP. -/
theorem test_step_cpy : (after 0xB200000042220000 fun y => y).map (fun y => (y.count .cp, y.pcOf 0)) = some (1, 0x1008) := by decide +kernel

/-- R86: the output's edge and the input's, one step each; R72: a bad access is answered with Completer Abort. -/
theorem test_events :
    (match exec .ppsInEdge { State.reset with time := { TimePort.reset with now := 5 } } with
      | .next t => decide (t.time.ppsin = true ∧ t.time.lastEdge = 5)
      | _ => false) = true ∧
    (match exec (.bar0BadAccess ⟨0x42, 4, 0⟩) State.reset with
      | .next t => decide (t.host.readData = none)
      | _ => false) = true ∧
    (match exec (.staleLineExpire 256 32) { State.reset with cores := [(256, { CoreSt.reset 256 with dcache := [⟨0x1000, [], 0, 1, 0⟩, ⟨0x2000, [], 0, 1, 0⟩] })] } with
      | .next t => decide ((t.core 256).dcache.map DLine.pa = [0x2000])
      | _ => false) = true ∧
    (match exec (.atomicPerform 256 0) { (State.reset.writeNum 1 0x1000 4 5) with
        cores := [(256, { CoreSt.reset 256 with fabric := [⟨1, 0, 1, 0, ⟨0, 1, 0x1000, 4, false, .atomic 0 0 0x1000 4 .add 7 0 0 none, 0, none, []⟩⟩] })] } with
      | .next t => decide (t.num 0x1000 4 = 12)
      | _ => false) = true := by decide +kernel

/-! ## Witnesses: for each obligation with hypotheses, states and operands that meet them, clause by clause -/

/-! ## A bundle in hand -/

/-- The header of a last syllable under c0 or p0. -/
def wHdr : Hdr := ⟨true, false, 0⟩
/-- The header of a last syllable whose condition c0 or p0 is negated. -/
def wOff : Hdr := ⟨true, true, 0⟩
/-- A wave with threads 0 and 1. -/
def wWave : Wave := { Wave.empty with living := 3, pc := [(0, 0x1000), (1, 0x1000)] }
/-- The wave with scalar registers. -/
def wRegs (s : Table Word) : Wave := { wWave with s := s }
/-- A block on the first network tile, owner of its matrix engine. -/
def wBlock : Block := { Block.placed with priv := false, launch := 1 }
/-- A bundle at 0x1000 of wave 0 of block 1 in hand for lanes m, with what it has staged. -/
def wIu (m : Lanes) (effs : List Eff) (raised : List Raise) (held : Bool) : Issue :=
  ⟨1, 0, m, 0x1000, 1, 1, 0, effs, raised, held, false, none, [], false, none⟩
/-- State s with wave 0 of block 1 as given, and its bundle in hand for lanes m. -/
def wHand (s : State) (x : Block) (y : Wave) (m : Lanes) : State :=
  { s with blocks := [(1, { x with waves := [(0, y)] })], cur := some (wIu m [] [] false) }
/-- The environment of that bundle. -/
def wEnv (s : State) (x : Block) (y : Wave) (m : Lanes) : Env :=
  ⟨wHand s x y m, wIu m [] [] false, { x with waves := [(0, y)], ctx := 1 }, y⟩

theorem wHand_env (s : State) (x : Block) (y : Wave) (m : Lanes) : (wHand s x y m).env = some (wEnv s x y m) := rfl

/-- A bundle is in hand in some state, with an environment of which p holds. -/
def Seen (p : Env → Prop) : Prop := ∃ t e, State.env t = some e ∧ e.s = t ∧ p e

theorem seen (s : State) (x : Block) (y : Wave) (m : Lanes) {p : Env → Prop} (h : p (wEnv s x y m)) : Seen p :=
  ⟨wHand s x y m, wEnv s x y m, rfl, rfl, h⟩

/-- An answer is no error. -/
def okOf {ε α : Type} : Except ε α → Bool
  | .ok _ => true
  | .error _ => false

theorem ok_of {ε α : Type} {r : Except ε α} (h : okOf r = true) : ∃ a, r = .ok a := by
  cases r with
  | ok a => exact ⟨a, rfl⟩
  | error e => cases h

/-- An answer is no error, and p holds of it. -/
def okAnd {ε α : Type} (p : α → Bool) : Except ε α → Bool
  | .ok a => p a
  | .error _ => false

theorem okAnd_of {ε α : Type} {p : α → Bool} {r : Except ε α} (h : okAnd p r = true) : ∃ a, r = .ok a ∧ p a = true := by
  cases r with
  | ok a => exact ⟨a, rfl, h⟩
  | error e => cases h

/-- For ScalarArithmeticResults, ScalarCompareAndSelectResults, ScalarBitResults, ImmediateAndPairResults, VectorElementResults,
VectorCompareAndSelectResults, VectorBitAndPackResults, FloatArithmeticResults, FloatConversionResults, SpecialFunctionResults and
LaneExchangeResults: a bundle in hand whose condition holds and whose issue set is not empty, and one whose condition does not hold. -/
theorem witness_bundle_in_hand :
    Seen (fun e => e.holds wHdr = true ∧ e.issueSet wHdr = 3) ∧
    Seen (fun e => e.holds wOff = false ∧ e.issueSet wOff = 0) :=
  ⟨seen State.reset wBlock wWave 3 (by decide +kernel), seen State.reset wBlock wWave 3 (by decide +kernel)⟩

/-- A zero divisor of either sign of the dividend, the overflow, and the quotient toward zero. -/
theorem witness_ScalarDivisionResults :
    Seen (fun e => opB e ⟨0x83, 0x81, 0x82, 0, 0, 0, 0, 0⟩ = 0 ∧ (opA e ⟨0x83, 0x81, 0x82, 0, 0, 0, 0, 0⟩).slt 0 = true) ∧
    Seen (fun e => opB e ⟨0x83, 0x81, 0x82, 0, 0, 0, 0, 0⟩ = 0 ∧ (opA e ⟨0x83, 0x81, 0x82, 0, 0, 0, 0, 0⟩).slt 0 = false) ∧
    Seen (fun e => opA e ⟨0x83, 0x81, 0x82, 0, 0, 0, 0, 0⟩ = BitVec.intMin 32 ∧
      opB e ⟨0x83, 0x81, 0x82, 0, 0, 0, 0, 0⟩ = BitVec.allOnes 32) ∧
    Seen (fun e => Int.tdiv (opA e ⟨0x83, 0x81, 0x82, 0, 0, 0, 0, 0⟩).toInt (opB e ⟨0x83, 0x81, 0x82, 0, 0, 0, 0, 0⟩).toInt = -3) :=
  ⟨seen State.reset wBlock (wRegs [(1, 0x80000000)]) 3 (by decide +kernel), seen State.reset wBlock (wRegs [(1, 7)]) 3 (by decide +kernel),
   seen State.reset wBlock (wRegs [(1, 0x80000000), (2, 0xFFFFFFFF)]) 3 (by decide +kernel),
   seen State.reset wBlock (wRegs [(1, 0xFFFFFFF9), (2, 2)]) 3 (by decide +kernel)⟩

/-- Every format, at the pattern of 1 and at the last pattern of a signed code. -/
theorem witness_RepresentableValuesRoundToThemselves : ∀ code, code < 8 → 1 < 2 ^ (convFmt code).bits ∧ (convFmt code).value 1 ≠ .nan := by
  decide +kernel

/-- Each branch at the bounds of what a PC can hold, and each failure. -/
theorem witness_BranchResults :
    Seen (fun e => e.holds wHdr = true ∧ e.iu.lanes ≠ 0 ∧ e.branchLanes ⟨0, 0, 0, 1⟩ = 0 ∧ e.branchLanes ⟨0, 0, 0, 0⟩ ≠ 0 ∧
      (0 ≤ branchTarget e.iu.here 0xFFFFFE00 ∧ branchTarget e.iu.here 0xFFFFFE00 < 2 ^ 52) ∧ branchTarget e.iu.here 0xFFFFFE00 = 0 ∧
      branchTarget e.iu.here 0xFFFFFDFF < 0 ∧ (e.src64 0x82 0).toNat < 2 ^ 52 ∧ (e.src64 0x82 0).toNat % 8 = 0 ∧
      2 ^ 52 ≤ (e.src64 0x84 0).toNat ∧ (e.src64 0x86 0).toNat < 2 ^ 52 ∧ (e.src64 0x86 0).toNat % 8 ≠ 0) ∧
    Seen (fun e => e.y.loopc = 0) ∧ Seen (fun e => e.y.loopc = 1) ∧
    Seen (fun e => 2 ≤ e.y.loopc.toNat) :=
  ⟨seen State.reset wBlock (wRegs [(2, 0xFFFFFFF8), (3, 0xFFFFF), (5, 0x100000), (6, 4)]) 3 (by decide +kernel),
   seen State.reset wBlock wWave 3 (by decide +kernel), seen State.reset wBlock { wWave with loopc := 1 } 3 (by decide +kernel),
   seen State.reset wBlock { wWave with loopc := 2 } 3 (by decide +kernel)⟩

/-- Without a standing request, with one at another point, and with one at the point; WAIT within its limits; BRK with and without the
debug flag. -/
theorem witness_TrapWaitAndSwitchPointResults :
    Seen (fun e => e.x.switch = none ∧ e.y.count .ld ≤ 0 ∧ e.y.count .st ≤ 0 ∧ e.y.count .cp ≤ 0 ∧ e.y.count .tl ≤ 0 ∧
      (e.s.ctx e.x.ctx).debug = false) ∧
    Seen (fun e => (e.s.ctx e.x.ctx).debug = true) ∧
    Seen (fun e => e.holds wHdr = true ∧ ∃ q n t, e.x.switch = some q ∧ q.fixed = some (n, t) ∧ n ≠ 5 ∧ n = 7) :=
  ⟨seen State.reset wBlock wWave 3 (by decide +kernel),
   seen { State.reset with ctxs := [(1, { Ctx.absent with debug := true })] } wBlock wWave 3 (by decide +kernel),
   seen State.reset { wBlock with switch := some ⟨Variant.widest, 0, some (7, 0), []⟩ } wWave 3
     ⟨by decide +kernel, _, _, _, rfl, rfl, by decide +kernel, by decide +kernel⟩⟩

/-- A ring that the runtime has placed in the core's network tile. -/
def wRing : Ring := { Ring.reset with ctx := 1, valid := true, slotsz := 1, slots := 2, tail := 1, accepted := 1 }
/-- The machine with core 256 as given. -/
def wCore (c : CoreSt) : State := { State.reset with cores := [(256, c)] }

/-- Each special register at a value that it takes, and at the bounds of its range. -/
theorem witness_SpecialRegisterResults :
    Seen (fun e => (srIsMatrix 0x20 = true → e.x.owner = true) ∧ e.srBusy false 0x20 = false ∧ e.srBusy true 0x20 = false ∧
      tshOk (0x007F0000 &&& 0xFFFFF01F) = true ∧
      loWord (e.mtsValue ⟨0, 0x51, 0x80, 0⟩) = 0 ∧ loWord (e.mtsValue ⟨0, 0x30, 0x81, 0⟩) = 0x3007F ∧
      -160 ≤ planeFloor (0x3007F &&& 0x707FF) ∧ planeFloor (0x3007F &&& 0x707FF) = 127 ∧ (0x3007F &&& 0x707FF : Word).toNat / 65536 < 4 ∧
      -160 = planeFloor (0x160 &&& 0x707FF) ∧
      (loWord (e.mtsValue ⟨0, 0x34, 0x82, 0⟩)).toNat % 4 = 2 ∧ (loWord (e.mtsValue ⟨0, 0x34, 0x82, 0⟩)).toNat / 4 % 4 = 2 ∧
      (loWord (e.mtsValue ⟨0, 0x110, 0x83, 0⟩)).toNat % 128 = 10 ∧
      (loWord (e.mtsValue ⟨0, 0x132, 0x84, 0⟩)).toNat / 65536 % 256 = 60 ∧ (loWord (e.mtsValue ⟨0, 0x132, 0x84, 0⟩)).toNat % 256 = 1 ∧
      (loWord (e.mtsValue ⟨0, 0x120, 0x85, 0⟩)).toNat % 65536 = 2400 ∧ (loWord (e.mtsValue ⟨0, 0x40, 0x82, 0⟩)).getLsbD 1 = true ∧
      (loWord (e.mtsValue ⟨0, 0x40, 0x80, 0⟩)).getLsbD 1 = false) ∧
    Seen (fun e => ascends true e.s.power.curveF = true ∧ ascends false e.s.power.curveV = true) ∧
    Seen (fun e => ∃ r, e.ownRing 0 = some r ∧ r.head = r.tail ∧ r.accepted = r.tail) :=
  ⟨seen State.reset wBlock (wRegs [(1, 0x3007F), (2, 10), (3, 10), (4, 0x3C0001), (5, 2400)]) 3 (by decide +kernel),
   seen { State.reset with power := { Power.reset with
     curveF := [(1, 0x10000), (2, 0x20000), (3, 0x30000), (4, 0x40000), (5, 0x50000), (6, 0x60000), (7, 0x70000)]
     curveV := [(1, 0x10000), (2, 0x20000), (3, 0x30000), (4, 0x40000), (5, 0x50000), (6, 0x60000), (7, 0x70000)] } } wBlock wWave 3
     (by decide +kernel),
   seen (wCore { CoreSt.reset 256 with rings := [(0, { wRing with head := 1 })] }) wBlock wWave 3 ⟨_, rfl, by decide +kernel, by decide +kernel⟩⟩

/-- A context number and an image address that the request queue can take. -/
theorem witness_FenceAndSystemResults : Seen fun e =>
    (e.src 0x82 0).toNat = 255 ∧ (e.src64 0x84 0).toNat = 0x1000000040 ∧ (e.src64 0x84 0).toNat % 64 = 0 ∧ e.s.disp.requests.length < 64 :=
  seen State.reset { wBlock with priv := true } (wRegs [(2, 255), (4, 0x40), (5, 0x10)]) 3 (by decide +kernel)

/-- Every lane of an access reaches its place, if the lanes and places that the model computes say so. -/
theorem reaches_of {e : Env} {sp : BitVec 2} {n : Nat} {k : XKind} {more : Place → Option XFault}
    {addr : Nat → Int × Nat} {uniform : Bool} {lanes : List Nat}
    (h : let r := e.bound.placesOf e.x sp.toNat n k more addr uniform lanes
      r.2.2 = none ∧ (∀ l ∈ lanes, e.rawInSpan sp.toNat n (addr l) = false) ∧
        ∀ p ∈ r.2.1, e.s.inSpan e.x.core e.x.ctx n p = false ∧ (k = .load → e.atomicAhead n p = false)) :
    ∃ t ps, Reaches e sp n k more addr uniform lanes t ps :=
  ⟨_, _, Prod.ext rfl (Prod.ext rfl h.1), h.2.1, h.2.2⟩

/-- Loads and stores of every width, in the global space, in the block's own scratchpad up to its last byte, and by one lane for all. -/
theorem witness_LoadAndStoreResults :
    (∀ n ∈ [1, 2, 4, 8, 16], Seen (fun e => e.issueSet wHdr ≠ 0 ∧
      (∃ t ps, Reaches e 1 n .load (fun _ => none) (e.formAddr 1 0x82 (offOf ⟨4, 0x82, 0, 1, 0, 0, 0, 0⟩)) false (lanesOf (e.issueSet wHdr)) t ps) ∧
      (∃ t ps, Reaches e 1 n .store (fun _ => none) (e.formAddr 1 0x82 (offOf ⟨4, 0x82, 0, 1, 0, 0, 0, 0⟩)) false (lanesOf (e.issueSet wHdr)) t ps))) ∧
    Seen (fun e => ∃ t ps, Reaches e 1 8 .load (fun _ => none) (e.formAddr 1 0x82 (offOf ⟨0x84, 0x82, 0, 1, 0, 0, 0, 0⟩)) true [0] t ps) ∧
    Seen (fun e => ∃ t ps, Reaches e 0 16 .load (fun _ => none) (e.formAddr 0 0x82 (offOf ⟨4, 0x82, 0, 0, 0, 0, 0, 0⟩)) false (lanesOf (e.issueSet wHdr)) t ps) := by
  refine ⟨fun n hn => ?_, ?_, ?_⟩
  · have := hn
    simp only [List.mem_cons, List.not_mem_nil, or_false] at this
    rcases this with rfl | rfl | rfl | rfl | rfl <;>
    · refine seen State.reset wBlock (wRegs [(2, 0xFFF0)]) 3 ⟨by decide +kernel, reaches_of ?_, reaches_of ?_⟩ <;> decide +kernel
  · exact seen State.reset wBlock (wRegs [(2, 0xFFF8)]) 3 (reaches_of (by decide +kernel))
  · exact seen (wCore { CoreSt.reset 256 with tlb := [⟨1, 0x1000, 0x1000, 0x10E2⟩] }) wBlock (wRegs [(2, 0x1000)]) 3 (reaches_of (by decide +kernel))

/-- The machine whose core has the page at 0x1000 in its TLB. -/
def wPaged : State := wCore { CoreSt.reset 256 with tlb := [⟨1, 0x1000, 0x1000, 0x10E2⟩] }
/-- Threads 0 and 1 have one entry each in their reply queue q0. -/
def wReplied : Wave := { wWave with replies := [(0, [3]), (1, [4])] }

/-- A prefetch, a line to write back or to drop, reply queues with entries, and 128 bytes for a latch at the end of the range. -/
theorem witness_CacheAndReplyQueueResults :
    Seen (fun e => e.issueSet wHdr ≠ 0 ∧ ∃ t ps, e.linePlaces ⟨0, 0x82, 0, 0, 0, 0, 0, 0⟩ .store (e.issueSet wHdr) = (t, ps, none)) ∧
    Seen (fun e => ∃ t ps f, e.linePlaces ⟨0, 0x82, 0, 0, 0, 0, 0, 0⟩ .pref (e.issueSet wHdr) = (t, ps, some f)) ∧
    Seen (fun e => ∃ r : Nat → BitVec 128, ∀ l ∈ lanesOf (e.issueSet wHdr), (Table.get [] e.y.replies (128 * 0 + l)).head? = some (r l)) ∧
    Seen (fun e => e.x.owner = true ∧ ∃ x, (e.s.address e.x 1 ((e.src 0x82 0).toNat + offOf ⟨3, 0x82, 0, 1, 0, 0, 0, 0⟩) 0 128 128 .load).2 = .ok x ∧
      e.rawInSpan 1 128 ((e.src 0x82 0).toNat + offOf ⟨3, 0x82, 0, 1, 0, 0, 0, 0⟩, 0) = false ∧
      e.atomicAhead 128 ⟨none, 1, (e.src 0x82 0).toNat + offOf ⟨3, 0x82, 0, 1, 0, 0, 0, 0⟩, x⟩ = false) :=
  ⟨seen wPaged wBlock (wRegs [(2, 0x1000)]) 3 ⟨by decide +kernel, _, _, Prod.ext rfl (Prod.ext rfl (by decide +kernel))⟩,
   seen wPaged wBlock (wRegs [(3, 0x100000)]) 3 ⟨_, _, _, Prod.ext rfl (Prod.ext rfl (Option.some_get (by decide +kernel)).symm)⟩,
   seen State.reset wBlock wReplied 3 ⟨fun l => if l = 0 then 3 else 4, by decide +kernel⟩,
   seen State.reset wBlock (wRegs [(2, 0xFF80)]) 3 ⟨by decide +kernel, _, rfl, by decide +kernel, by decide +kernel⟩⟩

/-- Atomics of every width in the global space and in the block's own scratchpad. -/
theorem witness_AtomicResults :
    (∀ q ∈ [(0x20, AOp.add, 4), (0x25, AOp.max, 4), (0x2A, AOp.fadd, 4), (0x28, AOp.xchg, 8), (0x2C, AOp.cas, 8), (0x2C, AOp.cas, 16)],
      Seen (fun e => e.issueSet wHdr ≠ 0 ∧ ∃ t ps, Reaches e 1 q.2.2 .atomic (atomicCheck q.1 q.2.1)
        (e.formAddr 1 0x82 (sext 9 (0x1F0 : BitVec 9).toNat)) false (lanesOf (e.issueSet wHdr)) t ps)) ∧
    Seen (fun e => ∃ t ps, Reaches e 0 16 .atomic (atomicCheck 0x2C .cas) (e.formAddr 0 0x84 (sext 9 (0 : BitVec 9).toNat)) false
      (lanesOf (e.issueSet wHdr)) t ps) := by
  refine ⟨fun q hq => ?_, seen wPaged wBlock (wRegs [(4, 0x1000)]) 3 (reaches_of (by decide +kernel))⟩
  simp only [List.mem_cons, List.not_mem_nil, or_false] at hq
  rcases hq with rfl | rfl | rfl | rfl | rfl | rfl <;>
  · refine seen State.reset wBlock (wRegs [(2, 0xFFF0)]) 3 ⟨by decide +kernel, reaches_of ?_⟩
    decide +kernel

/-- A launch with a valid format slot in FS 0 (E4M3 operands and result) and a stochastic one in FS 1, and a cohort of one member. -/
def wLaunch : Launch :=
  { tag := 0x1001, replay := 0, replayNo := 1, node := 0, ctx := 1, queue := 0, prio := 0, kernel := 0, variants := [Variant.widest], gx := 1,
    gy := 1, gz := 1, lanes := 2, lflags := 0, pclass := 0, tclass := 0, seed := 0, deadline := 0, gov := 0, sig0 := 0, sig1 := 0, doneAt := 0,
    fmt := [0x14A5, 0x94A5], param := [], cohorts := [⟨0, 1, 1, 1, 0, [], [], []⟩], gangs := [], placed := [0], next := 1, exited := [],
    triggered := [], tasksOpen := 0, started := 0, blocksOut := 1, tasksRun := 0, switches := 0, moves := 0, parks := 0, early := [],
    resv := [], starved := none, status := .placed }
/-- The machine with that launch. -/
def wLaunched : State := { State.reset with launches := [(1, wLaunch)] }
/-- Tiles 1 and 2 hold E4M3, tile 3 FP16, tile 4 INT8, tiles 5 and 6 pairs of int16; a descriptor of N = 4 is committed. -/
def wMatrix : Matrix :=
  { Matrix.initial with tsh := [(1, 0x00780005), (2, 0x00780005), (3, 0x00780003), (5, 0x0018000F), (6, 0x0018000F)], committed := some (4, 3)
                        win := [(1, 0x00010001), (3, 16), (4, 0x11110101), (6, 1), (7, 1)] }
/-- The block with that matrix state. -/
def wOwner : Block := { wBlock with mtx := some wMatrix }

/-- Each matrix command at issue with what its checks ask for. -/
theorem witness_MatrixCommandsAreQueued :
    Seen (fun e => e.holds wHdr = true ∧ e.queueFull = false ∧ e.iu.lanes = e.y.living ∧ e.x.mtx = some wMatrix ∧
      (let w := e.slot ⟨0, 1, 2, 0, 0, 0, 0⟩
       slotOk w = true ∧ tshCode (wMatrix.shape 1) = slotA w ∧ tshCode (wMatrix.shape 2) = slotB w ∧
         tshCols (wMatrix.shape 1) = tshCols (wMatrix.shape 2) ∧ slotA w ≠ 0xF ∧ tshCode (wMatrix.shape 1) = slotD w ∧ slotD w ≠ 0xF ∧
         tshCols (wMatrix.shape 1) ≤ 128 ∧ ¬(slotSrnd w = true ∧ e.s.dawn = false)) ∧
      tshCode (wMatrix.shape 1) = tshCode (wMatrix.shape 2) ∧ tshRows (wMatrix.shape 4) = tshCols (wMatrix.shape 4) ∧
      tshShape (wMatrix.shape 1) = tshShape (wMatrix.shape 2) ∧ codeMx (tshCode (wMatrix.shape 1)) = false ∧ tshCode (wMatrix.shape 4) = 0 ∧
      e.lead 0x80 = 0 ∧ ¬(tshRows (wMatrix.shape 6) ≤ 0) ∧ descOk (e.lead 0x82) (e.lead 0x83) = true ∧
      (0 < (radices 3).length ∧ tshCode (wMatrix.shape 5) = 0xF ∧ tshCols (wMatrix.shape 5) = 4 ∧ tshShape (wMatrix.shape 6) = tshShape (wMatrix.shape 5)) ∧
      8 ≤ codeBits (tshCode (wMatrix.shape 5))) ∧
    Seen (fun e => slotSrnd (e.slot ⟨0, 1, 2, 1, 0, 0, 0⟩) = true ∧ e.s.dawn = false) ∧
    (∀ k : XKind, k = .load ∨ k = .store → Seen (fun e => ∃ seen rows,
      e.bound.tileRows e.x 1 0 (e.lead 0x84).toNat (sext 32 (e.lead 0x85).toNat) (tshRb (wMatrix.shape 1)) k (tshRows (wMatrix.shape 1)) 0 =
        (seen, .ok rows))) ∧
    (let d := winOf ((List.range 8).map fun k => Table.get 0 wMatrix.win k)
     d.ok = true ∧ d.kh * d.kw * d.ch = tshCols (wMatrix.shape 1) ∧ d.ibase + (d.ih - 1) * d.ipitch + d.iw * d.ch * (codeBits 5 / 8) ≤ 0x10000) :=
  ⟨seen wLaunched wOwner (wRegs [(2, 4), (3, 3)]) 3 (by decide +kernel),
   seen { wLaunched with host := { HostIf.reset with phase := 2 } } wOwner wWave 3 (by decide +kernel),
   fun k hk => by
     rcases hk with rfl | rfl <;> exact seen wLaunched wOwner (wRegs [(4, 0x100), (5, 0x40)]) 3 ⟨_, _, rfl⟩,
   by decide +kernel⟩

/-- A ring with no complete slot, with one, and K of one and of the whole ring. -/
theorem witness_CopyAndRingCommandResults :
    Seen (fun e => e.holds wHdr = true ∧ e.queueFull = false ∧ ∃ r, e.ringArgs ⟨0, 0, 0, 0, 0, 0, 1⟩ = some r ∧
      ringK ⟨0, 0, 0, 0, 0, 0, 1⟩ ≤ (r.tail - r.head).toNat) ∧
    Seen (fun e => ∃ r, e.ringArgs ⟨0, 0, 0, 0, 0, 0, 2⟩ = some r ∧ (r.tail - r.head).toNat < ringK ⟨0, 0, 0, 0, 0, 0, 2⟩) :=
  ⟨seen (wCore { CoreSt.reset 256 with rings := [(0, wRing)] }) wBlock wWave 3 ⟨by decide +kernel, by decide +kernel, _, rfl, by decide +kernel⟩,
   seen (wCore { CoreSt.reset 256 with rings := [(0, wRing)] }) wBlock wWave 3 ⟨_, rfl, by decide +kernel⟩⟩

/-- Named queue 7 of context 1 with one packet, and without one. -/
def wQueued (ps : List (List Byte)) : State :=
  { State.reset with dies := [(0, { Die.reset 0 with queues := [(7, ⟨1, 16, ps, 0, []⟩)] })] }

/-- A packet in the scratchpad for a deque or a queue with room, the home of an address, a queue with and without a packet that no
earlier request is owed, and a die out of service. -/
theorem witness_TaskCommandResults :
    Seen (fun e => e.holds wHdr = true ∧ e.queueFull = false ∧ (∃ bs, e.packet (e.lead 0x82).toNat = .ok bs) ∧ (e.s.die (dieOf e.x.core)).inService = true ∧
      e.s.dequeFull e.x.core = false ∧ ∃ n, e.s.ownedQueue e.x.ctx (e.lead 0x83).toNat = some n ∧
        n.packets.length + n.resv + e.asksAhead (e.lead 0x83).toNat true < n.cap) ∧
    Seen (fun e => (∃ bs, e.packet (e.lead 0x80).toNat = .ok bs) ∧ ∃ x, (e.bound.address e.x 0 (e.lead64 0x82).toNat 0 1 1 .load).2 = .ok x ∧
      ((e.s.die (dieOf (homeOf e.x.core x))).inService && !e.s.dequeFull (homeOf e.x.core x)) = true) ∧
    Seen (fun e => e.rawInSpan 1 64 ((e.lead 0x82).toNat, 0) = false ∧ (∃ pa, e.packetPlace (e.lead 0x82).toNat = .ok pa ∧ e.bufferBusy pa = false) ∧
      (e.s.die ((e.lead 0x83).toNat / 64)).inService = true ∧
      ∃ n, e.s.ownedQueue e.x.ctx (e.lead 0x83).toNat = some n ∧
        e.asksAhead (e.lead 0x83).toNat false < n.packets.length) ∧
    Seen (fun e => e.rawInSpan 1 64 ((e.lead 0x82).toNat, 0) = false ∧ (∃ pa, e.packetPlace (e.lead 0x82).toNat = .ok pa) ∧
      ∃ n, e.s.ownedQueue e.x.ctx (e.lead 0x83).toNat = some n ∧ n.packets.length ≤ 0) ∧
    Seen (fun e => (e.s.die (dieOf e.x.core)).inService = false ∧ (∃ bs, e.packet (e.lead 0x82).toNat = .ok bs) ∧
      (∃ x, (e.bound.address e.x 0 (e.lead64 0x84).toNat 0 1 1 .load).2 = .ok x ∧ (!(e.s.die (dieOf (homeOf e.x.core x))).inService) = true) ∧
      ∃ n, e.s.ownedQueue e.x.ctx (e.lead 0x83).toNat = some n ∧ (e.lead 0x83).toNat / 64 = 1) :=
  ⟨seen (wQueued []) wBlock (wRegs [(2, 0xFFC0), (3, 7)]) 3 ⟨by decide +kernel, by decide +kernel, ok_of (by decide +kernel), by decide +kernel, by decide +kernel, _, rfl, by decide +kernel⟩,
   seen wPaged wBlock (wRegs [(2, 0x1000)]) 3 ⟨ok_of (by decide +kernel), okAnd_of (by decide +kernel)⟩,
   seen (wQueued [List.replicate 64 0]) wBlock (wRegs [(2, 0xFFC0), (3, 7)]) 3
     ⟨by decide +kernel, ⟨_, rfl, by decide +kernel⟩, by decide +kernel, _, rfl, by decide +kernel⟩,
   seen (wQueued []) wBlock (wRegs [(2, 0xFFC0), (3, 7)]) 3 ⟨by decide +kernel, ⟨_, rfl⟩, _, rfl, by decide +kernel⟩,
   seen { wPaged with dies := [(0, { Die.reset 0 with inService := false }), (1, { Die.reset 1 with inService := false, queues := [(7, ⟨1, 16, [], 0, []⟩)] })] } wBlock
     (wRegs [(2, 0xFFC0), (3, 71), (4, 0x1000)]) 3
     ⟨by decide +kernel, ok_of (by decide +kernel), okAnd_of (by decide +kernel), _, rfl, by decide +kernel⟩⟩

/-- A converged wave of PART that has not arrived, a mask of the block's waves, a cohort the block belongs to, timelines of the context and
of a peer, and one whose die is out of service. -/
theorem witness_SynchronisationResults :
    Seen (fun e => (e.iu.lanes = e.y.living ∧ (e.x.barrier 0).part.getLsbD e.iu.wave = true ∧ (e.x.barrier 0).arrv.getLsbD e.iu.wave = false) ∧
      (e.x.barrier 0).expb.toNat + (e.lead 0x82).toNat < 2 ^ 32 ∧
      0 < (e.lead 0x83).toNat ∧ (e.lead 0x83).toNat < 2 ^ e.x.var.waves ∧ (e.x.barrier 0).arrv = 0 ∧ (e.x.barrier 0).cred = 0 ∧
      (e.x.barrier 0).expb = (e.x.barrier 0).ebase ∧ (∃ c, e.cohort? 0 = some c ∧ (e.x.blin, e.iu.wave) ∉ c.warr) ∧
      e.readable (e.lead 0x84) = true ∧ e.s.timelineLost (e.lead 0x84) = false ∧
      ((e.lead 0x84).toNat / 2 ^ 28 = 2 ∧ handleBitsOk (e.lead 0x84) = true) ∧
      (e.lead 0x85).toNat / 2 ^ 28 = 4 ∧ handleBitsOk (e.lead 0x85) = true) ∧
    Seen (fun e => e.holds wHdr = true ∧ e.queueFull = false ∧ e.readable (e.lead 0x84) = true ∧ e.s.timelineLost (e.lead 0x84) = true) :=
  ⟨seen wLaunched wBlock (wRegs [(2, 0xFFFFFFFF), (3, 1), (4, 0x20000FFF), (5, 0x40000001)]) 3
    (by and_intros <;> first | decide +kernel | exact ⟨_, rfl, by decide +kernel⟩),
   seen { wLaunched with dies := [(1, { Die.reset 1 with inService := false })] } wBlock (wRegs [(4, 0x20000FFF)]) 3 (by decide +kernel)⟩

/-- A block on a render core, and one on a network tile. -/
theorem witness_RenderCommandResults :
    Seen (fun e => e.holds wHdr = true ∧ e.queueFull = false ∧ isTile e.x.core = false) ∧
    Seen (fun e => e.holds wHdr = true ∧ e.queueFull = false ∧ isTile e.x.core = true) :=
  ⟨seen State.reset { wBlock with core := 0 } wWave 3 (by decide +kernel), seen State.reset wBlock wWave 3 (by decide +kernel)⟩

/-! ## Events -/

/-- Core 256 as given, with wave 0 of block 1 on it. -/
def wAt (c : CoreSt) (x : Block) (y : Wave) : State := { wCore c with blocks := [(1, { x with waves := [(0, y)] })] }
/-- The same with nothing on the core. -/
def wRun (x : Block) (y : Wave) : State := wAt (CoreSt.reset 256) x y
/-- The command of an instruction that wave 0 of block 1 issued. -/
def wCmd (i : Instr) : EngCmd := (wEnv wLaunched wBlock wWave 3).cmd i
/-- A store-queue entry of a store of one byte, and one of an atomic add. -/
def wStore (sc pa : Nat) (rel : Bool) : StoreEntry := ⟨0, 1, 0x7000, sc, rel, .bytes 0 0 pa [1], 0, none, []⟩
@[inherit_doc wStore] def wAtomic (pa : Nat) : StoreEntry := ⟨0, 1, 0x7000, 4, false, .atomic 0 0 pa 4 .add 1 0 0 (some 3), 0, none, []⟩
/-- Core 256 with one request on its fabric lanes. -/
def wFabric (q : StoreEntry) : State := wAt { CoreSt.reset 256 with fabric := [⟨1, 0, 1, 0, q⟩] } wBlock wWave

/-- A load that returns; the head of a store queue for the core's own scratchpad, plain and release, and for HBM at each scope; a syllable
all of whose lanes have ended, two of them with a failure; a store and an atomic at
their executing points; an atomic to the host. For StoresAndAtomicsChangeOnlyTheirBytes as well. -/
theorem witness_AccessesArePerformed :
    (∃ s : State, (s.block? 1).isSome = true ∧ (s.wave? 1 0).any (fun y => y.outs[0]?.any fun o => o.bad = [])) ∧
    (∀ rel, ∃ s : State, (s.block? 1).any (fun x => (s.wave? 1 0).any fun y => y.storeq.head?.any fun q =>
      (!q.rel || s.released x.core y q.sid q.scope) && !s.primaryAhead q && q.rel == rel && s.writesHere x.core (windowPa 256 0))) ∧
    (∀ sc ∈ [0, 1, 2, 4], ∃ s : State, (s.block? 1).any (fun x => (s.wave? 1 0).any fun y => y.storeq.head?.any fun q =>
      !q.rel && !s.primaryAhead q && !s.writesHere x.core 0x1000 && decide (q.scope = sc))) ∧
    (let l : List BadData := [⟨0x29, 0x1000, 0x7000, some 5, 0, 0⟩, ⟨0x2A, 0x1040, 0x7040, some 1, 0, 0⟩]
     let s := wRun wBlock { wWave with late := l.map fun d => (3, d) }
     (s.block? 1).any (fun x => (s.wave? 1 0).any fun y => !s.sidOpen x.core 1 0 y 3) = true ∧ ∀ c ∈ l, c.cause = 0x29 → 1 < c.lane.getD 0) ∧
    (∀ pa ∈ [0, 0x5FFFFFFFFF, windowPa 256 0, 0x800000000000], ∃ s : State, (s.laneHead 256 0).any (fun f => f.e.kind = .bytes 0 0 pa [1] ∧
      region pa ≠ .none ∧ s.dieGone pa = none ∧ 2 ≤ f.e.scope)) ∧
    (∃ s : State, (s.laneHead 256 0).any (fun f => f.e.kind = .bytes 0 0 0x1000 [1] ∧ s.dieGone 0x1000 = some 0)) ∧
    (∀ pa ∈ [0x1000, windowPa 256 0], ∃ s : State, (s.laneHead 256 0).any (fun f => f.e.kind = .atomic 0 0 pa 4 .add 1 0 0 (some 3) ∧
      (region pa = .hbm ∨ region pa = .scratch) ∧ (∀ i < 4, s.tstOpen 256 f.block (pa + i) (some (f.wave, f.e.sid)) = false) ∧
      (let t := (s.dropFabric 256 0).dropLines 256 [pa]
       t.dieGone pa = none ∧ s.dieGone pa = none ∧ t.badData pa 4 f.e.va (some 0) = none))) ∧
    (∃ s : State, (s.laneHead 256 0).any (fun f => f.e.kind = .atomic 0 0 0x800000000000 4 .add 1 0 0 (some 3) ∧ region 0x800000000000 = .host)) :=
  ⟨⟨wRun wBlock { wWave with outs := [⟨0, [.v 3 0 5], [], []⟩] }, by decide +kernel⟩,
   fun rel => ⟨wRun wBlock { wWave with storeq := [wStore 4 (windowPa 256 0) rel] }, by cases rel <;> decide +kernel⟩,
   fun sc h => ⟨wRun wBlock { wWave with storeq := [wStore sc 0x1000 false] }, by
     simp only [List.mem_cons, List.not_mem_nil, or_false] at h
     rcases h with rfl | rfl | rfl | rfl <;> decide +kernel⟩,
   by decide +kernel,
   fun pa h => ⟨wFabric (wStore 4 pa false), by
     simp only [List.mem_cons, List.not_mem_nil, or_false] at h
     rcases h with rfl | rfl | rfl | rfl <;> decide +kernel⟩,
   ⟨{ wFabric (wStore 4 0x1000 false) with dies := [(0, { Die.reset 0 with inService := false })] }, by decide +kernel⟩,
   fun pa h => ⟨wFabric (wAtomic pa), by
     simp only [List.mem_cons, List.not_mem_nil, or_false] at h
     rcases h with rfl | rfl <;> decide +kernel⟩,
   ⟨wFabric (wAtomic 0x800000000000), by decide +kernel⟩⟩

/-- A context with a table and a frame for each rank of entry. -/
def wMapped : State := { State.reset with ctxs := [(1, { Ctx.absent with ptbase := 0x1810000000 })] }
/-- An update of the root entry from empty to a table. -/
def wUpdate : TableReq := ⟨1, 0, 0, 0, 0x40000001, false, false⟩

/-- An update that is made, one that needs a shootdown, one that is refused by its new value, and one by its expected value; one that is
acknowledged. -/
theorem witness_TableEvents :
    (wMapped.updates = [] ∧ wMapped.ctxExists 1 = true ∧ (wMapped.entryAddr 0 0 5 0 (rootOf (wMapped.ctx 1).ptbase)).any (fun a =>
      wMapped.updateOk wUpdate && (groupEntries a false).all (fun m => wMapped.num m 8 = 0) && !needsShootdown 0 wUpdate.new)) ∧
    (let s := wMapped.writeNum 0 (rootOf (wMapped.ctx 1).ptbase) 8 0x40000001
     (s.entryAddr 0 0 5 0 (rootOf (s.ctx 1).ptbase)).any (fun a => s.updateOk { wUpdate with expect := 0x40000001, new := 0 } &&
      (groupEntries a false).all (fun m => s.num m 8 = 0x40000001) && needsShootdown 0x40000001 0)) ∧
    wMapped.updateOk { wUpdate with new := 0x1000000000001 } = false ∧ wMapped.num (rootOf (wMapped.ctx 1).ptbase) 8 ≠ 1 ∧
    (let s := { wMapped with updates := [⟨wUpdate, true, [(1, 0, 7)]⟩] }
     s.updates = [⟨wUpdate, true, [(1, 0, 7)]⟩] ∧ ∀ a ∈ [(1, 0, 7)], a ∉ s.inFlight) := by
  decide +kernel

/-- A CPY of four words from the block's scratchpad to its scratchpad. -/
def wPlan : Plan :=
  let l : Layout := ⟨0, 1, 2, false, 4, 1, 16, 0, 0, 4, 1⟩
  { src := l, dst := { l with base := 64 }, x := 0, y := 0, dx := 0, dy := 0, remote := none, members := [], total := 16 }
/-- A copy-table entry of an instruction in the first copy context. -/
def wEntry (i : Hdr → FmtE → Instr) (ph : CopyPhase) : CopyEntry := CopyEntry.new (wCmd (i wHdr ⟨0, 0, 0, 0, 0, 0, 0⟩)) (some wPlan) ph
/-- The core with that entry in its copy table, and with a command in its engine queue. -/
def wCopying (e : CopyEntry) : State := wAt { CoreSt.reset 256 with copies := [e], rings := [(0, wRing)] } wBlock wWave
@[inherit_doc wCopying] def wQueuing (c : EngCmd) : State := wAt { CoreSt.reset 256 with engineq := [c], rings := [(0, wRing)] } wBlock wWave

/-- Entry 0 of core 256 begins, as its commands' rules have it, once it is open. -/
def wBegins (s : State) (f : State → CopyEntry → Runner → CopyKind → FmtE → Plan → Bool) : Bool :=
  let s' := s.openEntry 256 0
  match (s'.core 256).copies[0]? with
  | some e => match e.plan, s'.runner e.cmd, e.cmd.copy? with
    | some p, some q, some (kd, o) => s'.mayBegin 256 0 e q kd && f s' e q kd o p
    | _, _, _ => false
  | none => false
/-- Its next fragment is read, and has a place unless the command writes later. -/
def wMoves (s : State) (e : CopyEntry) (q : Runner) (kd : CopyKind) (o : FmtE) (p : Plan) : Bool :=
  match s.takeMask 256 0 e q p with
  | (t, .ok mask) => match (p.frags kd e.cmd mask)[e.frag]? with
    | some f => match t.readFrag q p e.cmd e.dest mask f with
      | (u, .ok r) =>
        let u' := u.modCopy 256 0 fun g => { g with read := g.read ++ rangesOfPlaces r.2 }
        decide (e.phase = .running) &&
          if p.buffered kd then mask.isEmpty else p.remote.isNone && okOf (u'.placeRuns p.dst (f.runs p.dst.esz (p.dstElem o e.cmd mask)) (u'.writers q kd p)).2
      | _ => false
    | none => false
  | _ => false

/-- A copy that leaves the queue, one that moves a fragment and a send that reads one, a timed one that waits for its space and for its
instant, a copy whose fragments have moved, a base-die command without units; a send that takes a slot, and one that is written; SWAIT
and SREL. -/
theorem witness_CopyAndRingEvents :
    (let s := wQueuing (wCmd (.cpy wHdr ⟨0, 0, 0, 0, 0, 0, 0⟩))
     (s.engineHead 256).any fun c => c.copy?.isSome && decide ((s.core 256).copies.length < 128) && s.mayStart c && s.cmdReleased 256 c && s.replyRoom c) ∧
    wBegins (wCopying (wEntry .cpy .running)) wMoves = true ∧ wPlan.buffered .cpy = false ∧
    wBegins (wCopying (wEntry .bsnd .running)) wMoves = true ∧ wPlan.buffered .bsnd = true ∧
    wBegins (wCopying (wEntry .cpyt .gated))
      (fun s e q _ _ p => decide (e.phase = .gated ∧ e.reserved = 0 ∧ (s.die q.die).release + p.src.boxElems * p.src.esz ≤ 2 ^ 23)) = true ∧
    (let e := { wEntry .cpyt .gated with reserved := 16 }
     let s := wCopying e
     e.phase = .gated ∧ e.reserved ≠ 0 ∧ e.cmd.inst.toNat ≤ s.now ∧ s.heldAtChange e = false) ∧
    (let e := { wEntry .cpy .running with frag := wPlan.fragCount .cpy (wEntry .cpy .running).cmd [] [], mask := some [] }
     ((wCopying e).core 256).copies[0]? = some e ∧ e.phase = .running ∧ e.frag = wPlan.fragCount .cpy e.cmd [] e.buf) ∧
    (let e := wEntry .redc .running
     wBegins (wCopying e) fun s e q kd _ _ => kd.baseDie && s.replyTurn 256 e.cmd && (s.die (s.baseDieOf q e.cmd .redc)).inService &&
       match s.ownRead e.dest fun s => s.baseRun (s.baseRunner q e.cmd .redc) e.cmd .redc e.shared (e.cmd.units .redc - e.frag) e.frag with
       | (t, n, ws, none) => (((t.forgetAll ws).modCopy 256 0 fun f => { f with frag := n, wrote := f.wrote ++ ws }).core 256).copies[0]?.isSome
       | _ => false) = true ∧
    (let e := { wEntry .bsnd .ringWait with cmd := { wCmd (.bsnd wHdr ⟨0, 0, 0, 0, 0, 0, 0⟩) with q2 := [0, 256, 0, 0] } }
     let s := wCopying e
     let r := (s.core e.cmd.ringOf.1).ring e.cmd.ringOf.2
     (r.accepted - r.head).toNat < r.slots ∧ s.sendBefore 256 0 e = false ∧ s.heldAtChange e = false) ∧
    ((wEntry .bsnd (.accepted 1)).phase = .accepted 1) ∧
    (∀ i ∈ [Instr.swait wHdr ⟨0, 0, 0, 0, 0, 0, 1⟩, Instr.srel wHdr ⟨0, 0, 0, 0, 0, 0, 1⟩],
      ((wQueuing (wCmd i)).engineHead 256).any fun c => c.instr = i ∧ (wQueuing (wCmd i)).loadsDone c = true ∧
        (wQueuing (wCmd i)).matrixReads 256 c = false) := by
  and_intros <;> decide +kernel

/-- A machine whose context 1 maps the first GiB of its space, and numbers of n bytes at addresses of it. -/
def wMem (l : List (Nat × Nat × Nat)) : State :=
  l.foldl (fun (s : State) (p : Nat × Nat × Nat) => s.writeNum 1 p.1 p.2.1 p.2.2)
    ([(0x1810000000, 0x1810001001), (0x1810001000, 0x1810002001), (0x1810002000, 0xE2)].foldl
      (fun (s : State) (p : Nat × DWord) => s.writeEntry p.1 p.2) { wMapped with launches := [(1, wLaunch)] })
/-- A window of two ranges at its first and last bytes and past its end, a request of a peer that translates and one that does not, and
the code of a tile, with those of the structures before it. -/
theorem witness_OutsideRequestsAndMemoryErrors :
    (let w := [(0x1000, 0x100), (windowPa 256 0, 0x100)]
     windowAt w 0 8 = some 0x1000 ∧ windowAt w 0x1F8 8 = some (windowPa 256 0xF8) ∧ windowAt w 0x1FC 8 = none ∧ windowAt w 0x200 1 = none) ∧
    okOf ((wMem []).placeAll ⟨256, 1, none⟩ 0 0 .load (piecesOf [(0x1000, 8)])).2 = true ∧
    okOf ((wMem []).placeAll ⟨256, 1, none⟩ 0 0 .load (piecesOf [(0x40000000, 8)])).2 = false ∧
    (∀ k ∈ [0, 1], (⟨1, 0, k, 0⟩ : SramError).structureCode.toNat < 2) ∧ (⟨1, 0, 2, 0xFFFF⟩ : SramError).index.toNat < scratchSize 256 ∧
    2 < (⟨1, 0, 3, 0⟩ : SramError).structureCode.toNat ∧ ((wRun wBlock wWave).block? 1).any (fun x => x.stop.isNone) = true ∧
    ((wRun { wBlock with stop := some ⟨0x30, [], none, 0⟩ } wWave).block? 1).any (fun x => x.stop.isSome) = true := by
  decide +kernel

/-- A kernel image at 0x2000 with two variants of one wave, whose first bundles, at 0x3000 and 0x3100, hold SWPT 5, and with the switch map
of that point at 0x4000, whose POINT fields count back from there; a launch record of it at 0x5000. -/
def wImage : List (Nat × Nat × Nat) :=
  [(0x2000, 4, 0x4B5A4C47), (0x2004, 4, 0x00020001), (0x2008, 4, 0x2000), (0x200C, 2, 1),
   (0x2040, 8, 0x1000), (0x2048, 4, 0x00100108), (0x2051, 1, 2), (0x2080, 8, 0x1100), (0x2088, 4, 0x00100110), (0x2091, 1, 2),
   (0x3000, 8, 0x8480000000000005), (0x3100, 8, 0x8480000000000005),
   (0x4000, 2, 0x0305), (0x4008, 8, 0xFFFFF100FFFFF000), (0x4010, 8, 0xFFFFFFFFFFFFFFFF),
   (0x5000, 8, 0x2000), (0x5008, 8, 0x0001000100010001)]
/-- Variant i of that image. -/
def wVar (i : Nat) : Variant :=
  { kernel := 0x2000, index := i, entry := 0x3000 + 0x100 * i, vregs := 8 + 8 * i, waves := 1, sregs := 16, scratch := 0, weight := 0, flags := 2,
    rotv := 0 }
/-- A block in variant 1 of it, at the switch point. -/
def wSwitching : Block :=
  { wBlock with var := wVar 1, mtx := none, grow := [(0, 0)], waves := [(0, { wWave with pc := [(0, 0x3100), (1, 0x3100)] })] }
/-- The machine with that image, a launch of its variants, and block 1 as given, 1 ms after reset. -/
def wSwitch (x : Block) : State :=
  { wMem wImage with time := { TimePort.reset with now := 1000000 }, launches := [(1, { wLaunch with variants := [wVar 0, wVar 1], cohorts := [] })], blocks := [(1, x)] }
/-- The request for variant 0, with every thread held at point 5 since time 0. -/
def wRequest : SwitchReq := ⟨wVar 0, 0, some (5, 0), [(0, 3)]⟩

/-- A variant that qualifies, a block held at its point whose map keeps every condition, a request past its time; a hot core with a block
that may move, one whose block fits nowhere, one without a block, one that is not hot, and a rest that is over. -/
theorem witness_SwitchAndMigrationEvents :
    (let s := wSwitch wSwitching
     (s.block? 1).any fun x => s.switchable x && match s.readMaps x with
      | (t, .ok ms) => decide ((((t.launch? x.launch).map fun l => l.variants).getD []).find? (fun v =>
          (if x.var.index < 0 then decide (x.var.index < v.index) else decide (v.index < x.var.index)) && t.qualifies 1 x ms v) = some (wVar 0)) &&
          (t.fitsFor 1 x (wVar 0)).isSome && decide (ms.length = 1)
      | _ => false) ∧
    (let s := wSwitch { wSwitching with switch := some wRequest }
     (s.block? 1).any fun x => x.allHeld wRequest && x.stop.isNone && !x.exited && s.quiet 1 x && (match s.readMaps x with
      | (t, .ok ms) => (ms.find? fun m => m.id = 5).any (fun m => t.mapBreaks x (wVar 0) ms m = 0 ∧ m.point 0 = 0x3000 ∧ m.point 1 = 0x3100) &&
          (t.fitsFor 1 x (wVar 0)).isSome
      | _ => false)) ∧
    (let s := wSwitch { wSwitching with switch := some { wRequest with held := [] } }
     (s.block? 1).any (fun x => x.allHeld { wRequest with held := [] } = false) = true ∧ 0 + 50000 ≤ s.now) ∧
    (let s := wSwitch wSwitching
     (s.core 256).resting s.now = false ∧ s.migratingOn (dieOf 256) = false ∧ s.power.hotLimit ≤ 95 ∧
       (s.migrant 256).any (fun e => s.migratesTo e.1 e.2 257) = true) ∧
    (let s := wSwitch { wSwitching with var := { wVar 1 with scratch := 0x400000 } }
     (s.migrant 256).any (fun e => allCores.all (fun c => !s.migratesTo e.1 e.2 c) && !s.migratesTo e.1 e.2 257) = true) ∧
    (let s := State.reset
     (s.core 256).resting s.now = false ∧ s.migratingOn (dieOf 256) = false ∧ s.migrant 256 = none ∧ 94 < s.power.hotLimit) ∧
    (let s := wCore { CoreSt.reset 256 with recheckAt := some 0 }
     (s.core 256).recheckAt = some 0 ∧ 0 ≤ s.now) := by decide +kernel

/-- At SWPT 5, for TrapWaitAndSwitchPointResults: threads that a switch has moved; the fixed point within its 50 µs and at their end, converged
there and not; and a request with no point fixed, where the kernel has a map of the point and where it has none. -/
theorem witness_switch_points :
    (let x := { wSwitching with passing := [(0, 3)] }
     Table.get 0 x.passing 0 &&& 3 ≠ 0) ∧
    (wSwitching.allHeld wRequest = true ∧ wSwitching.allHeld { wRequest with held := [(0, 1)] } = false) ∧
    (∀ p ∈ [(49999, true), (50000, false)], let s := { wSwitch { wSwitching with switch := some wRequest } with time := { TimePort.reset with now := p.1 } }
     Table.get 0 wSwitching.passing 0 &&& 3 = 0 ∧ wRequest.fixed = some (5, 0) ∧ decide (s.now < 0 + 50000) = p.2) ∧
    (∀ n ∈ [5, 6], okAnd (fun ms => (ms.any fun m => m.id = n) == (n == 5))
      ((wSwitch { wSwitching with switch := some { wRequest with fixed := none } }).readMaps wSwitching).2 = true) := by decide +kernel

/-- A matrix engine that takes a command, one in the middle of a command and one at its end, and a latch write that is due. -/
theorem witness_MatrixEngineEvents :
    (let c := wCmd (.tzeroTile wHdr ⟨1, 0, 0, 0, 0, 0, 1⟩)
     let s := wQueuing c
     (s.block? 1).any (fun x => x.mtx.isSome) = true ∧ (s.core 256).mat = none ∧ s.nextMatrix 256 = some c ∧ c.owner = .block 1 0) ∧
    (let s := wAt { CoreSt.reset 256 with mat := some ⟨wCmd (.tmma wHdr ⟨0, 1, 2, 0, 0, 0, 0⟩), 0, 0, 1, none⟩ } wBlock wWave
     (s.core 256).mat.any (fun j => j.cmd.owner = .block 1 0 ∧ j.entered < j.total) = true) ∧
    (∀ f ∈ [none, some (0x23, 0, 0, 0)],
      let s := wAt { CoreSt.reset 256 with mat := some ⟨wCmd (.tzeroTile wHdr ⟨1, 0, 0, 0, 0, 0, 1⟩), 0, 1, 1, f⟩ } wBlock wWave
      (s.core 256).mat.any (fun j => j.cmd.owner = .block 1 0 ∧ s.jobDone 256 j = true) = true) ∧
    (let s := wRun { wBlock with mtx := some { Matrix.initial with pend := [⟨0, [1], 0, 0, 0⟩] } } wWave
     (s.block? 1).any (fun x => x.mtx.any fun m => m.pend.head?.any fun p => p.due ≤ s.cycOf x.core ∧ s.entersBefore 1 x.core p.due = false) = true) := by
  decide +kernel

/-- Block 1 on render core 0 with a command at the head of its engine queue, or in flight. -/
def wRender (c : EngCmd) : State :=
  { State.reset with cores := [(0, { CoreSt.reset 0 with engineq := [c], rays := [c] })], blocks := [(1, { wBlock with core := 0, waves := [(0, wWave)] })] }

/-- A batch at 0x7000 with one degenerate primitive, its reserved byte as given, and n guide tiles open. -/
def wBatch (n reserved : Nat) : State :=
  let c := { wCmd (.rast wHdr ⟨0, 0, 0, 0, 0, 0, 0⟩) with q1 := [0x7000, 0] }
  let r : Raster := { batches := 0, tiles := (List.range n).map fun k => ⟨k + 1, 0, [], 0, 0, 0⟩, pend := [] }
  { wMem [(0x7000, 8, 0x2000), (0x7008, 2, 1), (0x700A, 2, reserved), (0x7010, 2, 1), (0x7012, 2, 1), (0x7018, 8, 0x7040)] with
    cores := [(0, { CoreSt.reset 0 with engineq := [c], raster := r })], blocks := [(1, { wBlock with core := 0, waves := [(0, wWave)] })] }
/-- What the raster slice finds: none for a batch that is not in order, else the number of its tiles. -/
def wTiles (s : State) : Option (Option Nat) :=
  match s.engineHead 0 with
  | some c => match s.runner c with
    | some q => if !s.mayStart c then none else
      match (s.popEngine 0).renderRead q 0x7000 64 with
      | (u, .ok hd) => match batchOf hd with
        | some b => match u.renderRead q b.prims (48 * b.nprim) with
          | (v, .ok bs) => (primsOf b.nprim bs).map fun ps => some ((v.core 0).raster.bin b ps 0 c.launch).tiles.length
          | _ => none
        | none => some none
      | _ => none
    | none => none
  | none => none

/-- Fragments that wait for the deque; a batch that is not aligned, one that is not in order, one that leaves the slice at most 256 tiles,
and one that does not; each render command at the head of the queue, and each in flight with its answer due. -/
theorem witness_RenderEvents :
    (let s := wCore { CoreSt.reset 256 with raster := { batches := 0, tiles := [], pend := [⟨[], 1, none⟩] } }
     (s.core 256).raster.pend ≠ []) ∧
    (let c := { wCmd (.rast wHdr ⟨0, 0, 0, 0, 0, 0, 0⟩) with q1 := [0x7001, 0] }
     (pair (c.w1 0) (c.w1 1)).toNat % 64 ≠ 0) ∧
    (wTiles (wBatch 0 1) = some none ∧ (wTiles (wBatch 256 0)).any (fun n => n.any fun k => k ≤ 256) = true ∧
      (wTiles (wBatch 257 0)).any (fun n => n.any fun k => 256 < k) = true) ∧
    (∀ i ∈ [Instr.rast wHdr ⟨0, 0, 0, 0, 0, 0, 0⟩, .rtile wHdr ⟨0, 0, 0, 0, 0, 0, 0⟩, .rayq wHdr ⟨0, 0, 0, 0, 0, 0, 0⟩],
      let s := wRender (wCmd i)
      ((s.core 0).raster.pend = [] ∧ s.engineHead 0 = some (wCmd i) ∧ s.mayStart (wCmd i) = true ∧ s.replyRoom (wCmd i) = true) ∧
      (s.runner (wCmd i)).any (fun q => q.x.isSome) = true ∧ (s.core 0).rays[0]? = some (wCmd i) ∧ s.replyTurn 0 (wCmd i) = true ∧
      (s.core 0).raster.tile? (wCmd i).tileName.1 (wCmd i).tileName.2 = none) ∧
    (let c := { wCmd (.rayq wHdr ⟨0, 0, 0, 0, 0, 0, 0⟩) with lanes := 0 }
     ∃ q t rs, (wRender c).runner c = some q ∧ (wRender c).rayLanes q (pair (c.w1 0) (c.w1 1)).toNat c.packet (lanesOf c.lanes) = (t, .ok rs)) := by
  refine ⟨by decide +kernel, by decide +kernel, by decide +kernel, ?_, _, _, _, rfl, rfl⟩
  intro i hi
  simp only [List.mem_cons, List.not_mem_nil, or_false] at hi
  rcases hi with rfl | rfl | rfl <;> decide +kernel

/-- A task packet whose kernel is the image. -/
def wPacket : Packet := ⟨leBytes 8 0x2000 ++ List.replicate 56 0, 1, none⟩

/-- The deque of core 256 with that packet at its head, and the blocks given. -/
def wGather (bs : Table Block) : State := { wMem wImage with cores := [(256, { CoreSt.reset 256 with deque := [wPacket] })], blocks := bs }

/-- A push and an enqueue at the head of the engine queue, a head run that a variant fits and one that none does, a thief, and a retry that
is due. -/
theorem witness_TaskEvents :
    (∀ i ∈ [Instr.spawn wHdr ⟨0, 0, 0, 0, 0, 0, 0⟩, .spawnd wHdr ⟨0, 0, 0, 0, 0, 0, 0⟩],
      (wQueuing (wCmd i)).engineHead 256 = some (wCmd i) ∧ (wQueuing (wCmd i)).cmdReleased 256 (wCmd i) = true) ∧
    (let c := { wCmd (.enq wHdr ⟨0, 0, 0, 0, 0, 0, 0⟩) with target := 7 }
     let s := { wQueuing c with dies := [(0, { Die.reset 0 with queues := [(7, ⟨1, 16, [], 1, []⟩)] })] }
     s.engineHead 256 = some c ∧ (s.queue? c.target).any (fun n => !s.queueMissed n) = true ∧
       ∀ m ∈ [0, 1], s.queueMissed ⟨1, 16, [], 1, [(2, m)]⟩ = (m == 0)) ∧
    (∀ p ∈ [([], true), ([(1, { wBlock with var := { Variant.widest with waves := 96 } })], false)], let s := wGather p.1
     headRun 128 (s.core 256).deque = [wPacket] ∧ (s.launch? 1).any (fun l => s.placing && !s.power.isShed l.pclass && (s.die 1).hasPower &&
       (s.die 1).inService && match s.taskKernel 256 l.ctx (tentryOf wPacket.bytes) with
        | (t, .ok vs) => (t.firstFit t.holders (t.bounds 1 l.prio false 256) vs 256).isSome == p.2 && !t.dispatcherFirst 256 1 && !t.restoreFirst 256 l.prio
        | _ => false) = true) ∧
    (State.reset.mayThieve 256 = true ∧ coreExists 257 = true ∧ clusOf 257 = clusOf 256 ∧ (State.reset.core 256).stealAt = 0) ∧
    (∃ core, (core = 256 ∨ core = 257) ∧
      let s := { State.reset with cores := [(256, { CoreSt.reset 0 with stealAt := 200 }), (257, { CoreSt.reset 0 with stealAt := 200 })],
                                  clusters := [(2, { Cluster.reset with cyc := 200 })] }
      s.mayThieve core = true ∧ (s.core core).stealAt ≠ 0 ∧ (s.core core).stealAt ≤ s.cycOf core ∧ s.victim core ≠ core) := by
  refine ⟨?_, by decide +kernel, ?_, by decide +kernel, ?_⟩
  · intro i hi
    simp only [List.mem_cons, List.not_mem_nil, or_false] at hi
    rcases hi with rfl | rfl <;> decide +kernel
  · intro p hp
    simp only [List.mem_cons, List.not_mem_nil, or_false] at hp
    rcases hp with rfl | rfl <;> decide +kernel
  · by_cases h : (Config.stealStep 0).toNat % clusterSize 1 = 0
    · refine ⟨257, .inr rfl, by decide +kernel, by decide +kernel, by decide +kernel, ?_⟩
      show 257 / 128 * 128 + (Config.stealStep 0).toNat % clusterSize 1 ≠ 257
      omega
    · refine ⟨256, .inl rfl, by decide +kernel, by decide +kernel, by decide +kernel, ?_⟩
      show 256 / 128 * 128 + (Config.stealStep 0).toNat % clusterSize 1 ≠ 256
      omega

/-- A push held for 1 ms by a full deque or by the full queue 0, with SPAWN, SPAWND or ENQ at the PC of its wave. -/
def wHeld (syl : Nat) : State :=
  { wMem [(0x3000, 8, syl)] with
    time := { TimePort.reset with now := 1000000 }
    cores := [(0, { CoreSt.reset 0 with dequeResv := 4096 }), (256, { CoreSt.reset 256 with dequeResv := 4096 })]
    dies := [(0, { Die.reset 0 with queues := [(0, ⟨1, 16, [], 16, []⟩)] })]
    blocks := [(1, { wBlock with waves := [(0, { wWave with pc := [(0, 0x3000), (1, 0x3000)], full := some 0 })] })] }

/-- Waits that are over time, that hold, and that are broken; blocks that may exit and that are released; a bundle in hand. -/
theorem witness_WaitExitAndDecodeEvents :
    ((wHeld 0xB300000011000000).heldFull 1 0 = true ∧ ((wHeld 0xB300000011000000).heldPush 1 0).any (fun p => match p.2.1 with
      | .spawn h o => decide ((p.1.spawn (.spawn h o) p.2.2).2 = .holdFull)
      | _ => false) = true) ∧
    ((wHeld 0xB310000011000000).heldFull 1 0 = true ∧ ((wHeld 0xB310000011000000).heldPush 1 0).any (fun p => match p.2.1 with
      | .spawnd h o => decide ((p.1.spawnd (.spawnd h o) p.2.2).2 = .holdFull)
      | _ => false) = true) ∧
    ((wHeld 0xB320000011000000).heldFull 1 0 = true ∧ ((wHeld 0xB320000011000000).heldPush 1 0).any (fun p => match p.2.1 with
      | .enq h o => decide ((p.1.enq (.enq h o) p.2.2).2 = .holdQueue (p.1.lead p.2.2.s2).toNat true)
      | _ => false) = true) ∧
    (let s := { wRun wBlock { wWave with since := some 0 } with time := { TimePort.reset with now := 2000000001 } }
     (s.wave? 1 0).any (fun y => y.since.any fun t => decide (t + (s.ctx 1).wdogMs * 1000000 < s.now)) = true) ∧
    (let s := wRun wBlock { wWave with wait := some (.barw 0 1 0) }
     (s.block? 1).any (fun x => (s.wave? 1 0).any fun y => y.wait.any fun z => !s.waitLost z && s.waitHolds (x.seenBy y) z && x.stop.isNone &&
       s.fw.training.isNone) = true) ∧
    (let s := { wRun wBlock { wWave with wait := some (.tlwait 4 0x20000FFF 1) } with dies := [(1, { Die.reset 1 with inService := false })] }
     (s.wave? 1 0).any (fun y => y.wait.any s.waitLost) = true) ∧
    (let s := { wRun wBlock { wWave with wait := some .gridwait } with
       launches := [(1, { wLaunch with early := [2] }), (2, { wLaunch with status := .ended, node := 7 })] }
     s.gridState 1 = .broken 7) ∧
    (let s := wRun wBlock { wWave with living := 0 }
     (s.block? 1).any (fun x => s.mayExit 1 x) = true) ∧
    (let s := wRun { wBlock with exited := true } { wWave with living := 0 }
     (s.block? 1).any (fun x => x.exited && x.stop.isNone && !s.engineOpen 1 x && !s.rangeBusy 1 x) = true) ∧
    (wHand State.reset wBlock wWave 3).cur.isSome = true := by decide +kernel

/-- A graph of a launch node with its record at 0x5000, an optional launch node behind a governor point, and a copy, a timeline wait and a
timeline signal, at 0x6000. -/
def wGraphBytes : List (Nat × Nat × Nat) :=
  [(0x6000, 4, 0x48524754), (0x6004, 4, 0x00050001), (0x6008, 4, 1), (0x6010, 8, 0x40), (0x6018, 8, 0x200),
   (0x6040, 8, 5), (0x6048, 4, 0x00010001), (0x6068, 2, 0xFFFF),
   (0x6080, 8, 0x101), (0x6088, 8, 0x5000), (0x60A8, 2, 0),
   (0x60C0, 8, 2), (0x60E8, 2, 0xFFFF),
   (0x6100, 8, 3), (0x6108, 8, 0x20000001), (0x6128, 2, 0xFFFF),
   (0x6140, 8, 4), (0x6148, 8, 0x20000001), (0x6168, 2, 0xFFFF),
   (0x6200, 4, 0x00010000)]
/-- The device in service with that graph in memory and GRADDR and GRCTX naming it. -/
def wGraphs : State := { wMem (wImage ++ wGraphBytes) with host := { HostIf.reset with graddr := 0x6000, grctx := 1 } }
/-- That graph, registered as handle 1. -/
def wGraph : Graph :=
  match wGraphs.readGraph (dispatcher 1) 0x6000 with
  | (_, .ok (h, nb, eb)) => { handle := 1, ctx := 1, nodes := (graphReason h nb eb).2.1, edges := (graphReason h nb eb).2.2, replays := 0 }
  | _ => { handle := 1, ctx := 1, nodes := [], edges := [], replays := 0 }
/-- The device with that graph and one replay of it. -/
def wReplaying (r : Replay) : State := { wGraphs with graphs := [(1, wGraph)], replays := [(1, r)] }
/-- A replay of it whose nodes stand as given. -/
def wReplay (l : List NStatus) : Replay :=
  { handle := 1, number := 1, deadline := 0, nodes := l, grants := [], abandoned := false, finished := false }

/-- A kick that enters the FIFO and one that is refused; a graph that is registered and one that is not in use; reserved codes; an access
that is out of order. -/
theorem witness_HostRegisterEvents :
    (let s := { wGraphs with graphs := [(1, wGraph)] }
     s.working = true ∧ s.kickReason (1 <<< 52) = 0 ∧ (s.graph? 1).isSome = true ∧ s.kickReason 0 ≠ 0 ∧ s.host.grstat.toNat / 2 ^ 30 ≠ 1 ∧
     grCode 0x00010002 = 2 ∧ grHandle 0x00010002 = 1 ∧ s.replaying 1 = false ∧ grCode 3 = 0 ∧ grCode 1 = 1) ∧
    (wGraphs.ctxExists 1 = true ∧ (match wGraphs.readGraph (dispatcher 1) 0x6000 with
      | (t, .ok (h, nb, eb)) => decide ((graphReason h nb eb).1 = 0 ∧ t.freeHandle = some 1)
      | _ => false) = true) ∧
    bar0Ok 0x42 4 = false := by decide +kernel

/-- The head of launch queue 0 is its node 1, whose record is at a; queue 0 goes before the others. -/
def wAccept (a : DWord) : State :=
  let g := { wGraph with nodes := wGraph.nodes.map fun n => if n.kind = 1 then { n with a := a } else n }
  { wReplaying (wReplay [.done, .queued, .waiting, .waiting, .waiting]) with
    graphs := [(1, g)], disp := { Dispatcher.reset with queues := [(0, [⟨1, 1⟩])] } }
/-- The launch is accepted, or its record fails. -/
def wAccepts (s : State) (ok : Bool) : Bool :=
  let t := { s with disp := { s.disp with queues := Table.set [] s.disp.queues 0 [], lastQueue := 0 } }
  decide (Table.get [] s.disp.queues 0 = [⟨1, 1⟩]) && s.placing && !s.queueBefore (s.queuePrio 0) 0 &&
    (t.graphOf 1).any fun e => (e.2.nodes[1]?).any fun x => okOf (t.readLaunch e.2.ctx x.a.toNat).2 == ok

/-- Each kind of node when it is ready, a skipped node, the head of a launch queue with a record that is read and one that is not; a block
that is placed, a launch that is complete, one that was ended, and replays that are done. -/
theorem witness_GraphAndLaunchEvents :
    (let s := { wGraphs with graphs := [(1, wGraph)], host := { wGraphs.host with kicks := [⟨1, 0, 1⟩] } }
     s.working = true ∧ (∀ r ∈ s.replays.values, r.handle = 1 → r.finished = true) ∧ (s.host.kicks.find? fun k => k.handle = 1).isSome = true ∧
       (s.graph? 1).isSome = true) ∧
    (let s := wReplaying (wReplay [.waiting, .waiting, .waiting, .waiting, .waiting])
     ∀ p ∈ [(0, 5), (2, 2), (3, 3), (4, 4)], (s.graphOf 1).any (fun e => (e.2.nodes[p.1]?).any (fun x => decide (x.kind = p.2)) && s.nodeReady 1 e.1 e.2 p.1 &&
       decide (e.1.nodes[p.1]? ≠ some .running)) = true) ∧
    (let s := wReplaying (wReplay [.done, .waiting, .waiting, .waiting, .waiting])
     (s.graphOf 1).any (fun e => (e.2.nodes[1]?).any (fun x => decide (x.kind = 1)) && s.nodeReady 1 e.1 e.2 1) = true) ∧
    (let s := wReplaying (wReplay [.done, .skipped, .waiting, .waiting, .waiting])
     (s.graphOf 1).any (fun e => decide (e.1.nodes[1]? = some .skipped ∧ ∀ p ∈ e.2.preds 1, e.1.nodes[p]? = some .done)) = true) ∧
    (wAccepts (wAccept 0x5000) true = true ∧ wAccepts (wAccept 0x5040) false = true) ∧
    (let l := { wLaunch with variants := [wVar 0], status := .placing, next := 0, placed := [] }
     let s := { wGraphs with launches := [(1, l)], blocks := [] }
     (s.placePlan 1 l).any (fun p => !s.queueBefore l.prio l.queue && !s.tasksFirst 1 l p.2 && !(s.wakeFor p.2).2) = true) ∧
    (wLaunch.status = .placed ∧ State.reset.launchDone 1 wLaunch = true ∧ State.reset.endingDone 1 = true) ∧
    ((∀ n ∈ (wReplay [.done, .done]).nodes, n = .done) ∧ (∀ n ∈ (wReplay [.done, .dead]).nodes, n = .done ∨ n = .dead)) := by decide +kernel

/-- A block of variant 0 that stops for a pre-emption, with a save area at 1 MiB. -/
def wStopping (st : Option Stop) : State :=
  { wMem wImage with
    ctxs := [(1, { Ctx.absent with ptbase := 0x1810000000, saveBase := 0x100000, saveSize := 0x100000 })]
    blocks := [(1, { wBlock with var := wVar 0, mtx := none, stop := st, waves := [(0, { wWave with pc := [(0, 0x3000), (1, 0x3000)] })] })] }
/-- The machine with such a block, exited, saved, and a request for its image with an action. -/
def wSaved (action : Nat) : State :=
  let s := wStopping (some ⟨0x30, [], none, 0⟩)
  match execExitedBlockImage 1 { s with blocks := Table.map (fun _ x => { x with exited := true, waves := [] }) s.blocks } with
  | .next t => { t with disp := { t.disp with requests := t.images.map fun i => ⟨i.addr, action, false, none, none⟩ } }
  | _ => State.reset

/-- A block of class 1, shed at 0, with its wave as given, 250 µs later. -/
def wShed (y : Wave) : State :=
  { wRun wBlock y with
    launches := [(1, { wLaunch with pclass := 1 })], power := { Power.reset with shed := 3 }, time := { TimePort.reset with now := 250000 } }

/-- A stopping block at its boundary, an exited one, one of a shed class at a barrier since before 250 µs and one that is not, a record for
the fault ring, and one whose place in it has an uncorrectable error. -/
theorem witness_StopAndSaveEvents :
    (let s := wStopping (some ⟨0x30, [], none, 0⟩)
     (s.block? 1).any (fun x => x.stop.isSome && !x.exited && s.atBoundary 1 x) = true) ∧
    (let s := wRun { wBlock with exited := true, stop := some ⟨0x30, [], none, 0⟩ } { wWave with living := 0 }
     (s.block? 1).any (fun x => x.stop.isSome && x.exited && s.exitedQuiet 1 x) = true) ∧
    State.reset.disp.requests.length < 64 ∧
    (let s := wShed { wWave with wait := some (.barw 0 1 1), since := some 249999 }
     (s.block? 1).any (fun x => s.shedBlock x && s.atBarrier x) = true) ∧
    (let s := wShed { wWave with wait := some (.barw 0 1 1), since := some 250000 }
     (s.block? 1).any (fun x => s.shedBlock x && decide (s.forceAt x ≤ s.now) && !s.atBarrier x && !x.exited && x.stop.isNone) = true) ∧
    (∀ bad ∈ [false, true],
     let s := { State.reset with memErr := if bad then [(0x1800200000 / 64, true)] else [], dies := [(1, { Die.reset 1 with
       ringBase := some 0x1800200000, waiting := [State.reset.recordB wBlock 0x0B 0 1 0 0 0 0] })] }
     (s.die 1).ringBase = some 0x1800200000 ∧ (firstRecord (s.die 1).waiting).any (fun p => s.recordAhead 1 p.2 = false) = true ∧
       (s.die 1).ringCount < 4096 ∧ s.ringFaults 1 (0x1800200000 + 64 * (s.die 1).ringCount) = bad ∧ (s.die 1).dayStopped = false) := by
  decide +kernel

/-- What the request at the head of the queue meets: its action, whether its image is in order, the image, whether its gang is asked for,
and whether there is a place that has power. -/
def wAsked (s : State) (a : Nat) (f : State → List (Request × Image) → Image → Bool) : Bool :=
  (s.disp.requests[0]?).any fun r => decide (r.action = a ∧ r.target = none) && (s.imageAt r.image).any fun i =>
    (s.gangRequests i).any fun l => f s l i
/-- A request that is served, and the state in which its places have power. -/
def wPlaced (s : State) (l : List (Request × Image)) (i : Image) : Bool :=
  s.placing && !s.requestBefore 0 && !s.launchAhead i && (s.restorePlaces l s.holders).any fun hs => !(s.wakeFor hs).2

/-- A request in order, and one whose image is not there; requests with each action, one for a pre-emption; a restore that is served, one
whose pair must wake, one that waits because placing is stopped, because its core has no room, or because no one has asked for a member of
its gang. -/
theorem witness_RestoreEvents :
    (∀ a ∈ [0, 1, 2, 3], let s := wSaved a
      (s.disp.requests[0]?).any (fun r => ({ s with disp := { s.disp with requests := [] } } : State).refusal r = 0) = true ∧
        (s.disp.requests[0]?).any (fun r => decide (r.action = a ∧ r.target = none) && (s.imageAt r.image).isSome) = true) ∧
    (State.reset.refusal ⟨0x40, 0, false, none, none⟩ ≠ 0 ∧ State.reset.imageAt 0x40 = none) ∧
    wAsked (wSaved 0) 0 wPlaced = true ∧
    (let s := { wSaved 0 with dies := [(1, { Die.reset 1 with gate := .gated })] }
     wAsked s 0 (fun s l i => s.placing && !s.requestBefore 0 && !s.launchAhead i && (s.restorePlaces l s.holders).any fun hs => (s.wakeFor hs).2) = true) ∧
    (let s := { wSaved 0 with fw := { Firmware.reset with training := some 0 } }
     s.placing = false) ∧
    (let s := { wSaved 0 with blocks := (allCores.map fun c => (c + 2, { wBlock with core := c, var := { Variant.widest with waves := 96 } })) }
     wAsked s 0 (fun s l _ => s.restorePlaces l s.holders = none) = true) ∧
    (let s := { wSaved 0 with disp := { (wSaved 0).disp with requests := [⟨0x40, 4, false, none, some (.block 1)⟩] } }
     s.images.all (fun i => (s.gangRequests i).isNone) = true ∧ (s.disp.requests[0]?).any (fun r => r.target.isSome) = true) := by
  and_intros <;> decide +kernel

/-- A die with a record of its monitor's, and one without. -/
theorem witness_DoubleFaultsTakeTheirDieOutOfService :
    (let s := { wRun wBlock wWave with dies := [(1, { Die.reset 1 with double := some (State.reset.recordB wBlock 0x0B 0 1 0 0 0 0) })] }
     (s.die 1).double.isSome = true ∧ (s.blocks.values.filter fun x => dieOf x.core = 1 ∧ !x.priv).length = 1) ∧
    (State.reset.die 1).double = none := by decide +kernel

/-- R166's own figures: at 1.20 GHz cycles 1 to 6 of a droop response take 10.0 ns and the 70 cycles of all of it 63.3 ns, against
58.3 ns without it. -/
theorem test_droop_stretches_six_cycles : let c := { Cluster.reset with mhz := 1200, droop := 1 }
    (c.advance 10000).cyc = 6 ∧ (c.advance 9999).cyc = 5 ∧ (c.advance 63334).cyc = 70 ∧
    (({ c with droop := 0 } : Cluster).advance 58334).cyc = 70 := by decide

/-- Clusters in and past their droop response, a pair in each state of gating, polls and their consequences, and the timer before and after
its first lock. -/
theorem witness_PowerAndTimeEvents :
    (¬((State.reset.cluster 0).droop ≠ 0 ∧ (State.reset.cluster 0).since < 6)) ∧
    (∀ now ∈ [49, 50], let s := { State.reset with time := { TimePort.reset with now := now } }
     decide (50 * ((s.die 0).sampled + 1) ≤ s.now) = (now == 50)) ∧
    (∀ ph ∈ [1, 2], ({ State.reset with host := { HostIf.reset with phase := ph } } : State).clockAbove 499 = true) ∧
    (let s := { wStopping (some ⟨0x32, [], none, 0⟩) with
       launches := [(1, { wLaunch with pclass := 1 })], power := { Power.reset with shed := 3 } }
     s.parksOpen 500000 = true ∧ s.parksOpen 499999 = false) ∧
    (let s := { State.reset with clusters := [(0, { Cluster.reset with droop := 1, cyc := 5 }), (1, { Cluster.reset with droop := 1, cyc := 70 })] }
     ((s.cluster 0).droop ≠ 0 ∧ (s.cluster 0).since < 6) ∧ (s.cluster 1).droop ≠ 0 ∧ 70 ≤ (s.cluster 1).since ∧ s.clockAbove 499 = true) ∧
    (let s := { State.reset with time := { TimePort.reset with now := 2000 } }
     (s.die 0).gate = .powered ∧ s.idle 0 = true ∧ (s.die 0).gateSince + 2000 ≤ s.now) ∧
    (let s := { State.reset with dies := [(0, { Die.reset 0 with gate := .gating }), (1, { Die.reset 1 with gate := .waking })],
                                 time := { TimePort.reset with now := 400 } }
     (s.die 0).gate = .gating ∧ (s.die 0).gateSince + 400 ≤ s.now ∧ (s.die 1).gate = .waking) ∧
    (let s := { State.reset with time := { TimePort.reset with now := 100000 } }
     100000 * (s.power.polled + 1) ≤ s.now ∧ (⟨true, 0, 0, 0⟩ : ShelfReading).ok = true ∧ s.power.en = false) ∧
    (let p := { Power.reset with en := true, lastPoll := some 400000, crossings := [0], allow := 600 }
     p.en = true ∧ p.lastPoll = some (0 + 400000) ∧ 0 ∈ p.crossings ∧ p.allow < { p with pm := 601 }.pm) ∧
    (let p := { Power.reset with stepAt := some 0, clamp := true, clampGood := 200 }
     p.stepAt = some 0 ∧ p.clamp = true ∧ 0 + 5000 ≤ ({ State.reset with time := { TimePort.reset with now := 5000 } } : State).now ∧
       p.allow < 2401 ∧ 200 ≤ p.clampGood) ∧
    (let p := { Power.reset with groups := [([3], 600)], groupGood := 200, shed := 1 }
     p.groups = ([3], 600) :: [] ∧ p.clamp = false ∧ 200 ≤ p.groupGood) ∧
    (let t := TimePort.reset
     t.lockedOnce = false ∧ t.now ≤ 0 ∧ t.valid = false ∧ ∀ n ∈ [1, 50, 51], 0 < { t with now := n }.now ∧ ({ t with now := n }.now ≤ 50 ↔ n ≠ 51)) ∧
    (let t := { TimePort.reset with lockedOnce := true, now := 1100000000, ppsin := true }
     t.lockedOnce = true ∧ (t.now ≤ 1100000000 + 50 ∧ 1100000000 ≤ t.now + 50) ∧ t.now + 50 < 1100000051 ∧ t.ppsin = true ∧
       t.lastEdge + 1100000000 ≤ t.now ∧ t.ppsOut < t.now / 1000000000) := by decide +kernel

/-- The mailbox with a message of a command, a length and a payload. -/
def wMail (c n : Nat) (payload : List Byte) : State :=
  { State.reset with host := { HostIf.reset with mboxBusy := true, mboxMsg := putBytes [] 0 (leBytes 2 c ++ leBytes 2 n ++ [0, 0, 0, 0] ++ payload) } }

/-- Each command at its length and at another, and commands the firmware does not have; an image at the end of the host's memory and one
past it (whether an image verifies is a free value), while flash is whole and while it is written; contexts and handles that exist and that
do not. -/
theorem witness_MailboxCommands :
    (∀ p ∈ [(1, 32), (2, 12), (3, 2), (4, 5), (5, 1), (5, 6), (6, 0), (0, 0), (7, 0), (1, 31), (2, 13), (3, 1),
        (4, 4), (5, 2), (6, 1)],
      let s := wMail p.1 p.2 []
      s.host.mboxBusy = true ∧ msgField s.host.mboxMsg 0 2 = p.1 ∧ msgField s.host.mboxMsg 2 2 = p.2) ∧
    (let s := wMail 3 2 [2, 1]
     (msgField s.host.mboxMsg 8 1 = 2 ∧ msgField s.host.mboxMsg 9 1 = 1) ∧ s.dieBusy 2 = false ∧ s.dieBusy s.disp.vd1 = false ∧
       s.dieBusy 1 = false ∧ s.dieBusy s.disp.vd2 = false) ∧
    (∀ n ∈ [1, 60000], msgField (wMail 4 5 (1 :: leBytes 4 n)).host.mboxMsg 9 4 = n) ∧
    (∀ n ∈ [16, 17], let m := (wMail 2 12 (leBytes 8 (2 ^ 47 - 16) ++ leBytes 4 n)).host.mboxMsg
     (n = 16 → msgField m 8 8 + msgField m 16 4 ≤ 2 ^ 47) ∧ (n = 17 → 2 ^ 47 < msgField m 8 8 + msgField m 16 4)) ∧
    (Firmware.reset.writing = none ∧ { Firmware.reset with writing := some [1] }.writing = some [1]) ∧
    (∀ p ∈ [[0, 1], [3, 1], [1, 0], [1, 3]], let m := (wMail 3 2 p).host.mboxMsg
     ¬(msgField m 8 1 = 1 ∨ msgField m 8 1 = 2) ∨ ¬(msgField m 9 1 = 1 ∨ msgField m 9 1 = 2)) ∧
    (let s := { wMail 3 2 [2, 1] with blocks := [(1, wBlock)] }
     msgField s.host.mboxMsg 8 1 ≠ s.disp.vd1 ∧ (s.dieBusy 2 = true ∨ s.dieBusy s.disp.vd1 = true)) ∧
    (∀ n ∈ [0, 60001], let m := (wMail 4 5 (1 :: leBytes 4 n)).host.mboxMsg
     msgField m 9 4 = 0 ∨ 60000 < msgField m 9 4) ∧
    (let s := { wMail 5 1 [1] with ctxs := wMapped.ctxs }
     (s.ctxs.find? (msgField s.host.mboxMsg 8 1)).isSome = true ∧ ((wMail 5 1 [2]).ctxs.find? 2).isNone = true ∧ s.disp.requests.length < 64) ∧
    (∀ h ∈ [1, 4095], msgField (wMail 5 6 (leBytes 2 h)).host.mboxMsg 8 2 = h) ∧
    (∀ h ∈ [0, 4096], msgField (wMail 5 6 (leBytes 2 h)).host.mboxMsg 8 2 = h) := by decide +kernel

/-- Dawn service with nothing begun, full service, copies over a bridge and to a peer, a store, a tile row and a ray that cross a
bridge, and a link failure that finds nothing on its way to the host. -/
theorem witness_ResetAndLinkEvents :
    (State.reset.host.phase = 1 ∧ State.reset.workDrained = true) ∧
    (let e := wEntry .cpy .running
     (((wCopying e).core 256).copies[0]?).any (fun e => e.plan.any (fun p => p.remote.isNone) && decide (e.phase ≠ .suspended)) = true ∧
       (wCopying e).reported 256 0x2C e.cmd = false) ∧
    (let e := { wEntry .cpy .running with plan := some { wPlan with remote := some 3 } }
     (((wCopying e).core 256).copies[0]?).any (fun e => e.plan.any (fun p => p.remote = some 3) && decide (e.phase ≠ .suspended)) = true ∧
       ∀ f, ({ wCopying e with fw := { Firmware.reset with peersUp := f } } : State).reported 256 0x2D e.cmd = false) ∧
    (((wFabric (wStore 4 0x1000 false)).core 256).fabric[0]?.any (fun f => f.e.kind.pa? = some 0x1000) = true ∧ execDie 0x1000 = some 0 ∧ 0 ≠ dieOf 256) ∧
    ((wRun wBlock wWave).block? 1).isSome = true ∧
    ((wAt { CoreSt.reset 256 with mat := some ⟨wCmd (.tmma wHdr ⟨0, 1, 2, 0, 0, 0, 0⟩), 0, 0, 1, none⟩ } wBlock wWave).core 256).mat.isSome = true ∧
    ((wRender (wCmd (.rayq wHdr ⟨0, 0, 0, 0, 0, 0, 0⟩))).core 0).rays[0]? = some (wCmd (.rayq wHdr ⟨0, 0, 0, 0, 0, 0, 0⟩)) ∧
    (bridgeTo 256 0x1000 = some 0 ∧ bridgeTo 0 0x1000 = none) ∧ ([1, 2, 4, 5, 6, 7].map fun f => (BitVec.ofNat 3 f).getLsbD 0 || (BitVec.ofNat 3 f).getLsbD 1) =
      [true, true, false, true, true, true] ∧
    (let s := wFabric (wStore 4 0x1000 false)
     (∀ e ∈ s.blocks, ∀ f ∈ e.2.waves, s.hostOpen e.1 f.1 e.2.core f.2 = false) ∧ ∀ c ∈ s.cores, ∀ e ∈ c.2.copies, e.onHost = false) := by
  refine ⟨by decide +kernel, by decide +kernel, ⟨by decide +kernel, fun f => ?_⟩, by and_intros <;> decide +kernel⟩
  show (false && _) = false
  rfl

/-- A well-formed syllable of each class; for EncodingInvertsDecoding the decode tests above have a word of every constructor. -/
theorem witness_DecodingInvertsEncoding :
    (∀ i ∈ [Instr.nop wHdr ⟨0, 0, 0, 0, 0, 0, 0, 0⟩, .vadd wHdr ⟨2, 0, 1, 0, 0, 0, 0, 0⟩, .ldw wHdr ⟨2, 0x82, 0, 1, 0, 0, 0, 0⟩,
       .spawn wHdr ⟨0, 0, 0, 0, 0x82, 0, 0⟩], i.wf = true ∧ (encode i).isSome = true) := by decide +kernel

/-- The threads of a wave stand at one PC, and nothing holds their bundle, which issues and ends in a next state; what decodes there is a
SADD alone. -/
def wRuns (s : State) (b w : Nat) : Bool :=
  (s.block? b).any fun x => (x.waves.find? w).any fun y => y.split.isNone && x.mayIssue y && decide (y.subsets = [0x1000]) &&
    match (s.setWave b w { y with esc := if y.esc = 256 then 0 else y.esc }).fetchBundle (x.seenBy y) 0x1000 with
    | (t, .ok ws) => (match decodeBundle x.priv x.budget y.rotb.toNat ws with
      | .ok is =>
        let u := t.begin b w (x.ctxOf y) (y.lanesAt 0x1000) 0x1000 ws.length
        decide ((u.parts x.core ws).length = 1) && (u.parts x.core ws).all (fun p => !p.isEmpty && s.slotsOpen x.core p) && u.env.any fun e => !e.heldBack is &&
          (match is with
           | [.sadd _ _] => true
           | _ => false) && match resultOf (is.map e.resolve) u with
            | .next v => !heldOut (.next v) b w && s.orderly (.next v)
            | _ => false
      | _ => false)
    | _ => false

/-- An event at the head of the agenda that completes, and one that reaches an address with nothing behind it; the next step issues a word
that stands at the PC of the one wave, SADD s3, s0, s0, alone, and so it does where that wave is the partner, and where a core without a
ready wave and a waiting wave of its own core come before it. -/
theorem witness_StepRunsTheDecodedInstruction :
    (∃ s : State, s.agenda = [.ppsInEdge] ∧ s.partner = none ∧
      exec .ppsInEdge { s with agenda := [] } = .next { s with agenda := [], time := { s.time with ppsin := true, lastEdge := s.time.now } }) ∧
    (match exec (.storePerform (.arrive 256 0)) (wFabric (wStore 4 0x6000000000 false)) with
      | .fault f => decide (f = .unbackedAddress 0x6000000000)
      | _ => false) = true ∧
    (let s := State.reset.withFetchWord 64 0x801020D008000000
     let s1 := { s with turn := false }
     s.agenda = [] ∧ s.partner = none ∧ s.readyLaunch = none ∧ s.turn = true ∧ s1.busyCores = [256] ∧ s1.coreMayIssue 256 = true ∧
     s1.tryOrder 256 = [(16, 1, 0)] ∧ s.placing = true ∧ (s.block? 1).all (fun x => x.stop.isNone) = true ∧
     wRuns (s1.modWave 1 0 fun y => { y with since := none }) 1 0 = true ∧
     wRuns (s.modWave 1 0 fun y => { y with since := none }) 1 0 = true) ∧
    (let y := { Wave.empty with living := 1, pc := [(0, 0x1000)] }
     let z := { y with wait := some (.barw 0 1 1) }
     let s := { State.reset.withFetchWord 64 0x801020D008000000 with
       steps := 1, turn := false
       blocks := [(1, { Block.placed with waves := [(0, z), (1, y)] }), (2, { Block.placed with core := 257, waves := [(0, z)] })] }
     s.busyCores = [257, 256] ∧ (match s.issueAny [257] with
      | (s2, none) => s2.coreMayIssue 256 && decide (s2.tryOrder 256 = [(16, 1, 0), (17, 1, 1)]) && match s2.issueFirst 256 [(16, 1, 0)] with
        | (s3, none) => s3.placing && wRuns (s3.modWave 1 1 fun y => { y with since := none }) 1 1
        | _ => false
      | _ => false) = true) := by
  refine ⟨⟨{ State.reset with agenda := [.ppsInEdge] }, rfl, rfl, rfl⟩, by decide +kernel, by decide +kernel, by decide +kernel⟩

/-- A bundle of wave 0 with what it has staged. -/
def wIssue (effs : List Eff) (raised : List Raise) (held : Bool) : State :=
  { wRun wBlock wWave with cur := some (wIu 3 effs raised held) }

/-- For HeldBundlesHaveNoEffect, FailedBundlesStop, CommitWritesTheStagedRegisters and BundlesChangeMemoryOnlyByDequeue: a bundle that is
held, one whose counters are full, one that failed in two slots, one that commits, and one with a DEQ. -/
theorem witness_bundle_ends :
    ((wIssue [] [] true).env).any (fun e => e.iu.held) = true ∧
    (let s := { wRun wBlock { wWave with ops := (List.range 255).map fun k => ⟨k, .ld, 1⟩ } with
       cur := some (wIu 3 [.load [] [] [] none] [] false) }
     (s.env).any (fun e => countersFull e.y e.iu.effs) = true) ∧
    (let s := wIssue [] [⟨1, 3, 0x0B, 0, 0, none, 0⟩, ⟨0, 0, 0x15, 0, 0, none, 0⟩] false
     (s.env).any (fun e => !e.iu.held && !countersFull e.y e.iu.effs && decide (e.iu.raised ≠ []) && (e.iu.raised.all fun r => decide (r.stage ≤ 1 ∧ r.slot < 5)) &&
       e.x.stop.isNone) = true) ∧
    (let s := wIssue [.setS 3 7, .setV 2 1 9, .setP 4 1, .setC 5 true, .setPc 1 0x2000, .setLoop 4] [] false
     (s.env).any (fun e => !e.iu.held && !countersFull e.y e.iu.effs && e.iu.raised.isEmpty && e.iu.effs.all Eff.onRegs) = true) ∧
    (let s := { wQueued [[1, 2]] with blocks := [(1, wBlock)] }
     (s.block? 1).isSome = true ∧ (s.queue? 7).any (fun n => n.packets = [[1, 2]]) = true) := by decide +kernel

/-- A class X command with its condition false, with the queue full, and of a wave that is not converged. -/
theorem witness_HeldBundlesHaveNoEffect :
    Seen (fun e => e.holds wOff = false) ∧ Seen (fun e => e.holds wHdr = true ∧ e.queueFull = true) ∧
    Seen (fun e => e.holds wHdr = true ∧ e.queueFull = false ∧ e.iu.lanes ≠ e.y.living) :=
  ⟨seen State.reset wBlock wWave 3 (by decide +kernel),
   seen (wCore { CoreSt.reset 256 with engineq := List.replicate 64 (wCmd (.ttrn wHdr ⟨0, 0, 0, 0, 0, 0, 0⟩)) }) wBlock wWave 3 (by decide +kernel),
   seen State.reset wBlock wWave 1 (by decide +kernel)⟩

/-- Waves that show no cause and one that shows one, in a block that runs, one that stops, and a privileged one. -/
theorem witness_ExceptionsSaveTheirCause :
    (∃ x y, (wRun wBlock wWave).block? 1 = some x ∧ x.waves.find? 0 = some y ∧ x.stop = none ∧ y.cause = 0) ∧
    (∃ x y, (wRun { wBlock with stop := some ⟨0x0B, [], none, 0⟩ } { wWave with cause := 0x0B }).block? 1 = some x ∧ x.waves.find? 0 = some y ∧
      x.stop.isSome = true ∧ y.cause ≠ 0) ∧
    (∃ x y, (wRun Block.placed wWave).block? 1 = some x ∧ x.waves.find? 0 = some y ∧ x.priv = true) :=
  ⟨⟨_, _, rfl, rfl, rfl, rfl⟩, ⟨_, _, rfl, rfl, rfl, by decide⟩, ⟨_, _, rfl, rfl, rfl⟩⟩

/-- One syllable alone in its bundle, with a specifier in the rotating region and with s0, p0 and c0 as destinations, in stochastic mode in
full service, and before an MFS of a special register of each width; and a split bundle with a middle and with a last part to issue. -/
theorem witness_RegisterInstructionFrames :
    (∃ s e, State.env s = some e ∧ Alone e wHdr ∧ e.issueSet wHdr = 3 ∧ e.phys 3 = 3) ∧
    (∃ s e, State.env s = some e ∧ Alone e wHdr ∧ e.x.var.rotv = 8 ∧ e.phys 7 = 0) ∧
    (∃ s e, State.env s = some e ∧ Alone e wHdr ∧ e.s.dawn = false ∧ modeCode ⟨2, 0, 1, 4, 0, 0, 0, 0⟩ = 4) ∧
    (∀ sr ∈ [0, 0x20, 0x33, 0x50], ∃ s e, State.env s = some e ∧ Alone e wHdr ∧ e.x.owner = true ∧ e.srBusy false sr = false) ∧
    (∀ l ∈ [[], [[4]]], let sp : Split := ⟨wIu 3 [.setS 3 7] [] false, [], none, [2] :: l, 1⟩
     let s := wRun wBlock { wWave with split := some sp }
     sp.left = [2] :: l ∧ sp.at' ≠ s.cycOf 256 ∧ countersFull wWave sp.iu.effs = false ∧ sp.iu.effs.all Eff.onRegs = true) :=
  ⟨⟨wHand State.reset wBlock wWave 3, _, rfl, by unfold Alone; decide +kernel, by decide +kernel, by decide +kernel⟩,
   ⟨wHand State.reset { wBlock with var := { Variant.widest with rotv := 8 } } { wWave with rotb := 1 } 3, _, rfl, by unfold Alone; decide +kernel,
    by decide +kernel, by decide +kernel⟩,
   ⟨wHand { State.reset with host := { HostIf.reset with phase := 2 } } wBlock wWave 3, _, rfl, by unfold Alone; decide +kernel, by decide +kernel,
    by decide +kernel⟩,
   fun sr h => ⟨wHand State.reset wBlock wWave 3, _, rfl, by unfold Alone; decide +kernel, by decide +kernel, by
     simp only [List.mem_cons, List.not_mem_nil, or_false] at h
     rcases h with rfl | rfl | rfl | rfl <;> decide +kernel⟩,
   by decide +kernel⟩

/-- For DecodedBundlesAreLegal and IllegalBundlesStop: a bundle of every class that passes, one without an end bit, one out of order, and one with a class that does not exist. -/
theorem witness_bundles :
    ((match decodeBundle false ⟨128, 384, 0⟩ 0 [0x001020D008000000, 0x9000008000100000] with
      | .ok is => decide (is.length = 2)
      | _ => false) = true) ∧
    (let s := wMem [(0x3000, 8, 0), (0x3008, 8, 0), (0x3010, 8, 0), (0x3018, 8, 0), (0x3100, 8, 0x1000000000000000), (0x3108, 8, 0x8000000000000000),
       (0x3200, 8, 0xC000000000000000)]
     ∀ p ∈ [(0x3000, 4, true), (0x3100, 2, true), (0x3200, 1, false)], (match s.fetchBundle wBlock (BitVec.ofNat 53 p.1) with
      | (_, .ok ws) => decide (ws.length = p.2.1) && (ws.all fun v => decide ((sylCls v).toNat ≤ 3)) == p.2.2
      | _ => false) = true) := by decide +kernel

theorem next_of {o : Out} (h : (match o with
    | .next _ => true
    | _ => false) = true) : ∃ t, o = .next t := by
  cases o with
  | next t => exact ⟨t, rfl⟩
  | fault f => cases h
  | refused r => cases h

/-- Memory in its canonical form before a step that answers a next state. -/
theorem witness_StepsKeepMemoryCanonical : Canonical (State.reset.withFetchWord 64 0x801020D008000000) ∧
    ∃ t, step (State.reset.withFetchWord 64 0x801020D008000000) = .next t :=
  ⟨by unfold Canonical; decide +kernel, next_of (by decide +kernel)⟩

end
end

section
/-! SUPPORT. What leaves physical memory as it is: the outcomes whose memory stands in its canonical form, the rules for a sequence
of updates, and one lemma per function of the model that writes no memory. -/

namespace Sys2Proof.Machine

/-- Where an outcome goes on, memory stands in its canonical form there. -/
def OutWf : Out → Prop
  | .next t => Memory.wf t.mem = true
  | .fault _ => True
  | .refused _ => True

@[simp] theorem outWf_next (t : State) : OutWf (.next t) ↔ Memory.wf t.mem = true := Iff.rfl

@[simp] theorem outWf_fault (f : Fault) : OutWf (.fault f) := trivial

@[simp] theorem outWf_refused (r : Refusal) : OutWf (.refused r) := trivial

/-- A row of the opcode table keeps the canonical form of memory. -/
def KeepsWf (f : State → Out) : Prop := ∀ {s : State}, Memory.wf s.mem = true → OutWf (f s)

/-! ## Sequences of updates -/

@[simp] theorem State.foldl_mem {α : Type} (f : State → α → State) (hf : ∀ s a, (f s a).mem = s.mem) (l : List α) (s : State) :
    (l.foldl f s).mem = s.mem :=
  State.foldl_keeps State.mem f hf l s

theorem State.wf_foldl {α : Type} {f : State → α → State}
    (hf : ∀ s a, Memory.wf s.mem = true → Memory.wf (f s a).mem = true) (l : List α) {s : State}
    (hs : Memory.wf s.mem = true) : Memory.wf (l.foldl f s).mem = true :=
  List.foldlRecOn (motive := fun s => Memory.wf s.mem = true) l f hs fun s h a _ => hf s a h

/-- The state that an update with a result comes to, where a match has named it. -/
theorem State.wf_fst {α : Type} {p : State × α} {t : State} {r : α} (e : p = (t, r)) (h : Memory.wf p.1.mem = true) :
    Memory.wf t.mem = true := by
  subst e
  exact h

/-! ## Functions that write no memory -/


section
variable (s : State)

/-! ### Memory -/

@[simp] theorem State.errorsFound_mem (pa n : Nat) : (s.errorsFound pa n).mem = s.mem := by simp [State.errorsFound]

/-! ### Image requests -/

@[simp] theorem State.firmwareAbort_mem (reason : Nat) (i : Option Image) : (s.firmwareAbort reason i).mem = s.mem := by
  unfold State.firmwareAbort
  split <;> simp

@[simp] theorem State.acceptRequest_mem (r : Request) : (s.acceptRequest r).mem = s.mem := by
  unfold State.acceptRequest
  dsimp only
  split <;> simp

/-! ### Walks and first touches -/

@[simp] theorem State.dropFrame_mem (lo hi : Nat) : (s.dropFrame lo hi).mem = s.mem := by simp [State.dropFrame]

/-! ### Stops, faults, effects and the end of a bundle -/

@[simp] theorem State.stopBlock_mem (b icause : Nat) (recs : List FaultRec) : (s.stopBlock b icause recs).mem = s.mem := by
  simp [State.stopBlock]

@[simp] theorem State.doubleFault_mem (die : Nat) (r : FaultRec) :
    (s.doubleFault die r).mem = s.mem := by simp [State.doubleFault]

@[simp] theorem State.stopWave_mem (b w cause : Nat) (flags : BitVec 4) (fmask : Word) (addr det : DWord) (num : Nat) :
    (s.stopWave b w cause flags fmask addr det num).mem = s.mem := by
  unfold State.stopWave
  (repeat' split) <;> simp

@[simp] theorem State.asyncFault_mem (b w cause : Nat) (flags : BitVec 4) (addr det : DWord) (num : Nat) :
    (s.asyncFault b w cause flags addr det num).mem = s.mem := by
  simp [State.asyncFault]

@[simp] theorem State.asyncBlock_mem (b cause : Nat) (flags : BitVec 4) (addr det : DWord) (num : Nat) :
    (s.asyncBlock b cause flags addr det num).mem = s.mem := by
  unfold State.asyncBlock
  (repeat' split) <;> simp

@[simp] theorem State.charge_mem (cause : Nat) (flags : BitVec 4) (ctx core : Nat) (addr det : DWord) (tag replay : Word) :
    (s.charge cause flags ctx core addr det tag replay).mem = s.mem := by
  simp [State.charge]

@[simp] theorem State.settleCohort_mem (launch k : Nat) : (s.settleCohort launch k).mem = s.mem := by
  unfold State.settleCohort
  dsimp only
  (repeat' split) <;> simp

@[simp] theorem State.settleCohorts_mem (launch : Nat) : (s.settleCohorts launch).mem = s.mem := by
  unfold State.settleCohorts
  split <;> simp

@[simp] theorem State.acquire_mem (core scope : Nat) : (s.acquire core scope).mem = s.mem := by
  unfold State.acquire
  split <;> simp

@[simp] theorem State.signal_mem (ctx n : Nat) (inc : Bool) (v : DWord) : (s.signal ctx n inc v).mem = s.mem := by
  unfold State.signal
  split <;> simp

@[simp] theorem State.deliver_mem (b w ctx : Nat) (handle : Word) (inc : Bool) (v : DWord) :
    (s.deliver b w ctx handle inc v).mem = s.mem := by
  unfold State.deliver
  dsimp only
  (repeat' split) <;> simp

@[simp] theorem State.noteTrigger_mem (b : Nat) : (s.noteTrigger b).mem = s.mem := by
  unfold State.noteTrigger
  (repeat' split) <;> simp

@[simp] theorem State.leaveHead_mem (b w : Nat) (x : Block) (q : StoreEntry) : (s.leaveHead b w x q).mem = s.mem := by
  unfold State.leaveHead
  split <;> simp

@[simp] theorem State.settleQueue_mem (b w n : Nat) : (s.settleQueue b w n).mem = s.mem :=
  (State.quiet_settleQueue s b w n).mem

@[simp] theorem State.settleCwbs_mem (b w : Nat) : (s.settleCwbs b w).mem = s.mem := by
  unfold State.settleCwbs
  split <;> simp

@[simp] theorem State.settleFence_mem (b w : Nat) : (s.settleFence b w).mem = s.mem := by
  unfold State.settleFence
  (repeat' split) <;> simp

@[simp] theorem State.badFault_mem (b w : Nat) (d : BadData) : (s.badFault b w d).mem = s.mem := by simp [State.badFault]

@[simp] theorem State.noteBad_mem (b w sid : Nat) (l : List BadData) : (s.noteBad b w sid l).mem = s.mem := by
  unfold State.noteBad
  dsimp only
  split <;> simp

@[simp] theorem State.settleBad_mem (b w : Nat) : (s.settleBad b w).mem = s.mem :=
  (State.quiet_settleBad s b w).mem

@[simp] theorem State.settle_mem (b : Nat) : (s.settle b).mem = s.mem := by
  unfold State.settle
  split <;> simp

@[simp] theorem State.settleCore_mem (n : Nat) : (s.settleCore n).mem = s.mem := by simp [State.settleCore]

@[simp] theorem State.enterEngine_mem (b w : Nat) (c : EngCmd) (ctr : Option Ctr) : (s.enterEngine b w c ctr).mem = s.mem := by
  unfold State.enterEngine
  (repeat' split) <;> simp

@[simp] theorem State.writeSr_mem (b w core ctx sr : Nat) (v : DWord) : (s.writeSr b w core ctx sr v).mem = s.mem := by
  simp [State.writeSr, apply_ite State.mem]

@[simp] theorem State.fillLines_mem (core : Nat) (lines : List Nat) (stream : Bool) :
    (s.fillLines core lines stream).mem = s.mem := by
  simp [State.fillLines, apply_ite State.mem]

@[simp] theorem State.dropLines_mem (core : Nat) (lines : List Nat) : (s.dropLines core lines).mem = s.mem := by
  simp [State.dropLines]

@[simp] theorem State.markStale_mem (core b : Nat) (ks : List StoreKind) : (s.markStale core b ks).mem = s.mem := by
  unfold State.markStale
  dsimp only
  split <;> simp

@[simp] theorem State.holdIssue_mem (iu : Issue) : (s.holdIssue iu).mem = s.mem := by simp [State.holdIssue]

@[simp] theorem State.raiseIssue_mem (iu : Issue) (r : Raise) (mask : BitVec 5) : (s.raiseIssue iu r mask).mem = s.mem := by
  simp [State.raiseIssue]

/-! ### Fetch -/

@[simp] theorem State.codeLine_mem (core ctx pa : Nat) : (s.codeLine core ctx pa).1.mem = s.mem := by
  unfold State.codeLine
  dsimp only
  (repeat' split) <;> simp

@[simp] theorem State.decodeStop_mem (b w cause : Nat) (mask : BitVec 5) (addr : DWord) (dinfo dval : Nat) :
    (s.decodeStop b w cause mask addr dinfo dval).mem = s.mem := by
  simp [State.decodeStop]

@[simp] theorem State.begin_mem (b w ctx : Nat) (lanes : Lanes) (here : PC) (len : Nat) :
    (s.begin b w ctx lanes here len).mem = s.mem := by
  simp [State.begin]

/-! ### Tasks and named queues -/

@[simp] theorem State.popEngine_mem (core : Nat) : (s.popEngine core).mem = s.mem := by simp [State.popEngine]

@[simp] theorem State.breakIdle_mem (die : Nat) : (s.breakIdle die).mem = s.mem := by simp [State.breakIdle]

@[simp] theorem State.pushFails_mem (e : Env) (detail q : Nat) : (s.pushFails e detail q).mem = s.mem := by simp [State.pushFails]

/-! ### Plans of copies -/

@[simp] theorem State.dropRanges_mem (core : Nat) (rs : List (Nat × Nat)) : (s.dropRanges core rs).mem = s.mem := by
  simp [State.dropRanges]

/-! ### Copies -/

@[simp] theorem State.setNode_mem (r n : Nat) (st : NStatus) : (s.setNode r n st).mem = s.mem := by simp [State.setNode]

@[simp] theorem State.freezeReady_mem (replay : Nat) : (s.freezeReady replay).mem = s.mem := by
  unfold State.freezeReady
  split <;> simp

@[simp] theorem State.abandonReplay_mem (replay : Nat) : (s.abandonReplay replay).mem = s.mem := by
  unfold State.abandonReplay
  split <;> simp

@[simp] theorem State.endNode_mem (r n cause : Nat) (flags : BitVec 4) (addr det : DWord) :
    (s.endNode r n cause flags addr det).mem = s.mem := by
  unfold State.endNode
  split <;> simp

@[simp] theorem State.suspendCtx_mem (b k : Nat) (v : Bool) : (s.suspendCtx b k v).mem = s.mem := by simp [State.suspendCtx]

@[simp] theorem State.engineFault_mem (c : EngCmd) (cause : Nat) (flags : BitVec 4) (addr det : DWord) :
    (s.engineFault c cause flags addr det).mem = s.mem := by
  unfold State.engineFault
  dsimp only
  (repeat' split) <;> simp

@[simp] theorem State.modCopy_mem (core k : Nat) (f : CopyEntry → CopyEntry) : (s.modCopy core k f).mem = s.mem := by
  simp [State.modCopy]

@[simp] theorem State.freeRelease_mem (core n : Nat) : (s.freeRelease core n).mem = s.mem := by
  unfold State.freeRelease
  split <;> simp

@[simp] theorem State.dropCopy_mem (core k : Nat) : (s.dropCopy core k).mem = s.mem := by simp [State.dropCopy]

@[simp] theorem State.copyFails_mem (core k : Nat) (e : CopyEntry) (cause : Nat) (flags : BitVec 4) (addr det : DWord) :
    (s.copyFails core k e cause flags addr det).mem = s.mem := by
  unfold State.copyFails
  split <;> simp

@[simp] theorem State.fragFails_mem (core k : Nat) (e : CopyEntry) (source : Bool) (resume : Nat) (w : EngStop) :
    (s.fragFails core k e source resume w).mem = s.mem := by
  unfold State.fragFails
  split <;> simp

@[simp] theorem State.forgetAll_mem (rs : List (Nat × Nat)) : (s.forgetAll rs).mem = s.mem := by simp [State.forgetAll]

@[simp] theorem State.reveal_mem (rs : List (Nat × Nat)) : (s.reveal rs).mem = s.mem := by simp [State.reveal]

@[simp] theorem State.sendFrag_mem (core k : Nat) (e : CopyEntry) (m : Nat) (runs : List (Int × Nat)) (resume : Nat) :
    (s.sendFrag core k e m runs resume).mem = s.mem := by
  unfold State.sendFrag
  split <;> simp

@[simp] theorem State.openDest_mem (core j : Nat) (dst src : List (Nat × Nat)) : (s.openDest core j dst src).mem = s.mem := by
  simp [State.openDest]

@[simp] theorem State.startCopy_mem (core j : Nat) (q : Runner) (c : EngCmd) (k : CopyKind) (p : Plan) :
    (s.startCopy core j q c k p).mem = s.mem := by
  simp [State.startCopy]

@[simp] theorem State.valueFails_mem (core j : Nat) (c : EngCmd) (f : ValueFail) : (s.valueFails core j c f).mem = s.mem := by
  simp [State.valueFails]

@[simp] theorem State.reserve_mem (c : EngCmd) (n : Int) : (s.reserve c n).mem = s.mem := by
  unfold State.reserve
  split <;> simp

/-! ### The base-die unit -/

@[simp] theorem State.answer_mem (c : EngCmd) (f : Nat → BitVec 128) : (s.answer c f).mem = s.mem := by
  unfold State.answer
  split <;> simp

@[simp] theorem State.postReply_mem (c : EngCmd) (w0 : Nat) : (s.postReply c w0).mem = s.mem := by simp [State.postReply]

/-! ### The copy engine -/

@[simp] theorem State.revealCopy_mem (e : CopyEntry) (abandoned : Bool) : (s.revealCopy e abandoned).mem = s.mem := by
  simp [State.revealCopy]

@[simp] theorem State.credit_mem (c : EngCmd) (b bar n : Nat) : (s.credit c b bar n).mem = s.mem := by
  unfold State.credit
  dsimp only
  (repeat' split) <;> simp

@[simp] theorem State.abandonSlot_mem (e : CopyEntry) : (s.abandonSlot e).mem = s.mem := by
  unfold State.abandonSlot
  split
  · rfl
  · rw [State.modCore_mem, State.forget_mem]

@[simp] theorem State.startBase_mem (core j : Nat) (q : Runner) (p : Plan) : (s.startBase core j q p).mem = s.mem := by
  simp [State.startBase]

@[simp] theorem State.ringAnswer_mem (core k : Nat) (e : CopyEntry) (q : Runner) : (s.ringAnswer core k e q).mem = s.mem := by
  unfold State.ringAnswer
  dsimp only
  (repeat' split) <;> simp

@[simp] theorem State.gateCopy_mem (core k : Nat) (e : CopyEntry) : (s.gateCopy core k e).mem = s.mem := by simp [State.gateCopy]

@[simp] theorem State.trimDest_mem (core k : Nat) (q : Runner) (p : Plan) : (s.trimDest core k q p).mem = s.mem := by
  unfold State.trimDest
  split <;> simp

/-! ### Rendering -/

@[simp] theorem State.renderFault_mem (c : EngCmd) (addr : Nat) : (s.renderFault c addr).mem = s.mem := by
  unfold State.renderFault
  split <;> simp

@[simp] theorem State.pushFrags_mem (core n : Nat) : (s.pushFrags core n).mem = s.mem := by
  induction n generalizing s with
  | zero => rfl
  | succ n ih =>
    unfold State.pushFrags
    split
    · rfl
    · split
      · rfl
      · simp [ih]

@[simp] theorem State.leaveRender_mem (core : Nat) (c : EngCmd) :
    (s.leaveRender core c).mem = s.mem := by simp [State.leaveRender]

@[simp] theorem State.dropRay_mem (core k : Nat) : (s.dropRay core k).mem = s.mem := by simp [State.dropRay]

@[simp] theorem State.leaveRayq_mem (core : Nat) (c : EngCmd) (x : Block) : (s.leaveRayq core c x).mem = s.mem := by
  unfold State.leaveRayq
  dsimp only
  (repeat' split) <;> simp

/-! ### Accesses that arrive -/

@[simp] theorem State.updateLine_mem (core ctx pa : Nat) (bs : List Byte) (clears : List Nat) :
    (s.updateLine core ctx pa bs clears).mem = s.mem := by
  simp [State.updateLine]

@[simp] theorem State.clearPoison_mem (l : List Nat) : (s.clearPoison l).mem = s.mem := by simp [State.clearPoison]

@[simp] theorem State.sendFabric_mem (b w : Nat) (x : Block) (q : StoreEntry) (pa : Nat) :
    (s.sendFabric b w x q pa).mem = s.mem := by
  simp [State.sendFabric]

@[simp] theorem State.dropFabric_mem (core k : Nat) : (s.dropFabric core k).mem = s.mem := by simp [State.dropFabric]

@[simp] theorem State.answerAtomic_mem (f : FabricEntry) (n lane old : Nat) (dst : Option Nat) (bad : List BadData) :
    (s.answerAtomic f n lane old dst bad).mem = s.mem := by
  unfold State.answerAtomic
  split <;> simp

@[simp] theorem State.hostAtomicFails_mem (core k : Nat) (f : FabricEntry) (pa n lane : Nat) (dst : Option Nat) (status : Nat) :
    (s.hostAtomicFails core k f pa n lane dst status).mem = s.mem := by
  simp [State.hostAtomicFails]

@[simp] theorem State.poisonLine_mem (line : Nat) : (s.poisonLine line).mem = s.mem := by simp [State.poisonLine]

@[simp] theorem State.damage_mem (e : SramError) : (s.damage e).mem = s.mem := by
  unfold State.damage
  dsimp only
  split <;> simp

@[simp] theorem State.scratchError_mem (pa : Nat) : (s.scratchError pa).mem = s.mem := by
  unfold State.scratchError
  dsimp only
  split <;> simp

/-! ### The matrix engine -/

@[simp] theorem State.afterLoad_mem (core : Nat) (c : EngCmd) : (s.afterLoad core c).mem = s.mem := by simp [State.afterLoad]

@[simp] theorem State.readSram_mem (b : Nat) (c : EngCmd) : (s.readSram b c).1.mem = s.mem := by
  simp [State.readSram]

@[simp] theorem State.setMtx_mem (b : Nat) (m : Matrix) : (s.setMtx b m).mem = s.mem := by simp [State.setMtx]

@[simp] theorem State.toVector_mem (b w : Nat) (c : EngCmd) (f : Nat → Word) : (s.toVector b w c f).mem = s.mem := by
  simp [State.toVector]

@[simp] theorem State.takeJob_mem (core : Nat) : (s.takeJob core).1.mem = s.mem := by
  unfold State.takeJob
  (repeat' split) <;> simp

@[simp] theorem State.spoilRows_mem (b : Nat) (c : EngCmd) : (s.spoilRows b c).mem = s.mem := by
  unfold State.spoilRows
  split <;> simp

@[simp] theorem State.matrixFault_mem (b w : Nat) (f : DataFault) : (s.matrixFault b w f).mem = s.mem := by
  unfold State.matrixFault
  dsimp only
  split <;> simp

/-! ### Page-table updates -/

@[simp] theorem State.shootdown_mem (ctx va n : Nat) : (s.shootdown ctx va n).mem = s.mem := by simp [State.shootdown]

@[simp] theorem State.pinNew_mem (r : TableReq) : (s.pinNew r).mem = s.mem := by
  unfold State.pinNew
  split <;> simp

@[simp] theorem State.unpinOld_mem (r : TableReq) : (s.unpinOld r).mem = s.mem := by
  unfold State.unpinOld
  split <;> simp

@[simp] theorem State.ackUpdates_mem : s.ackUpdates.mem = s.mem := by simp [State.ackUpdates]

/-! ### Placement -/

@[simp] theorem State.holdBack_mem (launch : Nat) : (s.holdBack launch).mem = s.mem := by simp [State.holdBack]

@[simp] theorem State.taken_mem (h : Holder) : (s.taken h).mem = s.mem := by simp [State.taken]

@[simp] theorem State.occupy_mem (h : Holder) : (s.occupy h).mem = s.mem := by simp [State.occupy]

@[simp] theorem State.startBlock_mem (h : Holder) (x : Block) : (s.startBlock h x).mem = s.mem := by simp [State.startBlock]

@[simp] theorem State.startMember_mem (launch : Nat) (l : Launch) (b : Nat) (h : Holder) :
    (s.startMember launch l b h).mem = s.mem := by
  simp [State.startMember]

@[simp] theorem State.startMembers_mem (launch : Nat) (l : Launch) (ps : List (Nat × Holder)) :
    (ps.foldl (fun s p => s.startMember launch l p.1 p.2) s).mem = s.mem := by
  induction ps generalizing s with
  | nil => rfl
  | cons p ps ih => rw [List.foldl_cons, ih, State.startMember_mem]

@[simp] theorem State.wakeFor_mem (hs : List Holder) : (s.wakeFor hs).1.mem = s.mem := by
  simp [State.wakeFor, apply_ite State.mem]

/-! ### The host port -/

@[simp] theorem State.modHost_mem (f : HostIf → HostIf) : (s.modHost f).mem = s.mem := by simp [State.modHost]

@[simp] theorem State.grRefuse_mem (handle reason : Nat) : (s.grRefuse handle reason).mem = s.mem := by simp [State.grRefuse]

@[simp] theorem State.unregister_mem (h : Nat) : (s.unregister h).mem = s.mem := by
  unfold State.unregister
  (repeat' split) <;> simp

@[simp] theorem State.answerMbox_mem (cmd status seq : Nat) (payload : List Byte) :
    (s.answerMbox cmd status seq payload).mem = s.mem := by
  simp [State.answerMbox]

@[simp] theorem State.doorbell_mem : s.doorbell.mem = s.mem := by
  unfold State.doorbell
  dsimp only
  split <;> simp

/-! ### Task graphs -/

@[simp] theorem State.beginReplay_mem (g : Graph) (k : Kick) (deadline : Nat) : (s.beginReplay g k deadline).mem = s.mem := by
  simp [State.beginReplay]

@[simp] theorem State.nodeWait_mem (replay n : Nat) (g : Graph) (x : Node) : (s.nodeWait replay n g x).mem = s.mem := by
  unfold State.nodeWait
  split <;> simp

@[simp] theorem State.nodeSignal_mem (replay n : Nat) (g : Graph) (x : Node) : (s.nodeSignal replay n g x).mem = s.mem := by
  unfold State.nodeSignal
  dsimp only
  (repeat' split) <;> simp

@[simp] theorem State.enterLaunch_mem (replay node : Nat) (r : Replay) (g : Graph) (x : Node) (l : Launch) :
    (s.enterLaunch replay node r g x l).mem = s.mem := by
  simp [State.enterLaunch]

@[simp] theorem State.signalDone_mem (l : Launch) (h : Word) : (s.signalDone l h).mem = s.mem := by
  unfold State.signalDone
  dsimp only
  (repeat' split) <;> simp

/-! ### Task waves -/

@[simp] theorem State.openTasks_mem (launch : Nat) (n : Int) : (s.openTasks launch n).mem = s.mem := by simp [State.openTasks]

@[simp] theorem State.fragEnds_mem (f : Nat × Nat × Nat) : (s.fragEnds f).mem = s.mem := by simp [State.fragEnds]

@[simp] theorem State.foldl_fragEnds_mem (l : List (Nat × Nat × Nat)) : (l.foldl State.fragEnds s).mem = s.mem :=
  State.foldl_mem _ State.fragEnds_mem l s

@[simp] theorem State.discardPackets_mem (core entry sub : Nat) : (s.discardPackets core entry sub).mem = s.mem := by
  unfold State.discardPackets
  dsimp only
  rw [State.foldl_mem _ fun _ _ => State.charge_mem ..,
    State.foldl_mem _ fun _ _ => by simp only [State.foldl_fragEnds_mem, State.openTasks_mem], State.modCore_mem]

@[simp] theorem State.startTask_mem (h : Holder) (l : Launch) (launch : Nat) (ps : List Packet) :
    (s.startTask h l launch ps).mem = s.mem := by
  simp [State.startTask]

@[simp] theorem State.takeTail_mem (core victim : Nat) : (s.takeTail core victim).mem = s.mem := by
  unfold State.takeTail
  dsimp only
  split <;> simp

@[simp] theorem State.noteExit_mem (launch blin : Nat) (task : Bool) (frags : List (Nat × Nat × Nat)) :
    (s.noteExit launch blin task frags).mem = s.mem := by
  unfold State.noteExit
  split <;> simp

@[simp] theorem State.enterExit_mem (x : Block) : (s.enterExit x).mem = s.mem := by simp [State.enterExit]

/-! ### Saving a block -/

@[simp] theorem State.withdrawCopies_mem (core b : Nat) (st : Stop) : (s.withdrawCopies core b st).mem = s.mem := by
  simp [State.withdrawCopies]

@[simp] theorem State.recallRays_mem (core b : Nat) : (s.recallRays core b).mem = s.mem := by simp [State.recallRays]

@[simp] theorem State.handOver_mem (rs : List FaultRec) (image : Nat) : (s.handOver rs image).mem = s.mem :=
  State.foldl_mem _ (fun _ _ => State.report_mem ..) rs s

@[simp] theorem State.countPark_mem (b : Nat) (x : Block) (icause : Nat) : (s.countPark b x icause).mem = s.mem := by
  unfold State.countPark
  (repeat' split) <;> simp

@[simp] theorem State.leaveCore_mem (b : Nat) (x : Block) : (s.leaveCore b x).mem = s.mem := by simp [State.leaveCore]

@[simp] theorem State.askMigration_mem (addr : Nat) (st : Stop) : (s.askMigration addr st).mem = s.mem := by
  unfold State.askMigration
  split <;> simp

@[simp] theorem State.endForcing_mem : s.endForcing.mem = s.mem := by simp [State.endForcing]

@[simp] theorem State.carryPoison_mem (old new n : Nat) : (s.carryPoison old new n).mem = s.mem := by simp [State.carryPoison]

@[simp] theorem State.readOut_mem (b : Nat) (x : Block) : (s.readOut b x).mem = s.mem := by
  simp [State.readOut]

@[simp] theorem State.askStop_mem (b icause : Nat) : (s.askStop b icause).mem = s.mem := by
  unfold State.askStop
  (repeat' split) <;> simp

@[simp] theorem State.preempt_mem (bs : List Nat) : (s.preempt bs).mem = s.mem := by simp [State.preempt]

@[simp] theorem State.askPreempt_mem (t : PreemptTarget) : (s.askPreempt t).mem = s.mem := by
  unfold State.askPreempt
  split <;> simp

@[simp] theorem State.shedPark_mem (b : Nat) : (s.shedPark b).mem = s.mem := by
  unfold State.shedPark
  (repeat' split) <;> simp

@[simp] theorem State.shedForced_mem (b : Nat) : (s.shedForced b).mem = s.mem := by
  unfold State.shedForced
  (repeat' split) <;> simp

/-! ### Restoring a block -/

@[simp] theorem State.abandonSaved_mem (e : CopyEntry) : (s.abandonSaved e).mem = s.mem := by
  unfold State.abandonSaved
  (repeat' split) <;> simp

@[simp] theorem State.discardCommand_mem (c : EngCmd) : (s.discardCommand c).mem = s.mem := by
  unfold State.discardCommand
  (repeat' split) <;> simp

@[simp] theorem State.killImage_mem (i : Image) : (s.killImage i).mem = s.mem := by
  unfold State.killImage
  split <;> simp

@[simp] theorem State.dropPackets_mem (launch : Nat) : (s.dropPackets launch).mem = s.mem := by
  unfold State.dropPackets
  exact State.foldl_mem _ (fun _ _ => by simp only [State.openTasks_mem, State.foldl_fragEnds_mem]) _ _

@[simp] theorem State.dropRequest_mem (k : Nat) : (s.dropRequest k).mem = s.mem := by simp [State.dropRequest]

@[simp] theorem State.copyResumed_mem (x : Block) (k resume : Nat) : (s.copyResumed x k resume).mem = s.mem := by
  simp [State.copyResumed]

@[simp] theorem State.resumeEmpty_mem (x : Block) (ks : List Byte) (copies : List CopyEntry) :
    (s.resumeEmpty x ks copies).mem = s.mem := by
  simp [State.resumeEmpty, apply_ite State.mem]

@[simp] theorem State.noteRemap_mem (i : Image) (core : Nat) : (s.noteRemap i core).mem = s.mem := by
  unfold State.noteRemap
  split <;> simp

@[simp] theorem State.noteMove_mem (i : Image) (r : Request) (core : Nat) : (s.noteMove i r core).mem = s.mem := by
  unfold State.noteMove
  split <;> simp

/-! ### Variant switches -/

@[simp] theorem State.switchFails_mem (b : Nat) (x : Block) (cond id : Nat) : (s.switchFails b x cond id).mem = s.mem := by
  unfold State.switchFails
  split <;> simp

/-! ### Power -/

@[simp] theorem State.event_mem (cause : Nat) (det : DWord) : (s.event cause det).mem = s.mem := by simp [State.event]

@[simp] theorem State.clocks_mem (f : Nat → Nat) : (s.clocks f).mem = s.mem :=
  State.foldl_mem _ (fun _ _ => State.setCluster_mem ..) _ s

@[simp] theorem State.shedClasses_mem (cs : List Nat) (at' : Nat) : (s.shedClasses cs at').mem = s.mem := by
  simp [State.shedClasses]

@[simp] theorem State.cross_mem (at' : Nat) : (s.cross at').mem = s.mem := by
  unfold State.cross
  dsimp only
  split <;> simp

/-! ### The time port -/

@[simp] theorem State.shiftWaits_mem (d : Nat) : (s.shiftWaits d).mem = s.mem := by simp [State.shiftWaits]

/-! ### Firmware -/

@[simp] theorem State.mboxDone_mem (status : Nat) (payload : List Byte) : (s.mboxDone status payload).mem = s.mem := by
  simp [State.mboxDone]

@[simp] theorem State.enterService_mem (failed : BitVec 3) : (s.enterService failed).mem = s.mem := by
  unfold State.enterService
  dsimp only
  (repeat' split) <;> simp

@[simp] theorem State.linkFails_mem (core k cause : Nat) (e : CopyEntry) (det : DWord) :
    (s.linkFails core k cause e det).mem = s.mem := by
  unfold State.linkFails
  (repeat' split) <;> simp

@[simp] theorem State.loseAccess_mem (core k : Nat) (f : FabricEntry) : (s.loseAccess core k f).mem = s.mem := by
  unfold State.loseAccess
  (repeat' split) <;> simp

@[simp] theorem State.loseRow_mem (core row : Nat) (j : MatJob) : (s.loseRow core row j).mem = s.mem := by
  unfold State.loseRow
  (repeat' split) <;> simp

@[simp] theorem State.loseRequest_mem (f : FabricEntry) : (s.loseRequest f).mem = s.mem := by
  unfold State.loseRequest
  (repeat' split) <;> simp

@[simp] theorem State.loseHost_mem (b : Nat) (x : Block) : (s.loseHost b x).mem = s.mem := by simp [State.loseHost]

/-! ### The scheduler -/

@[simp] theorem State.noteHeld_mem (t : State) (b w : Nat) : (s.noteHeld t b w).mem = t.mem := by
  unfold State.noteHeld
  split <;> simp

@[simp] theorem State.storesAfter_mem (b w n : Nat) (ahead : Option (Nat × Nat × Nat)) :
    (s.storesAfter b w n ahead).mem = s.mem := by
  unfold State.storesAfter
  split <;> simp

@[simp] theorem State.noteIdle_mem : s.noteIdle.mem = s.mem := by
  simp [State.noteIdle, apply_ite State.mem]

@[simp] theorem State.noteGrowth_mem : s.noteGrowth.mem = s.mem := by simp [State.noteGrowth]

@[simp] theorem State.withdrawLate_mem : s.withdrawLate.mem = s.mem := by simp [State.withdrawLate]

@[simp] theorem State.parkAll_mem : s.parkAll.mem = s.mem := by
  unfold State.parkAll
  split <;> simp

@[simp] theorem State.forceAll_mem : s.forceAll.mem = s.mem := by
  unfold State.forceAll
  split <;> simp

end

end Sys2Proof.Machine
end

section
/-! SUPPORT. What writes physical memory: one lemma per function of the model that comes to State.write, State.writeNum, State.zero
or State.postEvent. Each keeps the canonical form of memory, since these four do. -/

namespace Sys2Proof.Machine

section
variable {s : State} (hs : Memory.wf s.mem = true)
include hs

/-! ### Walks and first touches -/

theorem State.wf_writeEntry {master : Nat} {e : DWord} : Memory.wf (s.writeEntry master e).mem = true := by
  unfold State.writeEntry
  grind [State.wf_writeNum]

theorem State.wf_firstTouch {d level : Nat} {e : DWord} {master : Nat} :
    Memory.wf (s.firstTouch d level e master).1.mem = true := by
  unfold State.firstTouch
  dsimp only
  split
  · exact hs
  · split
    · exact hs
    · rw [State.dropFrame_mem]
      exact State.wf_foldl (fun _ _ h => State.wf_writeEntry h) _ (by simpa using hs)

theorem State.wf_translate {d : Nat} {core : Option Nat} {ctx va : Nat} {k : XKind} :
    Memory.wf (s.translate d core ctx va k).1.mem = true := by
  unfold State.translate
  (repeat' split) <;> grind [State.modCore_mem, State.wf_firstTouch]

theorem State.wf_address {x : Block} {space : Nat} {base : Int} {tile n align : Nat} {k : XKind} :
    Memory.wf (s.address x space base tile n align k).1.mem = true := by
  unfold State.address
  dsimp only
  (repeat' split) <;> simp [hs, State.wf_translate]

/-! ### Stops, faults, effects and the end of a bundle -/

theorem State.wf_dequeue {b : Nat} {x : Block} {ctx q offset : Nat} : Memory.wf (s.dequeue b x ctx q offset).mem = true := by
  unfold State.dequeue
  (repeat' split) <;> simp [hs, State.wf_write]

theorem State.wf_applyEff {iu : Issue} {f : Eff} : Memory.wf (s.applyEff iu f).mem = true := by
  unfold State.applyEff
  dsimp only
  (repeat' split) <;> simp [hs, State.wf_dequeue]

theorem State.wf_applyEffs {iu : Issue} {l : List Eff} :
    Memory.wf (l.foldl (fun s f => s.applyEff iu f) s).mem = true :=
  State.wf_foldl (fun _ _ h => State.wf_applyEff h) l hs

theorem State.wf_commit {iu : Issue} : Memory.wf (s.commit iu).mem = true := by
  simp [State.commit, apply_ite State.mem, State.wf_applyEffs, hs]

theorem State.wf_bindTouched {e : Env} : Memory.wf (s.bindTouched e).mem = true :=
  State.wf_foldl (fun _ _ h => State.wf_translate h) e.iu.touch hs

theorem State.wf_finish : Memory.wf s.finish.mem = true := by
  unfold State.finish
  (repeat' split) <;> simp [hs, State.wf_commit, State.wf_bindTouched]

theorem State.wf_stageSyl {last : Bool} {iu : Issue} {slot : Nat} {a : Act} :
    Memory.wf (s.stageSyl last iu slot a).mem = true := by
  unfold State.stageSyl
  split <;> simp [hs, State.wf_finish]

theorem State.outWf_issued {h : Hdr} {iu : Issue} {slot : Nat} {a : Act} : OutWf (s.issued h iu slot a) :=
  State.wf_stageSyl hs

/-! ### Fetch -/

theorem State.wf_fetchSyl {core ctx va : Nat} : Memory.wf (s.fetchSyl core ctx va).1.mem = true := by
  unfold State.fetchSyl
  (repeat' split) <;> grind [State.wf_translate, State.codeLine_mem, State.errorFound_mem]

theorem State.wf_fetchFrom {core ctx va n : Nat} : Memory.wf (s.fetchFrom core ctx va n).1.mem = true := by
  induction n generalizing s va with
  | zero => exact hs
  | succ n ih =>
    unfold State.fetchFrom
    (repeat' split) <;> grind [State.wf_fetchSyl]

theorem State.wf_fetchBundle {x : Block} {pc : PC} : Memory.wf (s.fetchBundle x pc).1.mem = true := by
  simp [State.fetchBundle, hs, State.wf_fetchFrom]

/-! ### Places of a memory access -/

theorem State.wf_placesOf {x : Block} {sp n : Nat} {k : XKind} {more : Place → Option XFault} {addr : Nat → Int × Nat}
    {uniform : Bool} {ls : List Nat} : Memory.wf (s.placesOf x sp n k more addr uniform ls).1.mem = true := by
  induction ls generalizing s with
  | nil => exact hs
  | cons l ls ih =>
    unfold State.placesOf
    (repeat' split) <;> grind [State.wf_address]

/-! ### Plans of copies -/

theorem State.wf_reach {q : Runner} {space tile : Nat} {off : Int} {n : Nat} {k : XKind} :
    Memory.wf (s.reach q space tile off n k).1.mem = true := by
  unfold State.reach
  (repeat' split) <;> grind [State.wf_translate, State.wf_address]

theorem State.wf_placeAll {q : Runner} {space tile : Nat} {k : XKind} {l : List (Int × Nat)} :
    Memory.wf (s.placeAll q space tile k l).1.mem = true := by
  induction l generalizing s with
  | nil => exact hs
  | cons p l ih =>
    unfold State.placeAll
    (repeat' split) <;> grind [State.wf_reach]

theorem State.wf_readRuns {q : Runner} {space tile : Nat} {runs : List (Int × Nat)} :
    Memory.wf (s.readRuns q space tile runs).1.mem = true := by
  have placed := State.wf_placeAll hs (q := q) (space := space) (tile := tile) (k := .engine) (l := piecesOf runs)
  unfold State.readRuns
  dsimp only
  split
  · next e => exact State.wf_fst e placed
  · next e => split <;> simp [apply_ite State.mem, State.wf_fst e placed]

theorem State.wf_writePlaces {ctx : Nat} {l : List (Nat × Nat)} {bs : List Byte} :
    Memory.wf (s.writePlaces ctx l bs).mem = true := by
  induction l generalizing s bs with
  | nil => exact hs
  | cons p l ih => exact ih (State.wf_write _ _ _ _ hs)

theorem State.wf_readLayout {q : Runner} {addr : DWord} : Memory.wf (s.readLayout q addr).1.mem = true := by
  unfold State.readLayout
  (repeat' split) <;> grind [State.wf_readRuns]

/-! ### Copies -/

theorem State.wf_planCopy {q : Runner} {c : EngCmd} {k : CopyKind} {o : FmtE} : Memory.wf (s.planCopy q c k o).1.mem = true := by
  unfold State.planCopy
  (repeat' split) <;> grind [State.wf_readLayout]

theorem State.wf_sourceMask {q : Runner} {p : Plan} {c : EngCmd} : Memory.wf (s.sourceMask q p c).1.mem = true := by
  unfold State.sourceMask
  (repeat' split) <;> grind [State.wf_readRuns]

theorem State.wf_ownRead {α : Type} {own : List (Nat × Nat)} {f : State → State × α}
    (hf : ∀ {u : State}, Memory.wf u.mem = true → Memory.wf (f u).1.mem = true) : Memory.wf (s.ownRead own f).1.mem = true := by
  unfold State.ownRead
  split
  · exact hf hs
  · simpa using hf (u := s.reveal own) (by simpa using hs)

theorem State.wf_readFrag {q : Runner} {p : Plan} {c : EngCmd} {own : List (Nat × Nat)} {mask : List Bool} {f : Frag} :
    Memory.wf (s.readFrag q p c own mask f).1.mem = true := by
  unfold State.readFrag
  grind [State.wf_ownRead, State.wf_readRuns]

theorem State.wf_placeRuns {l : Layout} {runs : List (Int × Nat)} {qs : List Runner} :
    Memory.wf (s.placeRuns l runs qs).1.mem = true := by
  induction qs generalizing s with
  | nil => exact hs
  | cons q qs ih =>
    unfold State.placeRuns
    (repeat' split) <;> grind [State.wf_placeAll]

theorem State.wf_writeOutside {ctx : Nat} {shared l : List (Nat × Nat)} {bs : List Byte} :
    Memory.wf (s.writeOutside ctx shared l bs).mem = true := by
  induction l generalizing s bs with
  | nil => exact hs
  | cons p l ih => exact ih (State.wf_foldl (fun _ _ => State.wf_write _ _ _ _) _ hs)

theorem State.wf_putFrag {core k : Nat} {shared : List (Nat × Nat)} {ws : List (Nat × List (Nat × Nat))} {bs : List Byte} :
    Memory.wf (s.putFrag core k shared ws bs).mem = true := by
  simp only [State.putFrag, State.modCopy_mem, State.forgetAll_mem]
  exact State.wf_foldl (fun _ _ h => State.wf_writeOutside h) ws hs

theorem State.wf_writeFrag {core k : Nat} {e : CopyEntry} {q : Runner} {kd : CopyKind} {o : FmtE} {p : Plan} {mask : List Bool}
    {f : Frag} {bs : List Byte} {resume : Nat} : Memory.wf (s.writeFrag core k e q kd o p mask f bs resume).mem = true := by
  unfold State.writeFrag
  (repeat' split) <;> grind [State.wf_putFrag, State.wf_placeRuns, State.sendFrag_mem, State.fragFails_mem]

theorem State.wf_bindRuns {q : Runner} {l : Layout} {runs : List (Int × Nat)} : Memory.wf (s.bindRuns q l runs).mem = true := by
  unfold State.bindRuns
  split
  · exact hs
  · refine State.wf_foldl (fun t r ht => ?_) _ hs
    (repeat' split) <;> grind [State.wf_reach]

theorem State.wf_bindDest {q : Runner} {k : CopyKind} {o : FmtE} {p : Plan} {c : EngCmd} :
    Memory.wf (s.bindDest q k o p c).mem = true :=
  State.wf_foldl (fun _ _ h => State.wf_bindRuns h) _ hs

/-! ### The base-die unit -/

theorem State.wf_engRead {q : Runner} {a : Int} {n : Nat} {src : Bool} : Memory.wf (s.engRead q a n src).1.mem = true := by
  unfold State.engRead
  (repeat' split) <;> grind [State.wf_readRuns]

theorem State.wf_engWrite {q : Runner} {shared : List (Nat × Nat)} {a : Int} {k : XKind} {bs : List Byte} :
    Memory.wf (s.engWrite q shared a k bs).1.mem = true := by
  unfold State.engWrite
  (repeat' split) <;> grind [State.wf_placeAll, State.wf_writeOutside]

theorem State.wf_gathRow {q : Runner} {c : EngCmd} {i : Nat} : Memory.wf (s.gathRow q c i).1.mem = true := by
  unfold State.gathRow
  (repeat' split) <;> grind [State.wf_engWrite, State.wf_engRead]

theorem State.wf_redcElem {q : Runner} {c : EngCmd} {i : Nat} : Memory.wf (s.redcElem q c i).1.mem = true := by
  unfold State.redcElem
  grind [State.wf_engWrite, State.wf_engRead]

theorem State.wf_cnvtGroup {q : Runner} {c : EngCmd} {shared : List (Nat × Nat)} {i : Nat} :
    Memory.wf (s.cnvtGroup q c shared i).1.mem = true := by
  unfold State.cnvtGroup
  dsimp only
  (repeat' split) <;> grind [State.wf_engWrite, State.wf_engRead]

theorem State.wf_baseUnit {q : Runner} {c : EngCmd} {k : CopyKind} {shared : List (Nat × Nat)} {i : Nat} :
    Memory.wf (s.baseUnit q c k shared i).1.mem = true := by
  unfold State.baseUnit
  split <;> simp [hs, State.wf_gathRow, State.wf_redcElem, State.wf_cnvtGroup]

theorem State.wf_baseRun {q : Runner} {c : EngCmd} {k : CopyKind} {shared : List (Nat × Nat)} {n i : Nat} :
    Memory.wf (s.baseRun q c k shared n i).1.mem = true := by
  induction n generalizing s i with
  | zero => exact hs
  | succ n ih =>
    unfold State.baseRun
    (repeat' split) <;> grind [State.wf_baseUnit]

/-! ### The copy engine -/

theorem State.wf_releaseLate {core : Nat} {e : CopyEntry} : Memory.wf (s.releaseLate core e).mem = true := by
  unfold State.releaseLate
  split <;> simp [hs, State.wf_postEvent]

theorem State.wf_finishCopy {core k : Nat} {e : CopyEntry} {abandoned : Bool} :
    Memory.wf (s.finishCopy core k e abandoned).mem = true := by
  unfold State.finishCopy
  (repeat' split) <;> simp [hs, State.wf_releaseLate]

theorem State.wf_planSend {q : Runner} {c : EngCmd} : Memory.wf (s.planSend q c).1.mem = true := by
  unfold State.planSend
  (repeat' split) <;> grind [State.wf_readLayout]

theorem State.wf_plan {q : Runner} {c : EngCmd} {k : CopyKind} {o : FmtE} : Memory.wf (s.plan q c k o).1.mem = true := by
  unfold State.plan
  split <;> simp [hs, State.wf_planSend, State.wf_planCopy]

theorem State.wf_openEntry {core k : Nat} : Memory.wf (s.openEntry core k).mem = true := by
  unfold State.openEntry
  (repeat' split) <;> simp [hs, State.wf_bindDest, State.wf_bindRuns]

theorem State.wf_checkCopy {core j : Nat} {c : EngCmd} : Memory.wf (s.checkCopy core j c).mem = true := by
  unfold State.checkCopy
  (repeat' split) <;> grind [State.valueFails_mem, State.wf_openEntry, State.startBase_mem, State.startCopy_mem, State.wf_plan]

theorem State.wf_bufferFrag {core k : Nat} {e : CopyEntry} {q : Runner} {kd : CopyKind} {p : Plan} {fs : List Frag} {f : Frag} :
    Memory.wf (s.bufferFrag core k e q kd p fs f).mem = true := by
  unfold State.bufferFrag
  (repeat' split) <;> grind [State.gateCopy_mem, State.wf_readFrag, State.modCopy_mem, State.fragFails_mem, State.trimDest_mem]

theorem State.wf_moveFrag {core k : Nat} {e : CopyEntry} {q : Runner} {kd : CopyKind} {o : FmtE} {p : Plan} {mask : List Bool}
    {f : Frag} : Memory.wf (s.moveFrag core k e q kd o p mask f).mem = true := by
  unfold State.moveFrag
  (repeat' split) <;> grind [State.wf_readFrag, State.modCopy_mem, State.fragFails_mem, State.wf_writeFrag]

theorem State.wf_recordFrag {core k : Nat} {e : CopyEntry} {q : Runner} {p : Plan} {n : Nat} :
    Memory.wf (s.recordFrag core k e q p n).mem = true := by
  unfold State.recordFrag
  (repeat' split) <;> grind [State.wf_putFrag, State.wf_placeAll, State.sendFrag_mem, State.fragFails_mem]

theorem State.wf_takeMask {core k : Nat} {e : CopyEntry} {q : Runner} {p : Plan} :
    Memory.wf (s.takeMask core k e q p).1.mem = true := by
  unfold State.takeMask
  (repeat' split) <;> grind [State.wf_ownRead, State.modCopy_mem, State.wf_sourceMask]

theorem State.wf_nextFrag {core k : Nat} {e : CopyEntry} {q : Runner} {kd : CopyKind} {o : FmtE} {p : Plan} :
    Memory.wf (s.nextFrag core k e q kd o p).mem = true := by
  unfold State.nextFrag
  (repeat' split) <;> grind [State.wf_recordFrag, State.wf_moveFrag, State.wf_bufferFrag, State.fragFails_mem,
    State.wf_writeFrag, State.wf_takeMask, State.ringAnswer_mem]

theorem State.wf_moveCopy {core k : Nat} {e : CopyEntry} {q : Runner} {kd : CopyKind} {o : FmtE} {p : Plan} :
    Memory.wf (s.moveCopy core k e q kd o p).mem = true := by
  unfold State.moveCopy
  dsimp only
  (repeat' split) <;> simp [hs, State.wf_nextFrag]

theorem State.wf_baseEnds {core k : Nat} {e : CopyEntry} {kd : CopyKind} {r : Nat × List (Nat × Nat) × Option SideStop} :
    Memory.wf (s.baseEnds core k e kd r).mem = true := by
  unfold State.baseEnds
  dsimp only
  (repeat' split) <;> simp [hs, State.wf_finishCopy]

/-! ### Rendering -/

theorem State.outWf_renderStop {c : EngCmd} {addr : Nat} {w : EngStop} : OutWf (s.renderStop c addr w) := by
  unfold State.renderStop
  split <;> simpa using hs

theorem State.wf_renderRead {q : Runner} {a n : Nat} : Memory.wf (s.renderRead q a n).1.mem = true := by
  unfold State.renderRead
  (repeat' split) <;> grind [State.wf_readRuns]

theorem State.outWf_runBatch {core : Nat} {c : EngCmd} {q : Runner} : OutWf (s.runBatch core c q) := by
  unfold State.runBatch
  dsimp only
  split
  · simpa using hs
  · split
    · next e => exact State.outWf_renderStop (State.wf_fst e (State.wf_renderRead hs))
    · next e =>
      have header := State.wf_fst e (State.wf_renderRead hs)
      split
      · simpa using header
      · split
        · next e => exact State.outWf_renderStop (State.wf_fst e (State.wf_renderRead header))
        · next e =>
          have prims := State.wf_fst e (State.wf_renderRead header)
          (repeat' split) <;> simpa using prims

theorem State.wf_traverse {q : Runner} {r : Ray} {fuel a : Nat} {f : Found} :
    Memory.wf (s.traverse q r fuel a f).1.mem = true := by
  induction fuel generalizing s a f with
  | zero => exact hs
  | succ fuel ih =>
    unfold State.traverse
    split
    · next e => exact State.wf_fst e (State.wf_renderRead hs)
    · next e =>
      extract_lets child
      have visited {t : State} {k : Nat} {g : Found} (ht : Memory.wf t.mem = true) : Memory.wf (child t k g).1.mem = true := by
        simp only [child]
        (repeat' split) <;> grind [State.wf_renderRead]
      have read := State.wf_fst e (State.wf_renderRead hs)
      split
      · next e => exact State.wf_fst e (visited read)
      · next e => exact visited (State.wf_fst e (visited read))

theorem State.wf_rayLanes {q : Runner} {root : Nat} {rays : List Byte} {ls : List Nat} :
    Memory.wf (s.rayLanes q root rays ls).1.mem = true := by
  induction ls generalizing s with
  | nil => exact hs
  | cons l ls ih =>
    unfold State.rayLanes
    grind [State.wf_traverse]

theorem State.outWf_finishRayq {core k : Nat} {c : EngCmd} {q : Runner} : OutWf (s.finishRayq core k c q) := by
  have read := State.wf_rayLanes hs (q := q) (root := (pair (c.w1 0) (c.w1 1)).toNat) (rays := c.packet) (ls := lanesOf c.lanes)
  unfold State.finishRayq
  split
  · next e => exact State.outWf_renderStop (by simpa using State.wf_fst e read)
  · next e => simpa using State.wf_fst e read

/-! ### Rows of tiles -/

theorem State.wf_reachAll {q : Runner} {k : XKind} {l : List (Int × Nat)} : Memory.wf (s.reachAll q k l).1.mem = true := by
  induction l generalizing s with
  | nil => exact hs
  | cons p l ih =>
    unfold State.reachAll
    (repeat' split) <;> grind [State.wf_reach]

theorem State.wf_rowPlaces {x : Block} {sp tile : Nat} {off : Int} {rb : Nat} {k : XKind} :
    Memory.wf (s.rowPlaces x sp tile off rb k).1.mem = true := by
  unfold State.rowPlaces
  (repeat' split) <;> grind [State.wf_address, State.wf_reachAll]

/-! ### Accesses that arrive -/

theorem State.wf_leaveQueue {b w : Nat} {x : Block} {y : Wave} {q : StoreEntry} :
    Memory.wf (s.leaveQueue b w x y q).mem = true := by
  unfold State.leaveQueue
  (repeat' split) <;> simp [hs, State.wf_write]

theorem State.wf_storeArrives {core k : Nat} {f : FabricEntry} {pa : Nat} {bs : List Byte} :
    Memory.wf (s.storeArrives core k f pa bs).mem = true := by
  unfold State.storeArrives
  dsimp only
  (repeat' split) <;> simp [hs, State.wf_write]

theorem State.wf_runAtomic {core k : Nat} {f : FabricEntry} {pa n : Nat} {op : AOp} {a b : BitVec 128} {lane : Nat}
    {dst : Option Nat} : Memory.wf (s.runAtomic core k f pa n op a b lane dst).mem = true := by
  unfold State.runAtomic
  dsimp only
  split <;> simp [hs, State.wf_writeNum]

theorem State.wf_performAt {ctx pa : Nat} {op : MemOp} : Memory.wf (s.performAt ctx pa op).1.mem = true := by
  unfold State.performAt
  (repeat' split) <;> simp [hs, State.wf_write, State.wf_writeNum]

/-! ### The matrix engine -/

theorem State.wf_storeTile {core : Nat} {m : Matrix} {c : EngCmd} {t : Nat} : Memory.wf (s.storeTile core m c t).mem = true := by
  refine State.wf_foldl (fun u r hu => ?_) _ hs
  split
  · exact hu
  · simpa using State.wf_writePlaces hu

theorem State.wf_runWhole {b w : Nat} {x : Block} {m : Matrix} {c : EngCmd} : Memory.wf (s.runWhole b w x m c).mem = true := by
  unfold State.runWhole
  split <;> simp [hs, State.wf_storeTile]

theorem State.wf_runJob {core b w : Nat} {x : Block} {m : Matrix} {j : MatJob} {n : Nat} :
    Memory.wf (s.runJob core b w x m j n).mem = true := by
  unfold State.runJob
  split <;> simp [hs, State.wf_runWhole]

theorem State.wf_advanceJob {core b w : Nat} {x : Block} {m : Matrix} {j : MatJob} {n : Nat} :
    Memory.wf (s.advanceJob core b w x m j n).mem = true := by
  simp [State.advanceJob, hs, State.wf_runJob]

/-! ### Page-table updates -/

theorem State.wf_writeEntries {l : List Nat} {e : DWord} :
    Memory.wf (l.foldl (fun t m => t.writeEntry m e) s).mem = true :=
  State.wf_foldl (fun _ _ h => State.wf_writeEntry h) l hs

theorem State.wf_beginUpdate {r : TableReq} : Memory.wf (s.beginUpdate r).1.mem = true := by
  unfold State.beginUpdate
  dsimp only
  split
  · exact hs
  · split <;> simp [State.wf_writeEntries hs]

theorem State.wf_beginUpdates : Memory.wf s.beginUpdates.mem = true := by
  refine State.wf_foldl (fun t u ht => ?_) _ hs
  dsimp only
  split
  · exact ht
  · split
    · exact ht
    · exact State.wf_beginUpdate ht

theorem State.wf_runUpdates : Memory.wf s.runUpdates.mem = true := by
  unfold State.runUpdates
  split <;> simp [hs, State.wf_beginUpdates]

theorem State.wf_zeroFrames {l : List Nat} {n : Nat} :
    Memory.wf (l.foldl (fun t f => (t.zero f (f + n)).dropFrame f (f + n)) s).mem = true :=
  State.wf_foldl (fun t f ht => by simpa using t.wf_zero f (f + n) ht) l hs

/-! ### Records in memory -/

theorem State.wf_readVa {q : Runner} {va n : Nat} : Memory.wf (s.readVa q va n).1.mem = true := by
  unfold State.readVa
  (repeat' split) <;> grind [State.wf_readRuns]

theorem State.wf_readKernel {q : Runner} {kernel : Nat} : Memory.wf (s.readKernel q kernel).1.mem = true := by
  unfold State.readKernel
  (repeat' split) <;> grind [State.wf_readVa]

theorem State.wf_readCohorts {q : Runner} {l : Launch} {vs : List Variant} {addr n : Nat} :
    Memory.wf (s.readCohorts q l vs addr n).1.mem = true := by
  unfold State.readCohorts
  (repeat' split) <;> grind [State.wf_readVa]

theorem State.wf_readLaunch {ctx addr : Nat} : Memory.wf (s.readLaunch ctx addr).1.mem = true := by
  unfold State.readLaunch
  (repeat' split) <;> grind [State.wf_readVa, State.wf_readKernel, State.wf_readCohorts]

/-! ### The host port -/

theorem State.wf_readGraph {q : Runner} {at' : Nat} : Memory.wf (s.readGraph q at').1.mem = true := by
  unfold State.readGraph
  (repeat' split) <;> grind [State.wf_readVa]

theorem State.wf_register : Memory.wf s.register.mem = true := by
  unfold State.register
  grind [State.grRefuse_mem, State.wf_readGraph]

theorem State.wf_grcmd {v : BitVec 32} : Memory.wf (s.grcmd v).mem = true := by
  unfold State.grcmd
  (repeat' split) <;> simp [hs, State.wf_register]

theorem State.wf_kick {v : BitVec 64} : Memory.wf (s.kick v).mem = true := by
  unfold State.kick
  dsimp only
  (repeat' split) <;> simp [hs, State.wf_postEvent]

theorem State.wf_bar0Write4 {off : Nat} {v : Word} : Memory.wf (s.bar0Write4 off v).mem = true := by
  unfold State.bar0Write4
  (repeat' split) <;> simp [hs, State.wf_grcmd]

theorem State.wf_bar0Write {off width : Nat} {v : DWord} : Memory.wf (s.bar0Write off width v).mem = true := by
  unfold State.bar0Write
  (repeat' split) <;> simp [hs, State.wf_kick, State.wf_bar0Write4]

theorem outWf_bar0Row {p : Bool} {a : Bar0Access} : OutWf (bar0Row p a s) := by
  unfold bar0Row
  split <;> simp [hs, State.wf_bar0Write]

/-! ### Task graphs -/

theorem State.wf_patchPlaces {q : Runner} {l : List (Nat × Nat × Nat)} : Memory.wf (s.patchPlaces q l).1.mem = true := by
  induction l generalizing s with
  | nil => exact hs
  | cons p l ih =>
    unfold State.patchPlaces
    (repeat' split) <;> grind [State.wf_placeAll]

theorem State.wf_readPatches {g : Graph} {addr : Nat} : Memory.wf (s.readPatches g addr).1.mem = true := by
  unfold State.readPatches
  grind [State.wf_readVa, State.wf_patchPlaces]

theorem State.wf_startKick {g : Graph} {k : Kick} : Memory.wf (s.startKick g k).mem = true := by
  unfold State.startKick
  split
  · simpa using hs
  · have read := State.wf_readPatches hs (g := g) (addr := k.patch)
    split
    · next e => exact State.wf_postEvent _ _ _ _ _ _ (State.wf_fst e read)
    · next e =>
      rw [State.beginReplay_mem]
      exact State.wf_foldl (fun _ _ h => State.wf_writePlaces h) _ (State.wf_fst e read)

theorem State.wf_writeRecord {l : Launch} {state cause : Nat} : Memory.wf (s.writeRecord l state cause).mem = true := by
  unfold State.writeRecord
  (repeat' split) <;> grind [State.wf_writePlaces, State.wf_placeAll, State.report_mem]

theorem State.wf_closeLaunch {l : Launch} {state : Nat} : Memory.wf (s.closeLaunch l state).mem = true := by
  simp [State.closeLaunch, hs, State.wf_writeRecord]

theorem State.wf_readSkipped {ctx addr : Nat} : Memory.wf (s.readSkipped ctx addr).1.mem = true := by
  unfold State.readSkipped
  (repeat' split) <;> grind [State.wf_readVa]

theorem State.wf_completeSkipped {replay node : Nat} {r : Replay} {g : Graph} {x : Node} :
    Memory.wf (s.completeSkipped replay node r g x).mem = true := by
  unfold State.completeSkipped
  (repeat' split) <;> grind [State.wf_readSkipped, State.nodeSignal_mem, State.wf_closeLaunch, State.endNode_mem,
    State.setNode_mem]

theorem State.wf_closeEnded {launch : Nat} {l : Launch} {state cause : Nat} :
    Memory.wf (s.closeEnded launch l state cause).mem = true := by
  unfold State.closeEnded
  split <;> simp [hs, State.wf_writeRecord, State.wf_postEvent]

/-! ### Task waves -/

theorem State.wf_taskKernel {core ctx entry : Nat} : Memory.wf (s.taskKernel core ctx entry).1.mem = true := by
  unfold State.taskKernel
  (repeat' split) <;> grind [State.modCore_mem, State.wf_readKernel]

/-! ### Saving a block -/

theorem State.wf_writeSections {l : List ((Nat × Nat) × List Byte)} {ctx a : Nat} :
    Memory.wf (l.foldl (fun s p => if p.1.2 = 0 then s else s.write ctx (a + p.1.1) p.2) s).mem = true := by
  refine State.wf_foldl (fun t p ht => ?_) l hs
  split
  · exact ht
  · exact t.wf_write _ _ _ ht

theorem State.wf_saveBlock {b : Nat} {x : Block} {st : Stop} {exited : Bool} {copies : List CopyEntry} {queue : List EngCmd} :
    Memory.wf (s.saveBlock b x st exited copies queue).mem = true := by
  unfold State.saveBlock
  dsimp only
  split
  · exact hs
  · simp only [State.endForcing_mem, State.askMigration_mem, State.leaveCore_mem, State.handOver_mem, State.countPark_mem,
      State.carryPoison_mem]
    exact State.wf_writeSections (State.wf_write _ _ _ _ (by simpa using hs))

/-! ### Restoring a block -/

theorem State.wf_killResident {b : Nat} : Memory.wf (s.killResident b).mem = true := by
  unfold State.killResident
  split
  · exact hs
  · simp only [State.endForcing_mem, State.settle_mem]
    rw [State.foldl_mem _ fun _ _ => State.modBlock_mem ..]
    simp only [State.modBlock_mem, State.handOver_mem, State.modCore_mem]
    rw [State.foldl_mem _ State.discardCommand_mem]
    refine State.wf_foldl (fun u e hu => ?_) _ hs
    split
    · exact State.wf_finishCopy hu
    · exact hu

theorem State.wf_endLaunch {launch state cause : Nat} : Memory.wf (s.endLaunch launch state cause).mem = true := by
  unfold State.endLaunch
  split
  · exact hs
  · split
    · exact hs
    · rw [State.dropPackets_mem]
      refine State.wf_foldl (fun _ _ h => State.wf_killResident h) _ ?_
      rw [State.foldl_mem _ State.killImage_mem]
      simpa using hs

theorem State.wf_rowAgain {x : Block} {sp tile : Nat} {off : Int} {rb : Nat} {k : XKind} :
    Memory.wf (s.rowAgain x sp tile off rb k).1.mem = true :=
  State.wf_foldl (fun _ _ h => State.wf_translate h) _ hs

theorem State.wf_rowsAgain {x : Block} {sp tile : Nat} {off : Nat → Int} {rb : Nat} {k : XKind} {is : List Nat}
    {rows : List (List (Nat × Nat))} : Memory.wf (is.foldl (fun (a : State × List (List (Nat × Nat))) (i : Nat) =>
      let p := a.1.rowAgain x sp tile (off i) rb k
      (p.1, a.2 ++ [p.2])) (s, rows)).1.mem = true :=
  List.foldlRecOn (motive := fun a : State × List (List (Nat × Nat)) => Memory.wf a.1.mem = true) is _ hs
    fun _ h _ _ => State.wf_rowAgain h

theorem State.wf_retranslate {x : Block} {c : EngCmd} : Memory.wf (s.retranslate x c).1.mem = true := by
  unfold State.retranslate
  dsimp only
  split
  · exact State.wf_rowsAgain hs
  · exact State.wf_rowsAgain hs
  · exact hs

theorem State.wf_requeue {core : Nat} {x : Block} {l : List EngCmd} : Memory.wf (s.requeue core x l).mem = true :=
  State.wf_foldl (fun _ _ h => by simpa using State.wf_retranslate h) l hs

theorem State.wf_restartCopy {core j : Nat} {e : CopyEntry} : Memory.wf (s.restartCopy core j e).mem = true := by
  unfold State.restartCopy
  (repeat' split) <;> simp [hs, State.wf_openEntry, State.wf_checkCopy]

theorem State.wf_resumeCopy {x : Block} {core j : Nat} {e : CopyEntry} : Memory.wf (s.resumeCopy x core j e).mem = true := by
  unfold State.resumeCopy
  dsimp only
  split <;> simp [hs, State.wf_checkCopy]

theorem State.wf_reviveCopy {core : Nat} {abandon : Bool} {e : CopyEntry} :
    Memory.wf (s.reviveCopy core abandon e).mem = true := by
  unfold State.reviveCopy
  (repeat' split) <;> simp [hs, State.wf_restartCopy, State.wf_finishCopy, State.wf_resumeCopy]

theorem State.wf_reviveCopies {core : Nat} {abandon : Bool} {l : List CopyEntry} :
    Memory.wf (l.foldl (fun s e => s.reviveCopy core abandon e) s).mem = true :=
  State.wf_foldl (fun _ _ h => State.wf_reviveCopy h) l hs

theorem State.wf_restoreOne {r : Request} {i : Image} {h : Holder} : Memory.wf (s.restoreOne r i h).mem = true := by
  simp only [State.restoreOne, State.settle_mem, State.noteMove_mem, State.noteRemap_mem, apply_ite State.mem,
    State.resumeEmpty_mem, ite_self]
  refine State.wf_reviveCopies ?_
  rw [State.acquire_mem, State.foldl_mem _ fun _ _ => State.forgetAll_mem ..]
  refine State.wf_requeue ?_
  simp only [State.modCore_mem, State.setBlock_mem, State.carryPoison_mem]
  exact State.wf_write _ _ _ _ (by simpa using hs)

theorem State.wf_restore {k : Nat} {i : Image} : Memory.wf (s.restore k i).mem = true := by
  unfold State.restore
  split
  · exact hs
  · split
    · exact hs
    · split
      · exact hs
      · next hold _ =>
        have woken : Memory.wf (s.wakeFor hold).1.mem = true := by simpa using hs
        split
        · next e => exact State.wf_fst e woken
        · next e => exact State.wf_foldl (fun _ _ h => State.wf_restoreOne h) _ (State.wf_fst e woken)

theorem State.wf_monitorEnds {launch : Nat} : Memory.wf (s.monitorEnds launch).mem = true := by
  unfold State.monitorEnds
  split <;> simp [hs, State.wf_postEvent, State.wf_endLaunch]

/-! ### Variant switches -/

theorem State.wf_readMapsAt {q : Runner} {n a : Nat} : Memory.wf (s.readMapsAt q n a).1.mem = true := by
  induction n generalizing s a with
  | zero => exact hs
  | succ n ih =>
    unfold State.readMapsAt
    (repeat' split) <;> grind [State.wf_readVa]

theorem State.wf_readMaps {x : Block} : Memory.wf (s.readMaps x).1.mem = true := by
  unfold State.readMaps
  grind [State.wf_readVa, State.wf_readMapsAt]

theorem State.outWf_holdAtPoint {h : Hdr} {e : Env} {q : SwitchReq} {id : Nat} : OutWf (s.holdAtPoint h e q id) :=
  State.outWf_issued (by simpa using hs)

theorem State.wf_moveScratch {x : Block} {m : SwMap} {v : Variant} {base : Nat} :
    Memory.wf (s.moveScratch x m v base).mem = true :=
  State.wf_foldl (fun _ _ h => State.wf_write _ _ _ _ h) _ (by simpa using hs)

/-! ### Power -/

theorem State.wf_unpark {b : Nat} : Memory.wf (s.unpark b).mem = true := by
  unfold State.unpark
  split
  · exact hs
  · refine State.wf_foldl (fun u e hu => ?_) _ (by simpa using hs)
    split
    · exact State.wf_restartCopy hu
    · exact hu

/-! ### The time port -/

theorem State.wf_stepTimer {tai : Nat} : Memory.wf (s.stepTimer tai).mem = true := by
  refine State.wf_postEvent _ _ _ _ _ _ ?_
  dsimp only
  rw [State.foldl_mem _ fun _ _ => State.modDie_mem ..]
  simpa using hs

/-! ### Firmware -/

theorem outWf_mboxRow {cmd : Nat} {lens : List Nat} {f : Table Byte → State} (hf : ∀ m, Memory.wf (f m).mem = true) :
    OutWf (mboxRow cmd lens s f) := by
  unfold mboxRow
  dsimp only
  split
  · exact hs
  · split
    · simpa using hs
    · exact hf _

theorem State.outWf_loseHead {core : Nat} {c : EngCmd} {pa : Nat} {va : DWord} : OutWf (s.loseHead core c pa va) := by
  unfold State.loseHead
  (repeat' split) <;> simp [State.outWf_renderStop, hs]

end

end Sys2Proof.Machine
end

section
/-! SUPPORT. The events of the opcode table, and SWPT: each keeps the canonical form of memory. -/

namespace Sys2Proof.Machine

/-! ### Fetch -/

theorem keepsWf_execFetchFault {addr : BitVec 64} {sub : BitVec 6} : KeepsWf (execFetchFault addr sub) := by
  intro s hs
  unfold execFetchFault
  split <;> simp [hs]

theorem keepsWf_execIllegalOpcode {mask : BitVec 5} {detail : BitVec 32} : KeepsWf (execIllegalOpcode mask detail) := by
  intro s hs
  unfold execIllegalOpcode
  split <;> simp [hs]

/-! ### Waits and timelines -/

theorem keepsWf_execPeerTimelineSignal {p : PeerSignal} : KeepsWf (execPeerTimelineSignal p) := by
  intro s hs
  simp [execPeerTimelineSignal, hs]

theorem keepsWf_execWaitSatisfied {b w : Nat} : KeepsWf (execWaitSatisfied b w) := by
  intro s hs
  unfold execWaitSatisfied
  (repeat' split) <;> simp [hs]

theorem keepsWf_execWatchdog {b w : Nat} : KeepsWf (execWatchdog b w) := by
  intro s hs
  unfold execWatchdog
  (repeat' split) <;> simp [hs]

/-! ### Tasks and named queues -/

theorem keepsWf_execNamedQueueAssign {p : QueueAssignment} : KeepsWf (execNamedQueueAssign p) := by
  intro s hs
  simp [execNamedQueueAssign, hs]

theorem keepsWf_execTaskPush {core : Nat} : KeepsWf (execTaskPush core) := by
  intro s hs
  unfold execTaskPush
  (repeat' split) <;> simp [hs]

theorem keepsWf_execEnqArrive {core : Nat} : KeepsWf (execEnqArrive core) := by
  intro s hs
  unfold execEnqArrive
  (repeat' split) <;> simp [hs]

theorem keepsWf_execDequeFullTimeout {b w : Nat} : KeepsWf (execDequeFullTimeout b w) := by
  intro s hs
  unfold execDequeFullTimeout
  (repeat' split) <;> simp [hs]

theorem keepsWf_execQueueFullTimeout {b w : Nat} : KeepsWf (execQueueFullTimeout b w) := by
  intro s hs
  unfold execQueueFullTimeout
  dsimp only
  (repeat' split) <;> simp [hs]

/-! ### The copy engine -/

theorem keepsWf_execCopyDequeue {core : Nat} : KeepsWf (execCopyDequeue core) := by
  intro s hs
  unfold execCopyDequeue
  (repeat' split) <;> simp [hs, State.wf_checkCopy]

theorem keepsWf_execCopyFragment {core k : Nat} : KeepsWf (execCopyFragment core k) := by
  intro s hs
  unfold execCopyFragment
  dsimp only
  (repeat' split) <;> simp [hs, State.wf_openEntry, State.wf_moveCopy]

theorem keepsWf_execCpytRelease {core k : Nat} : KeepsWf (execCpytRelease core k) := by
  intro s hs
  unfold execCpytRelease
  (repeat' split) <;> simp [hs]

theorem keepsWf_execCopyComplete {core k : Nat} : KeepsWf (execCopyComplete core k) := by
  intro s hs
  unfold execCopyComplete
  (repeat' split) <;> simp [hs, State.wf_finishCopy]

theorem keepsWf_execBasedieExecute {core k : Nat} : KeepsWf (execBasedieExecute core k) := by
  intro s hs
  have opened := State.wf_openEntry hs (core := core) (k := k)
  unfold execBasedieExecute
  dsimp only
  split
  · split
    · split
      · split
        · simpa using opened
        · exact State.wf_baseEnds (State.wf_ownRead opened fun h => State.wf_baseRun h)
      · exact opened
    · exact opened
  · exact opened

/-! ### Rendering -/

theorem keepsWf_execRasterBatch {core : Nat} : KeepsWf (execRasterBatch core) := by
  intro s hs
  unfold execRasterBatch
  (repeat' split) <;> simp [hs, State.outWf_runBatch]

theorem keepsWf_execRtileComplete {core : Nat} {act : EngineAct} : KeepsWf (execRtileComplete core act) := by
  intro s hs
  unfold execRtileComplete
  dsimp only
  (repeat' split) <;> simp [hs]

theorem keepsWf_execRayqComplete {core : Nat} {act : EngineAct} : KeepsWf (execRayqComplete core act) := by
  intro s hs
  unfold execRayqComplete
  (repeat' split) <;> simp [hs, State.outWf_finishRayq]

/-! ### Accesses that arrive -/

theorem keepsWf_execLoadReturn {b w k : Nat} : KeepsWf (execLoadReturn b w k) := by
  intro s hs
  unfold execLoadReturn
  (repeat' split) <;> simp [hs]

theorem keepsWf_execStorePerform {site : StoreSite} : KeepsWf (execStorePerform site) := by
  intro s hs
  unfold execStorePerform
  (repeat' split) <;> simp [hs, State.wf_storeArrives, State.wf_leaveQueue]

theorem keepsWf_execAtomicPerform {core k : Nat} : KeepsWf (execAtomicPerform core k) := by
  intro s hs
  unfold execAtomicPerform
  (repeat' split) <;> simp [hs, State.wf_runAtomic]

theorem keepsWf_execHostAtomicopCompletion {core k : Nat} {status : BitVec 16} :
    KeepsWf (execHostAtomicopCompletion core k status) := by
  intro s hs
  unfold execHostAtomicopCompletion
  (repeat' split) <;> simp [hs, State.wf_runAtomic]

theorem keepsWf_execHostCompletionTimeout {core k : Nat} : KeepsWf (execHostCompletionTimeout core k) := by
  intro s hs
  unfold execHostCompletionTimeout
  split <;> simp [hs]

theorem keepsWf_execStaleLineExpire {core line : Nat} : KeepsWf (execStaleLineExpire core line) := by
  intro s hs
  simp [execStaleLineExpire, hs]

theorem keepsWf_execHostBar2Access {a : MemRequest} : KeepsWf (execHostBar2Access a) := by
  intro s hs
  unfold execHostBar2Access
  split <;> simp [hs, State.wf_performAt]

theorem keepsWf_execPeerLinkRequest {a : PeerRequest} : KeepsWf (execPeerLinkRequest a) := by
  intro s hs
  unfold execPeerLinkRequest
  dsimp only
  split
  · next e =>
    have placed := State.wf_fst e (State.wf_placeAll hs)
    split
    · exact State.wf_writePlaces placed
    · exact State.wf_performAt placed
  · next e => exact State.wf_fst e (State.wf_placeAll hs)

theorem keepsWf_execEvictUncorrectable {line : Nat} : KeepsWf (execEvictUncorrectable line) := by
  intro s hs
  simp [execEvictUncorrectable, hs]

theorem keepsWf_execScrubError {granule : Nat} : KeepsWf (execScrubError granule) := by
  intro s hs
  simp [execScrubError, hs]

theorem keepsWf_execSramUncorrectable {e : SramError} : KeepsWf (execSramUncorrectable e) := by
  intro s hs
  unfold execSramUncorrectable
  dsimp only
  (repeat' split) <;> simp [hs]

/-! ### The matrix engine -/

theorem keepsWf_execMatrixExecute {core n : Nat} : KeepsWf (execMatrixExecute core n) := by
  intro s hs
  have taken : Memory.wf (s.takeJob core).1.mem = true := by simpa using hs
  unfold execMatrixExecute
  split
  · next e => (repeat' split) <;> simp [State.wf_fst e taken, State.wf_advanceJob]
  · next e => exact State.wf_fst e taken

theorem keepsWf_execMatrixComplete {core : Nat} : KeepsWf (execMatrixComplete core) := by
  intro s hs
  unfold execMatrixComplete
  (repeat' split) <;> simp [hs]

theorem keepsWf_execTsclLatchWrite {b : Nat} : KeepsWf (execTsclLatchWrite b) := by
  intro s hs
  unfold execTsclLatchWrite
  (repeat' split) <;> simp [hs]

/-! ### Page-table updates -/

theorem keepsWf_execTableUpdate {r : TableReq} : KeepsWf (execTableUpdate r) := by
  intro s hs
  simp [execTableUpdate, hs, State.wf_runUpdates]

theorem keepsWf_execPoolRefill {die size : Nat} {frames : List Nat} : KeepsWf (execPoolRefill die size frames) := by
  intro s hs
  unfold execPoolRefill
  dsimp only
  split
  · exact hs
  · simpa using State.wf_zeroFrames hs

/-! ### The host port -/

theorem keepsWf_execGrcmdRegister {v : BitVec 32} : KeepsWf (execGrcmdRegister v) := by
  intro s hs
  unfold execGrcmdRegister
  split <;> simp [hs, State.wf_grcmd]

theorem keepsWf_execGrcmdUnregister {v : BitVec 32} : KeepsWf (execGrcmdUnregister v) := by
  intro s hs
  unfold execGrcmdUnregister
  split <;> simp [hs, State.wf_grcmd]

theorem keepsWf_execGrcmdInvalid {v : BitVec 32} : KeepsWf (execGrcmdInvalid v) := by
  intro s hs
  unfold execGrcmdInvalid
  split <;> simp [hs, State.wf_grcmd]

theorem keepsWf_execKick {v : BitVec 64} : KeepsWf (execKick v) := by
  intro s hs
  simp [execKick, hs, State.wf_kick]

theorem keepsWf_execEqConfigWrite {a : Bar0Access} : KeepsWf (execEqConfigWrite a) := by
  intro s hs
  simp [execEqConfigWrite, hs, outWf_bar0Row]

theorem keepsWf_execEqlostClear {a : Bar0Access} : KeepsWf (execEqlostClear a) := by
  intro s hs
  simp [execEqlostClear, hs, outWf_bar0Row]

theorem keepsWf_execMboxDoorbell {a : Bar0Access} : KeepsWf (execMboxDoorbell a) := by
  intro s hs
  simp [execMboxDoorbell, hs, outWf_bar0Row]

theorem keepsWf_execBar0RegisterWrite {a : Bar0Access} : KeepsWf (execBar0RegisterWrite a) := by
  intro s hs
  simp [execBar0RegisterWrite, hs, outWf_bar0Row]

theorem keepsWf_execBar0BadAccess {a : Bar0Access} : KeepsWf (execBar0BadAccess a) := by
  intro s hs
  unfold execBar0BadAccess
  split <;> simp [hs]

/-! ### Task graphs -/

theorem keepsWf_execReplayStart {handle : Nat} : KeepsWf (execReplayStart handle) := by
  intro s hs
  unfold execReplayStart
  (repeat' split) <;> simp [hs, State.wf_startKick]

theorem keepsWf_execNodeReady {replay node : Nat} : KeepsWf (execNodeReady replay node) := by
  intro s hs
  unfold execNodeReady
  (repeat' split) <;> simp [hs]

theorem keepsWf_execLaunchAccept {queue : Nat} : KeepsWf (execLaunchAccept queue) := by
  intro s hs
  unfold execLaunchAccept
  (repeat' split) <;> grind [outWf_next, State.wf_readLaunch, State.enterLaunch_mem, State.endNode_mem]

theorem keepsWf_execGovernorPoint {replay node : Nat} : KeepsWf (execGovernorPoint replay node) := by
  intro s hs
  unfold execGovernorPoint
  dsimp only
  (repeat' split) <;> simp [hs, State.wf_postEvent]

theorem keepsWf_execSkippedNodeComplete {replay node : Nat} : KeepsWf (execSkippedNodeComplete replay node) := by
  intro s hs
  unfold execSkippedNodeComplete
  (repeat' split) <;> simp [hs, State.wf_completeSkipped]

theorem keepsWf_execLaunchComplete {launch : Nat} : KeepsWf (execLaunchComplete launch) := by
  intro s hs
  unfold execLaunchComplete
  (repeat' split) <;> simp [hs, State.wf_closeEnded, State.wf_closeLaunch]

theorem keepsWf_execReplayComplete {replay : Nat} : KeepsWf (execReplayComplete replay) := by
  intro s hs
  unfold execReplayComplete
  (repeat' split) <;> simp [hs, State.wf_postEvent]

theorem keepsWf_execReplayFinish {replay : Nat} : KeepsWf (execReplayFinish replay) := by
  intro s hs
  unfold execReplayFinish
  (repeat' split) <;> simp [hs]

/-! ### Task waves -/

theorem keepsWf_execTaskSteal {core victim : Nat} : KeepsWf (execTaskSteal core victim) := by
  intro s hs
  unfold execTaskSteal
  split <;> simp [hs]

theorem keepsWf_execStealRetry {core : Nat} : KeepsWf (execStealRetry core) := by
  intro s hs
  unfold execStealRetry
  (repeat' split) <;> simp [hs]

theorem keepsWf_execBlockExit {b : Nat} : KeepsWf (execBlockExit b) := by
  intro s hs
  unfold execBlockExit
  (repeat' split) <;> simp [hs]

theorem keepsWf_execBlockRelease {b : Nat} : KeepsWf (execBlockRelease b) := by
  intro s hs
  unfold execBlockRelease
  (repeat' split) <;> simp [hs]

/-! ### Saving a block -/

theorem keepsWf_execBlockStop {b : Nat} : KeepsWf (execBlockStop b) := by
  intro s hs
  unfold execBlockStop
  (repeat' split) <;> simp [hs]

theorem keepsWf_execSaveImage {b : Nat} : KeepsWf (execSaveImage b) := by
  intro s hs
  unfold execSaveImage
  (repeat' split) <;> simp [hs, State.wf_saveBlock]

theorem keepsWf_execExitedBlockImage {b : Nat} : KeepsWf (execExitedBlockImage b) := by
  intro s hs
  unfold execExitedBlockImage
  (repeat' split) <;> simp [hs, State.wf_saveBlock]

theorem keepsWf_execPreemptRequest {t : PreemptTarget} : KeepsWf (execPreemptRequest t) := by
  intro s hs
  simp [execPreemptRequest, hs]

theorem keepsWf_execShedPark {b : Nat} : KeepsWf (execShedPark b) := by
  intro s hs
  simp [execShedPark, hs]

theorem keepsWf_execShedForced {b : Nat} : KeepsWf (execShedForced b) := by
  intro s hs
  simp [execShedForced, hs]

theorem keepsWf_execFaultRecordWrite {die : Nat} : KeepsWf (execFaultRecordWrite die) := by
  intro s hs
  unfold execFaultRecordWrite
  dsimp only
  (repeat' split) <;> simp [hs, State.wf_postEvent, State.wf_write]

/-! ### Restoring a block -/

theorem keepsWf_execRestoreBlock {k : Nat} : KeepsWf (execRestoreBlock k) := by
  intro s hs
  unfold execRestoreBlock
  (repeat' split) <;> simp [hs, State.wf_restore, State.wf_endLaunch]

theorem keepsWf_execDoubleFault {die : Nat} {cause : BitVec 6} : KeepsWf (execDoubleFault die cause) := by
  intro s hs
  exact State.wf_foldl (fun _ _ h => State.wf_monitorEnds h) _ (by simpa using hs)

/-! ### Variant switches -/

theorem keepsWf_execSwpt {h : Hdr} {o : FmtC} : KeepsWf (execSwpt h o) := by
  intro s hs
  unfold execSwpt
  grind [outWf_next, State.outWf_issued, State.outWf_holdAtPoint, State.wf_readMaps]

theorem keepsWf_execVariantSwitch {b : Nat} : KeepsWf (execVariantSwitch b) := by
  intro s hs
  unfold execVariantSwitch
  split
  · exact hs
  · split
    · exact hs
    · dsimp only
      split
      · exact hs
      · split
        · next e => simpa using State.wf_fst e (State.wf_readMaps hs)
        · next e =>
          have maps := State.wf_fst e (State.wf_readMaps hs)
          (repeat' split) <;> simp [State.wf_moveScratch, maps]

theorem keepsWf_execSwitchRequest {b target : Nat} : KeepsWf (execSwitchRequest b target) := by
  intro s hs
  unfold execSwitchRequest
  (repeat' split) <;> grind [outWf_next, State.wf_readMaps, State.taken_mem, State.setBlock_mem]

theorem keepsWf_execSwitchWithdraw {b : Nat} : KeepsWf (execSwitchWithdraw b) := by
  intro s hs
  unfold execSwitchWithdraw
  (repeat' split) <;> simp [hs]

theorem keepsWf_execMigrate {core : Nat} {hot : HotCore} : KeepsWf (execMigrate core hot) := by
  intro s hs
  unfold execMigrate
  (repeat' split) <;> simp [hs]

theorem keepsWf_execMigrateRecheck {core : Nat} : KeepsWf (execMigrateRecheck core) := by
  intro s hs
  unfold execMigrateRecheck
  (repeat' split) <;> simp [hs]

/-! ### Power -/

theorem keepsWf_execDroopAlarm {cluster : Nat} : KeepsWf (execDroopAlarm cluster) := by
  intro s hs
  unfold execDroopAlarm
  dsimp only
  split <;> simp [hs]

theorem keepsWf_execDroopHalvingEnd {cluster : Nat} : KeepsWf (execDroopHalvingEnd cluster) := by
  intro s hs
  unfold execDroopHalvingEnd
  dsimp only
  split <;> simp [hs]

theorem keepsWf_execBalanceSample {die : Nat} {imb : Int} : KeepsWf (execBalanceSample die imb) := by
  intro s hs
  unfold execBalanceSample
  split <;> simp [hs]

theorem keepsWf_execGatingStart {die : Nat} : KeepsWf (execGatingStart die) := by
  intro s hs
  unfold execGatingStart
  dsimp only
  split <;> simp [hs]

theorem keepsWf_execGatingComplete {die : Nat} : KeepsWf (execGatingComplete die) := by
  intro s hs
  unfold execGatingComplete
  dsimp only
  split <;> simp [hs]

theorem keepsWf_execWakeComplete {die : Nat} : KeepsWf (execWakeComplete die) := by
  intro s hs
  unfold execWakeComplete
  dsimp only
  split <;> simp [hs]

theorem keepsWf_execThermalLimit {celsius mhz : Nat} : KeepsWf (execThermalLimit celsius mhz) := by
  intro s hs
  unfold execThermalLimit
  dsimp only
  (repeat' split) <;> simp [hs]

theorem keepsWf_execShelfPoll {r : ShelfReading} : KeepsWf (execShelfPoll r) := by
  intro s hs
  unfold execShelfPoll
  dsimp only
  (repeat' split) <;> simp [hs]

theorem keepsWf_execClampCheck {pm : Nat} : KeepsWf (execClampCheck pm) := by
  intro s hs
  unfold execClampCheck
  dsimp only
  split <;> simp [hs]

theorem keepsWf_execClockStep {pm : Nat} : KeepsWf (execClockStep pm) := by
  intro s hs
  unfold execClockStep
  dsimp only
  (repeat' split) <;> simp [hs]

theorem keepsWf_execClampRelease : KeepsWf execClampRelease := by
  intro s hs
  unfold execClampRelease
  dsimp only
  split <;> simp [hs]

theorem keepsWf_execClassRestore : KeepsWf execClassRestore := by
  intro s hs
  unfold execClassRestore
  dsimp only
  split
  · exact hs
  · split
    · exact hs
    · rw [outWf_next, State.endForcing_mem]
      refine State.wf_foldl (fun _ _ h => State.wf_unpark h) _ ?_
      rw [State.foldl_mem _ fun _ _ => State.acceptRequest_mem ..]
      exact hs

/-! ### The time port -/

theorem keepsWf_execPtpFirstLock {tai : Nat} : KeepsWf (execPtpFirstLock tai) := by
  intro s hs
  unfold execPtpFirstLock
  dsimp only
  (repeat' split) <;> simp [hs, State.wf_stepTimer]

theorem keepsWf_execPtpLockChange {locked : Bool} {tai : Nat} : KeepsWf (execPtpLockChange locked tai) := by
  intro s hs
  unfold execPtpLockChange
  dsimp only
  (repeat' split) <;> simp [hs]

theorem keepsWf_execTimerValid : KeepsWf execTimerValid := by
  intro s hs
  unfold execTimerValid
  dsimp only
  split <;> simp [hs]

theorem keepsWf_execPpsInEdge : KeepsWf execPpsInEdge := by
  intro s hs
  simp [execPpsInEdge, hs]

theorem keepsWf_execPpsinExpire : KeepsWf execPpsinExpire := by
  intro s hs
  unfold execPpsinExpire
  split <;> simp [hs]

theorem keepsWf_execPpsOut : KeepsWf execPpsOut := by
  intro s hs
  unfold execPpsOut
  split <;> simp [hs]

/-! ### Firmware -/

theorem keepsWf_execAttest : KeepsWf execAttest := by
  intro s hs
  exact outWf_mboxRow hs fun _ => by simpa using hs

theorem keepsWf_execUpdate {write : FlashWrite} : KeepsWf (execUpdate write) := by
  intro s hs
  exact outWf_mboxRow hs fun _ => by
    dsimp only
    (repeat' split) <;> simpa using hs

theorem keepsWf_execRemap : KeepsWf execRemap := by
  intro s hs
  exact outWf_mboxRow hs fun _ => by simpa [apply_ite State.mem] using hs

theorem keepsWf_execWdog : KeepsWf execWdog := by
  intro s hs
  exact outWf_mboxRow hs fun _ => by
    dsimp only
    split <;> simpa using hs

theorem keepsWf_execPreempt : KeepsWf execPreempt := by
  intro s hs
  exact outWf_mboxRow hs fun _ => by
    dsimp only
    (repeat' split) <;> simpa using hs

theorem keepsWf_execDawnstate : KeepsWf execDawnstate := by
  intro s hs
  exact outWf_mboxRow hs fun _ => by simpa using hs

theorem keepsWf_execMboxUnknownCommand : KeepsWf execMboxUnknownCommand := by
  intro s hs
  unfold execMboxUnknownCommand
  dsimp only
  split <;> simp [hs]

theorem keepsWf_execReset : KeepsWf execReset := by
  intro s hs
  exact wf_filter s.mem _ hs

theorem keepsWf_execTrainingComplete {failed : BitVec 3} : KeepsWf (execTrainingComplete failed) := by
  intro s hs
  unfold execTrainingComplete
  (repeat' split) <;> simp [hs]

theorem keepsWf_execPeerLinkUp {link : Nat} : KeepsWf (execPeerLinkUp link) := by
  intro s hs
  unfold execPeerLinkUp
  split <;> simp [hs]

theorem keepsWf_execBridgeLinkFault {core : Nat} {site : LinkSite} : KeepsWf (execBridgeLinkFault core site) := by
  intro s hs
  unfold execBridgeLinkFault
  cases site with
  | copy k => dsimp only; (repeat' split) <;> simp [hs]
  | access k => dsimp only; (repeat' split) <;> simp [hs]
  | load b w k pa va lane => dsimp only; (repeat' split) <;> simp [hs]
  | tile row => cases (s.core core).mat <;> simp [hs]
  | ray k pa va => dsimp only; (repeat' split) <;> simp [hs, State.outWf_renderStop]
  | head pa va => dsimp only; split <;> simp [hs, State.outWf_loseHead]

theorem keepsWf_execPeerLinkFault {core k : Nat} : KeepsWf (execPeerLinkFault core k) := by
  intro s hs
  unfold execPeerLinkFault
  (repeat' split) <;> simp [hs]

theorem keepsWf_execHostLinkFault : KeepsWf execHostLinkFault := by
  intro s hs
  unfold execHostLinkFault
  refine State.wf_foldl (fun u p hu => ?_) _ (State.wf_foldl (fun u e hu => ?_) _ (State.wf_foldl (fun u p hu => ?_) _ hs))
  · split
    · rwa [State.linkFails_mem]
    · exact hu
  · rwa [State.loseHost_mem]
  · rwa [State.asyncFault_mem]

/-! ### Placing blocks and tasks -/

theorem keepsWf_execPlaceBlock {launch : Nat} : KeepsWf (execPlaceBlock launch) := by
  intro s hs
  unfold execPlaceBlock
  split
  · exact hs
  · split
    · exact hs
    · split
      · rw [outWf_next, State.modLaunch_mem]
        split
        · rwa [State.holdBack_mem]
        · exact hs
      · next hold _ =>
        split
        · exact hs
        · have woken : Memory.wf (s.wakeFor hold).1.mem = true := by rwa [State.wakeFor_mem]
          split
          · next e => exact State.wf_fst e woken
          · next e =>
            rw [outWf_next, State.modLaunch_mem]
            dsimp only
            rw [State.startMembers_mem]
            exact State.wf_fst e woken

theorem keepsWf_execTaskGather {core : Nat} : KeepsWf (execTaskGather core) := by
  intro s hs
  unfold execTaskGather
  (repeat' split) <;> grind [outWf_next, State.wf_taskKernel, State.discardPackets_mem, State.startTask_mem]

/-! ### Stream rings -/

theorem keepsWf_execStreamRingPlace {p : RingPlacement} : KeepsWf (execStreamRingPlace p) := by
  intro s hs
  simp [execStreamRingPlace, hs]

theorem keepsWf_execRingAccept {core k : Nat} : KeepsWf (execRingAccept core k) := by
  intro s hs
  unfold execRingAccept
  dsimp only
  (repeat' split) <;> simp [hs]

theorem keepsWf_execRingSlotWritten {core k : Nat} : KeepsWf (execRingSlotWritten core k) := by
  intro s hs
  unfold execRingSlotWritten
  (repeat' split) <;> simp [hs, State.wf_write, State.wf_finishCopy]

theorem keepsWf_execSrelDequeue {core : Nat} : KeepsWf (execSrelDequeue core) := by
  intro s hs
  unfold execSrelDequeue
  (repeat' split) <;> simp [hs]

end Sys2Proof.Machine
end

section
/-! SUPPORT. The syllables. Whatever a syllable computes, it is staged in its bundle, which may end with it; so a syllable of any
family keeps the canonical form of memory, and with the events every instruction does. -/

namespace Sys2Proof.Machine

section
variable {s : State} (hs : Memory.wf s.mem = true)
include hs

/-! ## The syllables -/

theorem outWf_uSyl {h : Hdr} {f : Env → Act} : OutWf (uSyl h s f) := by
  cases he : s.env with
  | none => simpa [uSyl, he] using hs
  | some e => rw [uSyl_eq he]; exact State.outWf_issued hs

theorem outWf_vSyl {h : Hdr} {f : Env → Lanes → Act} : OutWf (vSyl h s f) := by
  cases he : s.env with
  | none => simpa [vSyl, he] using hs
  | some e => rw [vSyl_eq he]; exact State.outWf_issued hs

theorem outWf_mSyl {h : Hdr} {f : Env → Lanes → List Nat × Act} : OutWf (mSyl h s f) := by
  cases he : s.env with
  | none => simpa [mSyl, he] using hs
  | some e => rw [mSyl_eq he]; exact State.outWf_issued hs

theorem outWf_xSyl {h : Hdr} {f : Env → List Nat × Act} : OutWf (xSyl h s f) := by
  cases he : s.env with
  | none => simpa [xSyl, he] using hs
  | some e => rw [xSyl_eq he]; exact State.outWf_issued hs

theorem outWf_vOp1 {fp : Bool} {w : Nat} {h : Hdr} {o : FmtA} {f : Nat → Nat} : OutWf (vOp1 fp w h o s f) :=
  outWf_vSyl hs

theorem outWf_vOp2 {fp : Bool} {w : Nat} {h : Hdr} {o : FmtA} {f : Nat → Nat → Nat} : OutWf (vOp2 fp w h o s f) :=
  outWf_vSyl hs

theorem outWf_vOp3 {fp : Bool} {w : Nat} {h : Hdr} {o : FmtA} {f : Nat → Nat → Nat → Nat} : OutWf (vOp3 fp w h o s f) :=
  outWf_vSyl hs

theorem outWf_vOpI {h : Hdr} {o : FmtB} {f : Nat → Nat → Nat} : OutWf (vOpI h o s f) := by
  unfold vOpI
  exact outWf_vSyl hs

theorem outWf_fModeOp {h : Hdr} {o : FmtA} {w n : Nat} {f : Env → Nat → Nat → Mode → Nat} : OutWf (fModeOp h o s w n f) :=
  outWf_vSyl hs

theorem outWf_fModeOp2 {h : Hdr} {o : FmtA} {f : Mode → FVal → FVal → FVal} : OutWf (fModeOp2 h o s f) :=
  outWf_fModeOp hs

theorem outWf_fcvti {h : Hdr} {o : FmtA} : OutWf (execFcvti h o s) := by
  unfold execFcvti
  exact outWf_fModeOp hs

theorem outWf_icvtf {h : Hdr} {o : FmtA} : OutWf (execIcvtf h o s) := by
  unfold execIcvtf
  exact outWf_fModeOp hs

theorem outWf_moveSyl {h : Hdr} {o : FmtA} {j : Env → Lanes → Nat → Nat} : OutWf (moveSyl h o s j) :=
  outWf_vSyl hs

theorem outWf_loadSyl {h : Hdr} {o : FmtM} {n : Nat} {signed : Bool} : OutWf (loadSyl h o n signed s) :=
  outWf_mSyl hs

theorem outWf_storeSyl {h : Hdr} {o : FmtM} {n : Nat} : OutWf (storeSyl h o n s) :=
  outWf_mSyl hs

theorem outWf_uniLoadSyl {h : Hdr} {o : FmtM} {n : Nat} : OutWf (uniLoadSyl h o n s) :=
  outWf_mSyl hs

theorem outWf_uniStoreSyl {h : Hdr} {o : FmtM} {n : Nat} : OutWf (uniStoreSyl h o n s) :=
  outWf_mSyl hs

theorem outWf_lineSyl {h : Hdr} {o : FmtM} {f : List Nat → Eff} : OutWf (lineSyl h o s f) :=
  outWf_mSyl hs

theorem outWf_atomicSyl {opcode : Nat} {op : AOp} {n : Nat} {h : Hdr} {o : FmtT} : OutWf (atomicSyl opcode op n h o s) :=
  outWf_mSyl hs

theorem outWf_queueRead {pop : Bool} {h : Hdr} {o : FmtM} : OutWf (queueRead pop h o s) :=
  outWf_mSyl hs

theorem outWf_xAct {h : Hdr} {f : Env → Act} : OutWf (xAct h s f) :=
  outWf_xSyl hs

theorem outWf_copySyl {i : Instr} {ol : Bool} {h : Hdr} {o : FmtE} : OutWf (copySyl i ol h o s) :=
  outWf_xAct hs

theorem outWf_renderSyl {h : Hdr} {addr : Env → DWord} {c : Env → EngCmd} : OutWf (renderSyl h s addr c) :=
  outWf_xAct hs

theorem outWf_mtxSyl {op : Nat} {h : Hdr} {f : Env → Matrix → List Nat × Act} : OutWf (mtxSyl op h s f) :=
  outWf_xSyl hs

theorem outWf_mtxAct {op : Nat} {h : Hdr} {f : Env → Matrix → Act} : OutWf (mtxAct op h s f) :=
  outWf_mtxSyl hs

theorem outWf_tileMem {i : Instr} {op : Nat} {k : XKind} {h : Hdr} {o : FmtE} : OutWf (tileMem i op k h o s) :=
  outWf_mtxSyl hs

theorem outWf_tmovvData {h : Hdr} {o : FmtE} {f : Env → EngCmd → EngCmd} {i : Instr} : OutWf (tmovvData h o s f i) :=
  outWf_mtxAct hs

theorem outWf_tmovvExp {h : Hdr} {o : FmtE} {f : Env → EngCmd → EngCmd} {i : Instr} : OutWf (tmovvExp h o s f i) :=
  outWf_mtxAct hs

theorem outWf_exec (i : Instr) : OutWf (exec i s) := by
  unfold exec
  cases i with
  | nop h o | sadd h o | ssub h o | smul h o | smulh h o | smulhu h o | sdiv h o | sdivu h o | sand h o | sor h o | sxor h o
  | sandn h o | sshl h o | sshr h o | ssra h o | smin h o | smax h o | sminu h o | smaxu h o | scmp h o | ssel h o
  | spopc h o | sclz h o | sbfx h o | sbfi h o | sadd64 h o | saddi h o | sandi h o | sori h o | sxori h o | sshli h o
  | sshri h o | ssrai h o | scmpi h o | sli h o | sliHi h o | sliSx h o | clog h o | br h o | brl h o | bri h o | brli h o
  | brp h o | loopb h o | exit h o | trap h o | brk h o | trigger h o | gridwait h o | wait h o | mfs h o | mts h o
  | mtsTsh h o | mtsPlane h o | mtsSplit h o | mtsRot h o | ringReset h o | mtsDrpth h o | shelfctlWrite h o
  | shelfctlLoad h o | time h o | cyc h o | fenceRel h o | fenceAcq h o | fenceFull h o | rfxResume h o | rfxSkip h o
  | rfxKillb h o | rfxKilll h o | xinv h o | xinvAll h o =>
    exact outWf_uSyl hs
  | vcmp h o | vsel h o | vli h o | vliHi h o | vliSx h o | vdot4 h o | vpack h o | vunpk h o | vcmpi h o | vadd64 h o
  | plog h o | fcmp h o | fcvt h o | fmaxk h o | fdot2 h o | fmxq h o | fmxd h o | sftwid h o | xred h o | xscan h o
  | xballot h o | xvote h o =>
    exact outWf_vSyl hs
  | vmov h o | vpopc h o | vclz h o | fclass h o | sfsin h o | sfcos h o | sfexp2 h o | sflog2 h o | sfrcp h o | sfrsq h o
  | sfsqrt h o =>
    exact outWf_vOp1 hs
  | vadd h o | vsub h o | vadds h o | vaddsu h o | vsubs h o | vsubsu h o | vmul h o | vmulh h o | vmulhu h o | vand h o
  | vor h o | vxor h o | vandn h o | vshl h o | vshr h o | vsra h o | vmin h o | vmax h o | vminu h o | vmaxu h o
  | vabsd h o | vbfx h o | fmin h o | fmax h o =>
    exact outWf_vOp2 hs
  | vmad h o | vbfi h o | ffma h o =>
    exact outWf_vOp3 hs
  | vaddi h o | vandi h o | vshli h o | vshri h o | vsrai h o =>
    exact outWf_vOpI hs
  | fadd h o | fsub h o | fmul h o =>
    exact outWf_fModeOp2 hs
  | xshf h o | xbfly h o | xup h o | xdn h o | xbcast h o =>
    exact outWf_moveSyl hs
  | pref h o | tscl h o =>
    exact outWf_mSyl hs
  | ldb h o | ldbz h o | ldh h o | ldhz h o | ldw h o | ldd h o | ldq h o =>
    exact outWf_loadSyl hs
  | stb h o | sth h o | stw h o | std h o | stq h o =>
    exact outWf_storeSyl hs
  | sldw h o | sldd h o =>
    exact outWf_uniLoadSyl hs
  | sstw h o | sstd h o =>
    exact outWf_uniStoreSyl hs
  | cwb h o | cinv h o =>
    exact outWf_lineSyl hs
  | aadd h o | aand h o | aor h o | axor h o | amin h o | amax h o | aminu h o | amaxu h o | axchg h o | axchgX64 h o
  | acas h o | afadd h o | aadd64 h o | acas64 h o | acas64X128 h o =>
    exact outWf_atomicSyl hs
  | qpop h o | qpeek h o =>
    exact outWf_queueRead hs
  | spawn h o | spawnd h o | enq h o =>
    exact outWf_xSyl hs
  | swait h o | srel h o | deq h o | deqNb h o | barv h o | barw h o | bart h o | barx h o | cbar h o | tlwait h o
  | tlsig h o | tlrd h o =>
    exact outWf_xAct hs
  | cpy h o | cpys h o | cpym h o | gath h o | redc h o | cnvt h o | bsnd h o | cpyt h o =>
    exact outWf_copySyl hs
  | rast h o | rayq h o | rtile h o =>
    exact outWf_renderSyl hs
  | tmma h o | trnd h o | tzeroPlane h o | tzeroTile h o | twin h o | tbfly h o | tbrev h o | ttwg h o | ttrn h o
  | tmerge h o =>
    exact outWf_mtxAct hs
  | tld h o | tst h o =>
    exact outWf_tileMem hs
  | tmovvTv h o | tmovvVt h o =>
    exact outWf_tmovvData hs
  | tmovvTvRx h o | tmovvVtRx h o =>
    exact outWf_tmovvExp hs
  | swpt h o => exact keepsWf_execSwpt hs
  | fcvti h o => exact outWf_fcvti hs
  | icvtf h o => exact outWf_icvtf hs
  | doubleFault die cause => exact keepsWf_execDoubleFault hs
  | illegalOpcode mask detail => exact keepsWf_execIllegalOpcode hs
  | fetchFault addr sub => exact keepsWf_execFetchFault hs
  | loadReturn b w k => exact keepsWf_execLoadReturn hs
  | storePerform site => exact keepsWf_execStorePerform hs
  | atomicPerform core k => exact keepsWf_execAtomicPerform hs
  | hostAtomicopCompletion core k status => exact keepsWf_execHostAtomicopCompletion hs
  | hostCompletionTimeout core k => exact keepsWf_execHostCompletionTimeout hs
  | staleLineExpire core line => exact keepsWf_execStaleLineExpire hs
  | tableUpdate r => exact keepsWf_execTableUpdate hs
  | copyDequeue core => exact keepsWf_execCopyDequeue hs
  | copyFragment core k => exact keepsWf_execCopyFragment hs
  | copyComplete core k => exact keepsWf_execCopyComplete hs
  | cpytRelease core k => exact keepsWf_execCpytRelease hs
  | basedieExecute core k => exact keepsWf_execBasedieExecute hs
  | ringAccept core k => exact keepsWf_execRingAccept hs
  | ringSlotWritten core k => exact keepsWf_execRingSlotWritten hs
  | srelDequeue core => exact keepsWf_execSrelDequeue hs
  | matrixExecute core n => exact keepsWf_execMatrixExecute hs
  | matrixComplete core => exact keepsWf_execMatrixComplete hs
  | tsclLatchWrite b => exact keepsWf_execTsclLatchWrite hs
  | rasterBatch core => exact keepsWf_execRasterBatch hs
  | rtileComplete core act => exact keepsWf_execRtileComplete hs
  | rayqComplete core act => exact keepsWf_execRayqComplete hs
  | taskPush core => exact keepsWf_execTaskPush hs
  | enqArrive core => exact keepsWf_execEnqArrive hs
  | taskGather core => exact keepsWf_execTaskGather hs
  | taskSteal core victim => exact keepsWf_execTaskSteal hs
  | stealRetry core => exact keepsWf_execStealRetry hs
  | dequeFullTimeout b w => exact keepsWf_execDequeFullTimeout hs
  | queueFullTimeout b w => exact keepsWf_execQueueFullTimeout hs
  | waitSatisfied b w => exact keepsWf_execWaitSatisfied hs
  | watchdog b w => exact keepsWf_execWatchdog hs
  | blockExit b => exact keepsWf_execBlockExit hs
  | blockRelease b => exact keepsWf_execBlockRelease hs
  | kick v => exact keepsWf_execKick hs
  | grcmdRegister v => exact keepsWf_execGrcmdRegister hs
  | grcmdUnregister v => exact keepsWf_execGrcmdUnregister hs
  | grcmdInvalid v => exact keepsWf_execGrcmdInvalid hs
  | eqConfigWrite a => exact keepsWf_execEqConfigWrite hs
  | eqlostClear a => exact keepsWf_execEqlostClear hs
  | bar0RegisterWrite a => exact keepsWf_execBar0RegisterWrite hs
  | bar0BadAccess a => exact keepsWf_execBar0BadAccess hs
  | hostBar2Access a => exact keepsWf_execHostBar2Access hs
  | replayStart handle => exact keepsWf_execReplayStart hs
  | nodeReady replay node => exact keepsWf_execNodeReady hs
  | launchAccept queue => exact keepsWf_execLaunchAccept hs
  | placeBlock launch => exact keepsWf_execPlaceBlock hs
  | governorPoint replay node => exact keepsWf_execGovernorPoint hs
  | skippedNodeComplete replay node => exact keepsWf_execSkippedNodeComplete hs
  | launchComplete launch => exact keepsWf_execLaunchComplete hs
  | replayComplete replay => exact keepsWf_execReplayComplete hs
  | replayFinish replay => exact keepsWf_execReplayFinish hs
  | faultRecordWrite die => exact keepsWf_execFaultRecordWrite hs
  | blockStop b => exact keepsWf_execBlockStop hs
  | exitedBlockImage b => exact keepsWf_execExitedBlockImage hs
  | saveImage b => exact keepsWf_execSaveImage hs
  | restoreBlock k => exact keepsWf_execRestoreBlock hs
  | preemptRequest t => exact keepsWf_execPreemptRequest hs
  | switchRequest b target => exact keepsWf_execSwitchRequest hs
  | variantSwitch b => exact keepsWf_execVariantSwitch hs
  | switchWithdraw b => exact keepsWf_execSwitchWithdraw hs
  | migrate core hot => exact keepsWf_execMigrate hs
  | migrateRecheck core => exact keepsWf_execMigrateRecheck hs
  | thermalLimit celsius mhz => exact keepsWf_execThermalLimit hs
  | droopAlarm cluster => exact keepsWf_execDroopAlarm hs
  | droopHalvingEnd cluster => exact keepsWf_execDroopHalvingEnd hs
  | balanceSample die imb => exact keepsWf_execBalanceSample hs
  | gatingStart die => exact keepsWf_execGatingStart hs
  | gatingComplete die => exact keepsWf_execGatingComplete hs
  | wakeComplete die => exact keepsWf_execWakeComplete hs
  | shelfPoll p => exact keepsWf_execShelfPoll hs
  | shedPark b => exact keepsWf_execShedPark hs
  | shedForced b => exact keepsWf_execShedForced hs
  | clampCheck pm => exact keepsWf_execClampCheck hs
  | clockStep pm => exact keepsWf_execClockStep hs
  | clampRelease => exact keepsWf_execClampRelease hs
  | classRestore => exact keepsWf_execClassRestore hs
  | ptpFirstLock tai => exact keepsWf_execPtpFirstLock hs
  | ptpLockChange locked tai => exact keepsWf_execPtpLockChange hs
  | ppsInEdge => exact keepsWf_execPpsInEdge hs
  | ppsOut => exact keepsWf_execPpsOut hs
  | mboxDoorbell a => exact keepsWf_execMboxDoorbell hs
  | attest => exact keepsWf_execAttest hs
  | update write => exact keepsWf_execUpdate hs
  | remap => exact keepsWf_execRemap hs
  | wdog => exact keepsWf_execWdog hs
  | preempt => exact keepsWf_execPreempt hs
  | dawnstate => exact keepsWf_execDawnstate hs
  | mboxUnknownCommand => exact keepsWf_execMboxUnknownCommand hs
  | reset => exact keepsWf_execReset hs
  | trainingComplete failed => exact keepsWf_execTrainingComplete hs
  | peerLinkUp link => exact keepsWf_execPeerLinkUp hs
  | bridgeLinkFault core site => exact keepsWf_execBridgeLinkFault hs
  | peerLinkFault core k => exact keepsWf_execPeerLinkFault hs
  | hostLinkFault => exact keepsWf_execHostLinkFault hs
  | peerTimelineSignal p => exact keepsWf_execPeerTimelineSignal hs
  | sramUncorrectable e => exact keepsWf_execSramUncorrectable hs
  | evictUncorrectable line => exact keepsWf_execEvictUncorrectable hs
  | scrubError granule => exact keepsWf_execScrubError hs
  | peerLinkRequest a => exact keepsWf_execPeerLinkRequest hs
  | ppsinExpire => exact keepsWf_execPpsinExpire hs
  | timerValid => exact keepsWf_execTimerValid hs
  | streamRingPlace p => exact keepsWf_execStreamRingPlace hs
  | namedQueueAssign p => exact keepsWf_execNamedQueueAssign hs
  | poolRefill die size frames => exact keepsWf_execPoolRefill hs

end

end Sys2Proof.Machine
end

section
/-! SUPPORT. The issue of bundles: whatever the waves of a core try, the state they come to keeps the canonical form of memory. -/

namespace Sys2Proof.Machine

theorem OutWf.of_eq {o : Out} {t : State} (ho : OutWf o) (e : o = .next t) : Memory.wf t.mem = true := by
  subst e
  exact ho

theorem forall_mem_none {α : Type} {P : α → Prop} : ∀ r ∈ (none : Option α), P r :=
  fun r h => absurd h (Option.not_mem_none r)

theorem forall_mem_some {α : Type} {P : α → Prop} {a : α} (h : P a) : ∀ r ∈ some a, P r :=
  fun _ e => Option.some.inj e ▸ h

section
variable {s : State} (hs : Memory.wf s.mem = true)
include hs

/-! ## One bundle -/

theorem outWf_runSyllables {is : List Instr} : OutWf (runSyllables is s) := by
  induction is generalizing s with
  | nil => exact hs
  | cons i is ih =>
    unfold runSyllables
    have done := outWf_exec hs i
    split
    · next e => exact ih (done.of_eq e)
    · trivial
    · trivial

theorem State.outWf_stageAll {iu : Issue} {is : List Instr} : OutWf (s.stageAll iu is) :=
  outWf_runSyllables (s := { s with cur := some { iu with sub := true } }) hs

theorem State.outWf_openSplit {e : Env} {is : List Instr} {p : List Nat} {left : List (List Nat)} :
    OutWf (s.openSplit e is p left) := by
  unfold State.openSplit
  split
  · next e =>
    have staged := (State.outWf_stageAll hs).of_eq e
    split
    · exact staged
    · simpa using staged
  · exact State.outWf_stageAll hs

theorem State.outWf_splitBundle {e : Env} {is : List Instr} {p : List Nat} {left : List (List Nat)} :
    OutWf (s.splitBundle e is p left) := by
  unfold State.splitBundle
  split
  · next e =>
    have staged := (State.outWf_stageAll hs).of_eq e
    split
    · exact staged
    · split
      · exact State.wf_finish staged
      · exact State.outWf_openSplit hs
  · exact State.outWf_stageAll hs

theorem State.outWf_endSplit {sp : Split} : OutWf (s.endSplit sp) := by
  have captured {f : Block → Block} : Memory.wf (s.modBlock sp.iu.block f).mem = true := by rwa [State.modBlock_mem]
  unfold State.endSplit
  split
  · split
    · exact hs
    · exact State.wf_finish hs
  · exact State.outWf_stageAll captured

theorem State.outWf_nextPart {b w : Nat} {x : Block} {y : Wave} {sp : Split} :
    ∀ r ∈ s.nextPart b w x y sp, OutWf r.1 := by
  unfold State.nextPart
  dsimp only
  split
  · exact forall_mem_none
  · split
    · exact forall_mem_none
    · split
      · exact forall_mem_some (State.outWf_endSplit hs)
      · refine forall_mem_some ?_
        rwa [outWf_next, State.setWave_mem]

theorem State.outWf_issueDecoded {is : List Instr} {ps : List (List Nat)} : OutWf (s.issueDecoded is ps) := by
  unfold State.issueDecoded
  split
  · exact hs
  · split
    · rwa [outWf_next, State.holdIssue_mem]
    · split
      · exact State.outWf_splitBundle hs
      · exact outWf_runSyllables hs

theorem State.wf_begin {b w ctx len : Nat} {lanes : Lanes} {pc : PC} : Memory.wf (s.begin b w ctx lanes pc len).mem = true := by
  rwa [State.begin_mem]

theorem State.outWf_issueAt {b w : Nat} {x : Block} {y : Wave} {pc : PC} : OutWf (s.issueAt b w x y pc).1 := by
  have fetched := State.wf_fetchBundle hs (x := x.seenBy y) (pc := pc)
  unfold State.issueAt
  split
  · next e =>
    dsimp only
    exact outWf_exec (State.wf_begin (State.wf_fst e fetched)) _
  · next e =>
    dsimp only
    split
    · exact State.outWf_issueDecoded (State.wf_begin (State.wf_fst e fetched))
    · dsimp only
      split
      · exact outWf_exec (State.wf_begin (State.wf_fst e fetched)) _
      · rw [outWf_next, State.decodeStop_mem]
        exact State.wf_begin (State.wf_fst e fetched)

/-! ## One wave -/

theorem State.outWf_issueSubset {b w : Nat} {x : Block} {y : Wave} {pc : PC} {esc : Nat} :
    OutWf (s.issueSubset b w x y pc esc).1 :=
  State.outWf_issueAt (by rwa [State.setWave_mem])

theorem State.outWf_chooseSubset {b w : Nat} {x : Block} {y : Wave} {p : PC} {ps : List PC} :
    OutWf (s.chooseSubset b w x y p ps).1 := by
  unfold State.chooseSubset
  split
  · split
    · exact State.outWf_issueSubset hs
    · exact State.outWf_issueSubset hs
  · exact State.outWf_issueSubset hs

theorem State.outWf_turnOfWave {b w : Nat} {beside : Bool} : ∀ r ∈ s.turnOfWave b w beside, OutWf r.1 := by
  unfold State.turnOfWave
  split
  · exact forall_mem_none
  · split
    · exact forall_mem_none
    · split
      · exact fun r hr => State.outWf_nextPart hs r (Option.mem_filter_iff.1 hr).1
      · exact forall_mem_none
      · split
        · exact forall_mem_none
        · dsimp only
          split
          · exact forall_mem_some (State.outWf_chooseSubset hs)
          · exact forall_mem_none

theorem State.outWf_tryWave {b w : Nat} {beside : Bool} : ∀ r ∈ s.tryWave b w beside, OutWf r.1 :=
  fun r hr => State.outWf_turnOfWave hs r (Option.mem_filter_iff.1 hr).1

theorem State.outWf_tryFresh {b w : Nat} {beside : Bool} : ∀ r ∈ s.tryFresh b w beside, OutWf r.1 :=
  State.outWf_tryWave (by rwa [State.modWave_mem])

/-! ## The waves of a core -/

theorem State.wf_issueFirst {core : Nat} {l : List (Nat × Nat × Nat)} :
    Memory.wf (s.issueFirst core l).1.mem = true ∧ ∀ o ∈ (s.issueFirst core l).2, OutWf o := by
  induction l generalizing s with
  | nil => exact ⟨hs, fun _ ho => by cases ho⟩
  | cons p l ih =>
    obtain ⟨k, b, w⟩ := p
    have tried := State.outWf_tryFresh hs (b := b) (w := w) (beside := false)
    unfold State.issueFirst
    split
    · exact ih hs
    · next t m e =>
      have ht : Memory.wf t.mem = true := tried _ e
      split
      · exact ih (by rwa [State.noteHeld_mem])
      · split
        · exact ih ht
        · refine ⟨hs, fun o ho => ?_⟩
          cases ho
          rwa [outWf_next, State.modCore_mem]
    · next e =>
      refine ⟨hs, fun o ho => ?_⟩
      cases ho
      exact tried _ e

theorem State.outWf_issuePartner {p : Partner} : OutWf (s.issuePartner p) := by
  have tried := State.outWf_tryFresh hs (b := p.b) (w := p.w) (beside := true)
  unfold State.issuePartner
  split
  · exact hs
  · next t _ e =>
    have ht : Memory.wf t.mem = true := tried _ e
    rw [outWf_next]
    split
    · rwa [State.noteHeld_mem]
    · rwa [State.storesAfter_mem]
  · next e => exact tried _ e

theorem State.wf_issueAny {l : List Nat} : Memory.wf (s.issueAny l).1.mem = true ∧ ∀ o ∈ (s.issueAny l).2, OutWf o := by
  induction l generalizing s with
  | nil => exact ⟨hs, fun _ ho => by cases ho⟩
  | cons c l ih =>
    have first := State.wf_issueFirst hs (core := c) (l := s.tryOrder c)
    unfold State.issueAny
    split
    · exact ih hs
    · split
      · next e => exact ih (State.wf_fst e first.1)
      · exact first

end

end Sys2Proof.Machine
end

section
/-! SUPPORT. A step: the events that are due, the next move and the time it takes keep the canonical form of memory. -/

namespace Sys2Proof.Machine

theorem keepsWf_nil : ∀ f ∈ ([] : List (State → Out)), KeepsWf f :=
  List.forall_mem_nil _

/-! ## The rows that are due -/

theorem Wave.due_keepsWf (y : Wave) (b w : Nat) : ∀ f ∈ y.due b w, KeepsWf f := by
  simp only [Wave.due, List.forall_mem_append, List.forall_mem_map]
  refine ⟨⟨⟨⟨fun _ _ => keepsWf_execLoadReturn, ?_⟩, ?_⟩, ?_⟩, ?_⟩
  · split
    · exact keepsWf_nil
    · exact List.forall_mem_singleton.2 keepsWf_execStorePerform
  · split
    · exact List.forall_mem_singleton.2 keepsWf_execWaitSatisfied
    · exact keepsWf_nil
  · split
    · simp only [List.forall_mem_cons]
      exact ⟨keepsWf_execDequeFullTimeout, keepsWf_execQueueFullTimeout, keepsWf_nil⟩
    · exact keepsWf_nil
  · split
    · exact List.forall_mem_singleton.2 keepsWf_execWatchdog
    · exact keepsWf_nil

theorem State.blockDue_keepsWf (s : State) (b : Nat) (x : Block) : ∀ f ∈ s.blockDue b x, KeepsWf f := by
  simp only [State.blockDue, List.forall_mem_append, List.forall_mem_map, List.forall_mem_flatMap, List.forall_mem_cons]
  exact ⟨⟨fun e _ => e.2.due_keepsWf b e.1, keepsWf_execTsclLatchWrite, keepsWf_execBlockExit, keepsWf_execBlockRelease,
    keepsWf_execBlockStop, keepsWf_execSaveImage, keepsWf_execExitedBlockImage, keepsWf_execShedPark, keepsWf_execShedForced,
    keepsWf_execVariantSwitch, keepsWf_execSwitchWithdraw, keepsWf_nil⟩, fun _ _ => keepsWf_execSwitchRequest⟩

theorem copyDue_keepsWf (core k : Nat) : ∀ f ∈ copyDue core k, KeepsWf f := by
  simp only [copyDue, List.forall_mem_cons]
  exact ⟨keepsWf_execCopyFragment, keepsWf_execCopyComplete, keepsWf_execCpytRelease, keepsWf_execBasedieExecute,
    keepsWf_execRingAccept, keepsWf_execRingSlotWritten, keepsWf_nil⟩

theorem State.stealDue_keepsWf (s : State) (core : Nat) (q : CoreSt) : ∀ f ∈ s.stealDue core q, KeepsWf f := by
  unfold State.stealDue
  split
  · exact keepsWf_nil
  · simp only [List.forall_mem_flatMap, List.forall_mem_cons]
    exact fun _ _ => ⟨keepsWf_execTaskSteal, keepsWf_execStealRetry, keepsWf_nil⟩

theorem State.coreDue_keepsWf (s : State) (core : Nat) (q : CoreSt) : ∀ f ∈ s.coreDue core q, KeepsWf f := by
  simp only [State.coreDue, List.forall_mem_append, List.forall_mem_map, List.forall_mem_flatMap, List.forall_mem_cons]
  refine ⟨⟨⟨⟨⟨⟨⟨⟨?arrivals, ?copies⟩, ?engine⟩, ?matrix⟩, ?rays⟩, ?gather⟩, s.stealDue_keepsWf core q⟩, ?lines⟩, ?recheck⟩
  case arrivals => exact fun _ _ => ⟨keepsWf_execStorePerform, keepsWf_execAtomicPerform, keepsWf_nil⟩
  case copies => exact fun k _ => copyDue_keepsWf core k
  case engine =>
    split
    · exact keepsWf_nil
    · simp only [List.forall_mem_cons]
      exact ⟨keepsWf_execCopyDequeue, keepsWf_execSrelDequeue, keepsWf_execRtileComplete, keepsWf_execRayqComplete,
        keepsWf_execTaskPush, keepsWf_execEnqArrive, keepsWf_nil⟩
  case matrix => exact ⟨keepsWf_execMatrixExecute, keepsWf_execMatrixComplete, keepsWf_execRasterBatch, keepsWf_nil⟩
  case rays => exact fun _ _ => ⟨keepsWf_execRtileComplete, keepsWf_execRayqComplete, keepsWf_nil⟩
  case gather =>
    split
    · exact keepsWf_nil
    · exact List.forall_mem_singleton.2 keepsWf_execTaskGather
  case lines => exact fun _ _ => keepsWf_execStaleLineExpire
  case recheck => exact ⟨keepsWf_execMigrateRecheck, keepsWf_nil⟩

theorem Replay.due_keepsWf (r : Replay) (n : Nat) : ∀ f ∈ r.due n, KeepsWf f := by
  simp only [Replay.due, List.forall_mem_append, List.forall_mem_flatMap, List.forall_mem_cons]
  exact ⟨fun _ _ => ⟨keepsWf_execNodeReady, keepsWf_execGovernorPoint, keepsWf_execSkippedNodeComplete, keepsWf_nil⟩,
    keepsWf_execReplayComplete, keepsWf_execReplayFinish, keepsWf_nil⟩

theorem State.dispatchDue_keepsWf (s : State) : ∀ f ∈ s.dispatchDue, KeepsWf f := by
  simp only [State.dispatchDue, List.forall_mem_append, List.forall_mem_map, List.forall_mem_flatMap, List.forall_mem_cons]
  refine ⟨⟨⟨⟨fun _ _ => keepsWf_execReplayStart, fun e _ => ?_⟩, fun _ _ => keepsWf_execLaunchAccept⟩,
    fun _ _ => ⟨keepsWf_execPlaceBlock, keepsWf_execLaunchComplete, keepsWf_nil⟩⟩, fun _ _ => keepsWf_execRestoreBlock⟩
  split
  · exact keepsWf_nil
  · exact e.2.due_keepsWf e.1

theorem State.moduleDue_keepsWf (s : State) : ∀ f ∈ s.moduleDue, KeepsWf f := by
  simp only [State.moduleDue, List.forall_mem_append, List.forall_mem_map, List.forall_mem_flatMap, List.forall_mem_cons]
  refine ⟨⟨⟨⟨⟨?dies, ?halving⟩, ?shelf⟩, ?training⟩, ?balance⟩, ?mailbox⟩
  case dies =>
    exact fun _ _ => ⟨keepsWf_execFaultRecordWrite, keepsWf_execGatingStart, keepsWf_execGatingComplete, keepsWf_execWakeComplete,
      keepsWf_nil⟩
  case halving => exact fun _ _ => keepsWf_execDroopHalvingEnd
  case shelf =>
    exact ⟨keepsWf_execShelfPoll, keepsWf_execClampCheck, keepsWf_execClockStep, keepsWf_execClampRelease,
      keepsWf_execClassRestore, keepsWf_execPpsinExpire, keepsWf_execPpsOut, keepsWf_nil⟩
  case training =>
    split
    · exact List.forall_mem_singleton.2 keepsWf_execTrainingComplete
    · exact keepsWf_nil
  case balance => exact fun _ _ => keepsWf_execBalanceSample
  case mailbox =>
    split
    · simp only [List.forall_mem_cons]
      exact ⟨keepsWf_execAttest, keepsWf_execUpdate, keepsWf_execUpdate, keepsWf_execRemap, keepsWf_execWdog, keepsWf_execPreempt,
        keepsWf_execDawnstate, keepsWf_execMboxUnknownCommand, keepsWf_nil⟩
    · exact keepsWf_nil

theorem State.due_keepsWf (s : State) : ∀ f ∈ s.due, KeepsWf f := by
  have rows : ∀ f ∈ (s.blocks.flatMap fun e => s.blockDue e.1 e.2) ++ (s.cores.flatMap fun e => s.coreDue e.1 e.2) ++
      s.dispatchDue ++ s.moduleDue, KeepsWf f := by
    simp only [List.forall_mem_append, List.forall_mem_flatMap]
    exact ⟨⟨⟨fun e _ => s.blockDue_keepsWf e.1 e.2, fun e _ => s.coreDue_keepsWf e.1 e.2⟩, s.dispatchDue_keepsWf⟩,
      s.moduleDue_keepsWf⟩
  exact List.forall_mem_append.2 ⟨fun f hf => rows f (List.mem_of_mem_drop hf), fun f hf => rows f (List.mem_of_mem_take hf)⟩

/-! ## A step -/

theorem State.outWf_orElse {s : State} {o other : Out} (ho : OutWf o) (hother : OutWf other) : OutWf (s.orElse o other) := by
  unfold State.orElse
  split
  · exact ho
  · exact hother

theorem State.wf_tick {s : State} (hs : Memory.wf s.mem = true) : Memory.wf s.tick.mem = true := by
  unfold State.tick
  dsimp only
  refine State.wf_runUpdates ?_
  rw [State.withdrawLate_mem, State.noteGrowth_mem, State.noteIdle_mem, State.forceAll_mem, State.endCycles_mem,
    State.pass_mem, State.parkAll_mem]
  exact hs

theorem outWf_ticked {o : Out} (ho : OutWf o) : OutWf (ticked o) := by
  cases o with
  | next t =>
    change Memory.wf (if t.partner.isSome then { t with steps := t.steps + 1 } else t.tick).mem = true
    split
    · exact ho
    · exact State.wf_tick ho
  | fault f => trivial
  | refused r => trivial

section
variable {s : State} (hs : Memory.wf s.mem = true)
include hs

theorem State.outWf_internal : ∀ o ∈ s.internal, OutWf o := by
  intro o ho
  obtain ⟨f, hf, e⟩ := List.exists_of_findSome?_eq_some ho
  dsimp only at e
  split at e
  · cases e
    exact s.due_keepsWf f hf hs
  · cases e

theorem State.outWf_waveMove : OutWf s.waveMove := by
  have issued := State.wf_issueAny hs (l := s.busyCores)
  unfold State.waveMove
  split
  · next e => exact issued.2 _ (by rw [e]; rfl)
  · next t e =>
    have ht : Memory.wf t.mem = true := State.wf_fst e issued.1
    cases ei : t.internal with
    | none => exact ht
    | some o => exact State.outWf_internal ht o ei

theorem State.outWf_eventMove : OutWf s.eventMove := by
  unfold State.eventMove
  split
  · next e => exact State.outWf_internal hs _ e
  · exact State.outWf_waveMove hs

theorem State.outWf_ownMove : OutWf s.ownMove := by
  unfold State.ownMove
  dsimp only
  split
  · exact State.outWf_waveMove hs
  · exact State.outWf_eventMove hs

theorem State.outWf_move : OutWf s.move := by
  unfold State.move
  split
  · next p _ _ => exact State.outWf_issuePartner (s := { s with partner := none }) hs
  · next rest _ _ => exact State.outWf_orElse (outWf_exec (s := { s with agenda := rest }) hs _) (State.outWf_ownMove hs)
  · split
    · exact State.outWf_orElse (keepsWf_execNodeReady hs) (State.outWf_ownMove hs)
    · exact State.outWf_ownMove hs

theorem outWf_step : OutWf (step s) :=
  outWf_ticked (State.outWf_move hs)

end

/-! ## The obligations -/

/-- Settles O60: the next move and the time it takes each keep the canonical form. -/
theorem stepsKeepMemoryCanonical : Obligations.StepsKeepMemoryCanonical := by
  unfold Obligations.StepsKeepMemoryCanonical
  intro s t hs e
  exact (outWf_step hs).of_eq e

/-- Settles O59: the memory after reset has no cells. -/
theorem resetMemoryIsCanonical : Obligations.ResetMemoryIsCanonical :=
  (wf_iff []).2 ⟨List.Pairwise.nil, List.forall_mem_nil _⟩

end Sys2Proof.Machine
end

section
/-! PROOFS. Power and time: what each of their events answers where its guard holds (R23, R85, R86, R102 to R105, R166, R403 to R411). -/

namespace Sys2Proof.Machine

section
variable {s : State}

/-! ## Droop (R166, R403) -/

theorem exec_droopAlarm_outside {k : Nat} (h : ¬((s.cluster k).droop ≠ 0 ∧ (s.cluster k).since < 6)) :
    exec (.droopAlarm k) s = .next ((s.setCluster k { s.cluster k with
      alarms := satInc16 (s.cluster k).alarms, droop := 1, droopAt := (s.cluster k).cyc.toNat }).event 0x39 (mkDet 0 none (k % 2))) :=
  congrArg Host.Outcome.next (if_neg h)

theorem exec_droopAlarm_inside {k : Nat} (hd : (s.cluster k).droop ≠ 0) (hc : (s.cluster k).since < 6) :
    exec (.droopAlarm k) s = .next (s.setCluster k { s.cluster k with alarms := satInc16 (s.cluster k).alarms }) :=
  congrArg Host.Outcome.next (if_pos ⟨hd, hc⟩)

theorem exec_droopHalvingEnd_due {k : Nat} (hd : (s.cluster k).droop ≠ 0) (hc : 70 ≤ (s.cluster k).since) :
    exec (.droopHalvingEnd k) s = .next (s.setCluster k { s.cluster k with droop := 0 }) :=
  congrArg Host.Outcome.next (if_pos ⟨hd, hc⟩)

/-! ## Balance and gating (R102, R104) -/

theorem sat_of_between {v lo hi : Int} (hlo : lo ≤ v) (hhi : v ≤ hi) : sat v lo hi = v := by
  rw [sat, if_neg (Int.not_lt.2 hlo), if_neg (Int.not_lt.2 hhi)]

theorem exec_balanceSample_early {k : Nat} {imb : Int} (h : s.now < 50 * ((s.die k).sampled + 1)) :
    exec (.balanceSample k imb) s = .next s :=
  congrArg Host.Outcome.next (if_pos h)

/-- A sample in the range of IMB is kept as it is, so that its own sign and size decide the mask level. -/
theorem exec_balanceSample_due {k : Nat} {imb : Int} (hlo : -128 ≤ imb) (hhi : imb ≤ 127)
    (h : 50 * ((s.die k).sampled + 1) ≤ s.now) :
    exec (.balanceSample k imb) s = .next (s.modDie k fun d =>
      let heavy := if imb = 0 then d.heavy else decide (imb < 0)
      { d with imb := BitVec.ofInt 8 imb, heavy := heavy, sampled := d.sampled + 1,
               mlvl := BitVec.ofNat 2 (nextLevel imb (if heavy = d.heavy then d.mlvl.toNat else 0)) }) := by
  change execBalanceSample k imb s = _
  simp only [execBalanceSample, sat_of_between hlo hhi, if_neg (Nat.not_lt.2 h)]

theorem exec_gatingStart_due {k : Nat} (hg : (s.die k).gate = .powered) (hi : s.idle k = true)
    (ht : (s.die k).gateSince + 2000 ≤ s.now) :
    exec (.gatingStart k) s = .next (s.setDie k { s.die k with gate := .gating, gateSince := s.now }) :=
  congrArg Host.Outcome.next (if_pos ⟨hg, hi, ht⟩)

theorem exec_gatingComplete_due {k : Nat} (hg : (s.die k).gate = .gating) (ht : (s.die k).gateSince + 400 ≤ s.now) :
    exec (.gatingComplete k) s = .next (s.setDie k { s.die k with gate := .gated, gateSince := s.now }) :=
  congrArg Host.Outcome.next (if_pos ⟨hg, ht⟩)

theorem exec_wakeComplete_waking {k : Nat} (hg : (s.die k).gate = .waking) :
    exec (.wakeComplete k) s = .next (s.setDie k { s.die k with gate := .powered, gateSince := s.now }) :=
  congrArg Host.Outcome.next (if_pos hg)

/-! ## The thermal limit (R23) -/

/-- A limit below a clock is noted in every phase; dawn service alone keeps its clocks (R425; log entry 71). -/
theorem exec_thermalLimit_above {celsius mhz : Nat} (h : s.clockAbove mhz = true) :
    let t : State := { s with power := { s.power with thermal := some (min mhz (s.power.thermal.getD mhz)) } }
    exec (.thermalLimit celsius mhz) s = .next ((if s.host.phase = 1 then t
      else { t with power := { t.power with free := min s.power.free mhz } }.clocks fun f => min f mhz).event 0x38 (mkDet 0 none celsius)) := by
  change execThermalLimit celsius mhz s = _
  rw [execThermalLimit, if_neg (by simp [h])]

/-! ## The shelf (R404 to R407) -/

theorem exec_shelfPoll_parksOpen {r : ShelfReading} (h : s.parksOpen s.power.pollAt = true) :
    exec (.shelfPoll r) s = .next s :=
  if_pos (.inr h)

theorem Power.allowAt_of_not_en {p : Power} (h : p.en = false) : p.allowAt = 2400 := by
  rw [Power.allowAt, if_pos (by simp [h])]

section
variable {r : ShelfReading} (hd : s.power.pollAt ≤ s.now) (hp : s.parksOpen s.power.pollAt = false)
include hd hp

/-- At its instant a poll that waits for no park does what EN says. -/
theorem exec_shelfPoll_due : exec (.shelfPoll r) s =
    if !s.power.en then .next { s with power := { s.power with allow := s.power.allowAt, polled := s.now / 100000 } }
    else
      let t := { s with power := s.power.take r s.steps s.power.pollAt }
      .next (if t.power.allow < r.pm then t.cross s.power.pollAt else t) :=
  if_neg (by simp [hd, hp])

theorem exec_shelfPoll_of_not_en (he : s.power.en = false) :
    exec (.shelfPoll r) s = .next { s with power := { s.power with allow := 2400, polled := s.now / 100000 } } := by
  rw [exec_shelfPoll_due hd hp, if_pos (by simp [he]), Power.allowAt_of_not_en he]

theorem exec_shelfPoll_of_en (he : s.power.en = true) :
    let t := { s with power := s.power.take r s.steps s.power.pollAt }
    exec (.shelfPoll r) s = .next (if t.power.allow < r.pm then t.cross s.power.pollAt else t) := by
  rw [exec_shelfPoll_due hd hp, if_neg (by simp [he])]

end

/-- A good poll takes both readings and begins their age again (R405). -/
theorem Power.take_of_ok {p : Power} {r : ShelfReading} {step at' : Nat} (h : r.ok = true) :
    let free (k : Nat) := (Config.freeWord step (2 ^ 50 + k)).extractLsb' 0 16
    let q := { p with
      vinOk := true, vin := linear11 (free 0) 100 r.vin, freq := linear11 (free 1) 1000 r.freq, age := 0, pm := r.pm,
      lastPoll := some at', polled := p.polled + 1, crossings := p.crossings.filter fun t => decide (at' ≤ t + 400000) }
    p.take r step at' = ({ q with allow := q.allowAt }).count true := by
  simp only [Power.take, h, if_true]

/-! ## The clamp and restoration (R410, R411) -/

theorem exec_clampCheck_due {c : Nat} (hl : s.power.lastPoll = some (c + 400000)) (hc : c ∈ s.power.crossings)
    (ha : s.power.allow < s.power.pm) :
    exec (.clampCheck s.power.pm) s = .next { s with power := { s.power with
      clamp := true, stepAt := some (s.power.stepAt.getD s.now), clampGood := 0 } } := by
  have due : ((s.power.lastPoll.map fun t => s.power.crossings.any fun c => decide (c + 400000 = t)).getD false) = true := by
    rw [hl]
    exact List.any_eq_true.2 ⟨c, hc, decide_eq_true rfl⟩
  exact congrArg Host.Outcome.next (if_pos (by simp [due, ha]))

theorem exec_clockStep_due {pm t : Nat} (hs : s.power.stepAt = some t) (hc : s.power.clamp = true) (ht : t + 5000 ≤ s.now)
    (ha : s.power.allow < pm) :
    exec (.clockStep pm) s = .next ({ s with power := { s.power with stepAt := some s.now } }.clocks
      fun f => if 500 < f then max 500 (f - 50) else f) := by
  change execClockStep pm s = _
  simp only [execClockStep, hs]
  rw [if_neg (by simp [hc, ht]), if_neg (Nat.not_le.2 ha)]

theorem exec_clampRelease_due (hc : s.power.clamp = true) (hg : 200 ≤ s.power.clampGood) :
    exec .clampRelease s = .next ({ s with power := { s.power with
      clamp := false, clampGood := 0, groupGood := 0, stepAt := none } }.clocks fun _ => s.power.free) :=
  congrArg Host.Outcome.next (if_pos ⟨hc, hg⟩)

theorem exec_classRestore_due {cs : List Nat} {trip : Nat} {rest : List (List Nat × Nat)} (hg : s.power.groups = (cs, trip) :: rest)
    (hc : s.power.clamp = false) (hn : 200 ≤ s.power.groupGood) :
    let t := { s with power := { s.power with groups := rest, shed := s.power.shed - cs.length, groupGood := 0, toPark := [] } }
    let is := (t.images.filter fun i => (i.icause = 0x31 || i.icause = 0x32) && t.ofClasses cs i.launch).foldl (fun l i => insertParked i l) []
    let u := is.foldl (fun s i => s.acceptRequest ⟨i.addr, 0, false, none, none⟩) t
    let bs := (List.filter (fun (e : Nat × Block) => e.2.parking && u.ofClasses cs e.2.launch) u.blocks).map Prod.fst
    exec .classRestore s = .next (bs.foldl State.unpark u).endForcing := by
  intro t is u bs
  change execClassRestore s = _
  simp only [execClassRestore, hg]
  exact if_neg (by simp [hc, hn])

/-! ## Locks of the timer (R86) -/

theorem exec_ptpFirstLock_forward {tai : Nat} (hl : s.time.lockedOnce = false) (h : s.time.now ≤ tai) :
    exec (.ptpFirstLock tai) s = .next (s.stepTimer tai) := by
  change execPtpFirstLock tai s = _
  simp only [execPtpFirstLock]
  rw [if_neg (by simp [hl]), if_pos h]

/-- A first lock behind the timer does not step it back: within 50 ns it is locked, and from farther it is slewed. -/
theorem exec_ptpFirstLock_behind {tai : Nat} (hl : s.time.lockedOnce = false) (h : tai < s.time.now) :
    let near := decide (s.time.now ≤ tai + 50)
    exec (.ptpFirstLock tai) s = .next { s with time := { s.time with
      lockedOnce := true, locked := near, valid := near, slew := if near then none else some ((tai : Int) - s.time.now) } } := by
  change execPtpFirstLock tai s = _
  simp only [execPtpFirstLock]
  rw [if_neg (by simp [hl]), if_neg (Nat.not_le.2 h)]

section
variable {tai : Nat} (hl : s.time.lockedOnce = true)
include hl

theorem exec_ptpLockChange_lost :
    exec (.ptpLockChange false tai) s = .next { s with time := { s.time with locked := false, slew := none } } :=
  if_neg (by simp [hl])

/-- A lock that is gained is measured by the distance of the timer from TAI, to either side. -/
theorem exec_ptpLockChange_gained :
    let d : Int := (tai : Int) - s.time.now
    let near := decide (d.natAbs ≤ 50)
    exec (.ptpLockChange true tai) s = .next { s with time := { s.time with
      locked := near, valid := s.time.valid || near, slew := if near then none else some d } } :=
  if_neg (by simp [hl])

theorem exec_ptpLockChange_near (hlo : s.time.now ≤ tai + 50) (hhi : tai ≤ s.time.now + 50) :
    exec (.ptpLockChange true tai) s = .next { s with time := { s.time with locked := true, valid := true, slew := none } } := by
  have near : ((tai : Int) - s.time.now).natAbs ≤ 50 := by omega
  rw [exec_ptpLockChange_gained hl]
  simp [near]

theorem exec_ptpLockChange_far (h : s.time.now + 50 < tai ∨ tai + 50 < s.time.now) :
    exec (.ptpLockChange true tai) s = .next { s with time := { s.time with locked := false, slew := some ((tai : Int) - s.time.now) } } := by
  have far : ¬((tai : Int) - s.time.now).natAbs ≤ 50 := by omega
  rw [exec_ptpLockChange_gained hl]
  simp [far]

theorem exec_timerValid_invalid (hv : s.time.valid = false) :
    exec .timerValid s = .next { s with time := { s.time with valid := true, locked := true, slew := none } } :=
  congrArg Host.Outcome.next (if_pos ⟨hl, by simp [hv]⟩)

end

/-! ## 1PPS in and out (R85, R86) -/

theorem exec_ppsInEdge : exec .ppsInEdge s = .next { s with time := { s.time with ppsin := true, lastEdge := s.time.now } } :=
  rfl

theorem exec_ppsinExpire_due (hp : s.time.ppsin = true) (ht : s.time.lastEdge + 1100000000 ≤ s.time.now) :
    exec .ppsinExpire s = .next { s with time := { s.time with ppsin := false } } :=
  congrArg Host.Outcome.next (if_pos ⟨hp, ht⟩)

theorem exec_ppsOut_due (h : s.time.ppsOut < s.time.now / 1000000000) :
    exec .ppsOut s = .next { s with time := { s.time with ppsOut := s.time.now / 1000000000 } } :=
  congrArg Host.Outcome.next (if_pos h)

end

/-! ## The obligation -/

/-- Settles O40, event by event. -/
theorem powerAndTimeEvents : Obligations.PowerAndTimeEvents := by
  unfold Obligations.PowerAndTimeEvents
  refine ⟨fun s k => ⟨?droop, fun imb hlo hhi => ?balance, ?gating, fun celsius mhz h => ?thermal⟩,
    fun s => ⟨fun r hd => ?poll, ?clampCheck, ?clockStep, ?clampRelease, ?classRestore⟩,
    fun s tai => ⟨?firstLock, fun hl => ?lockChange, ?edge, ?expire, ?rise⟩⟩
  case droop => exact ⟨exec_droopAlarm_outside, exec_droopAlarm_inside, exec_droopHalvingEnd_due⟩
  case balance => exact ⟨exec_balanceSample_due hlo hhi, exec_balanceSample_early⟩
  case gating => exact ⟨exec_gatingStart_due, exec_gatingComplete_due, exec_wakeComplete_waking⟩
  case thermal =>
    constructor
    · intro phase
      rw [exec_thermalLimit_above h, if_neg phase]
    · intro phase
      rw [exec_thermalLimit_above h, if_pos phase]
  case poll =>
    refine ⟨exec_shelfPoll_parksOpen, fun hp he hr => ?_, exec_shelfPoll_of_not_en hd⟩
    rw [exec_shelfPoll_of_en hd hp he, Power.take_of_ok hr]
    rfl
  case clampCheck => exact fun c => exec_clampCheck_due
  case clockStep => exact fun pm t => exec_clockStep_due
  case clampRelease => exact exec_clampRelease_due
  case classRestore => exact fun cs trip rest => exec_classRestore_due
  case firstLock =>
    refine fun hl => ⟨exec_ptpFirstLock_forward hl, fun h hn => ?_, fun h => ?_⟩
    · rw [exec_ptpFirstLock_behind hl h]
      simp [hn]
    · rw [exec_ptpFirstLock_behind hl (by omega)]
      simp [h]
  case lockChange =>
    exact ⟨exec_ptpLockChange_lost hl, exec_ptpLockChange_near hl, exec_ptpLockChange_far hl, exec_timerValid_invalid hl⟩
  case edge => exact exec_ppsInEdge
  case expire => exact exec_ppsinExpire_due
  case rise => exact exec_ppsOut_due

end Sys2Proof.Machine
end

section
/-! PROOFS. Rounding a value that its format holds (R29, R30): the quotient of a pattern lies on the format's grid, so every mode
gives it back. -/

namespace Sys2Proof.Machine

/-! ## Quotients by powers of two -/

theorem scaled_eq (num : Nat) (e : Int) : scaled num e = (num * 2 ^ e.toNat, 2 ^ (-e).toNat) := by
  unfold scaled
  split
  · next he => rw [Int.toNat_of_nonpos (z := -e) (by omega), Nat.pow_zero]
  · next he => rw [Int.toNat_of_nonpos (z := e) (by omega), Nat.pow_zero, Nat.mul_one]

/-- With a power of two below, the first guess of floorLog2 stands. -/
theorem floorLog2_two_pow {num : Nat} (hn : num ≠ 0) (j : Nat) : floorLog2 num (2 ^ j) = (Nat.log2 num : Int) - j := by
  have guess : (scaled (2 ^ j) ((Nat.log2 num : Int) - j)).1 ≤ num * (scaled (2 ^ j) ((Nat.log2 num : Int) - j)).2 := by
    have split_log : j + ((Nat.log2 num : Int) - j).toNat = Nat.log2 num + (-((Nat.log2 num : Int) - j)).toNat := by omega
    rw [scaled_eq, ← Nat.pow_add, split_log, Nat.pow_add]
    exact Nat.mul_le_mul_right _ (Nat.log2_self_le hn)
  rw [floorLog2, Nat.log2_two_pow]
  exact if_pos guess

theorem log2_mul_two_pow {n : Nat} (hn : n ≠ 0) (j : Nat) : Nat.log2 (n * 2 ^ j) = Nat.log2 n + j := by
  refine (Nat.log2_eq_iff (Nat.mul_ne_zero hn (NeZero.ne _))).2 ⟨?_, ?_⟩
  · rw [Nat.pow_add]
    exact Nat.mul_le_mul_right _ (Nat.log2_self_le hn)
  · rw [Nat.add_right_comm, Nat.pow_add]
    exact Nat.mul_lt_mul_of_pos_right Nat.lt_log2_self (Nat.two_pow_pos j)

theorem floorLog2_scaled {num : Nat} (hn : num ≠ 0) (e : Int) :
    floorLog2 (scaled num e).1 (scaled num e).2 = Nat.log2 num + e := by
  have hp : num * 2 ^ e.toNat ≠ 0 := Nat.mul_ne_zero hn (NeZero.ne _)
  rw [scaled_eq, floorLog2_two_pow hp, log2_mul_two_pow hn]
  omega

/-- The draw of stochastic rounding is a 16-bit number (R30). -/
def Mode.drawOk : Mode → Prop
  | .rs u => u < 2 ^ 16
  | _ => True

/-- Without a remainder no mode rounds up, whatever the draw. -/
theorem roundQuot_mul {md : Mode} (hu : md.drawOk) (neg : Bool) (t : Nat) {b : Nat} (hb : 0 < b) :
    roundQuot md neg (t * b) b = t := by
  have hd : t * b / b = t := Nat.mul_div_cancel t hb
  have hr : t * b % b = 0 := Nat.mul_mod_left t b
  cases md with
  | rne => simp [roundQuot, hd, hr, Nat.ne_of_lt hb]
  | rtz | rdn | rup => simp [roundQuot, hd, hr]
  | rs u =>
    have hu : u < 2 ^ 16 := hu
    simpa [roundQuot, hd, hr] using hu

/-! ## The pattern of a value on the grid -/

/-- Where the quantum at t × 2^k is 2^k, rounding keeps t and counts the exponent in steps of 2^m patterns. -/
theorem Fmt.magPat_scaled (f : Fmt) {md : Mode} (hu : md.drawOk) (neg : Bool) {t : Nat} (ht : t ≠ 0) {k : Int}
    (quantum : max (Nat.log2 t + k) (1 - (f.bias : Int)) = k + f.mb) :
    f.magPat md neg (scaled t k).1 (scaled t k).2 = (k + f.mb - (1 - (f.bias : Int))).toNat * 2 ^ f.mb + t := by
  have hnum : (scaled t k).1 ≠ 0 := by
    rw [scaled_eq]
    exact Nat.mul_ne_zero ht (NeZero.ne _)
  have exact_quot : roundQuot md neg ((scaled t k).1 * (scaled 1 k).2) ((scaled t k).2 * (scaled 1 k).1) = t := by
    simp only [scaled_eq, Nat.one_mul]
    rw [Nat.mul_assoc, Nat.mul_comm (2 ^ (-k).toNat)]
    exact roundQuot_mul hu neg t (Nat.mul_pos (Nat.two_pow_pos _) (Nat.two_pow_pos _))
  rw [Fmt.magPat, if_neg hnum]
  simp only [floorLog2_scaled ht, quantum]
  rw [Int.add_sub_cancel, exact_quot]

theorem Fmt.magPat_subnormal (f : Fmt) {md : Mode} (hu : md.drawOk) (neg : Bool) {m : Nat} (hm : m < 2 ^ f.mb) :
    let v := scaled m (1 - (f.bias : Int) - f.mb)
    f.magPat md neg v.1 v.2 = m := by
  intro v
  by_cases h0 : m = 0
  · subst h0
    exact if_pos (by simp [v, scaled_eq])
  · have hlog : Nat.log2 m < f.mb := (Nat.log2_lt h0).2 hm
    rw [Fmt.magPat_scaled f hu neg h0 (by omega)]
    simp

theorem Fmt.magPat_normal (f : Fmt) {md : Mode} (hu : md.drawOk) (neg : Bool) {e m : Nat} (he : e ≠ 0) (hm : m < 2 ^ f.mb) :
    let v := scaled (2 ^ f.mb + m) ((e : Int) - f.bias - f.mb)
    f.magPat md neg v.1 v.2 = e * 2 ^ f.mb + m := by
  intro v
  have ht : 2 ^ f.mb + m ≠ 0 := by have := Nat.two_pow_pos f.mb; omega
  have hlog : Nat.log2 (2 ^ f.mb + m) = f.mb := (Nat.log2_eq_iff ht).2 ⟨Nat.le_add_right _ _, by rw [Nat.pow_succ]; omega⟩
  have steps : ((e : Int) - f.bias - f.mb + f.mb - (1 - (f.bias : Int))).toNat = e - 1 := by omega
  rw [Fmt.magPat_scaled f hu neg ht (by rw [hlog]; omega), steps, ← Nat.add_assoc, ← Nat.succ_mul, Nat.succ_eq_add_one,
    Nat.sub_add_cancel (Nat.one_le_iff_ne_zero.2 he)]

/-! ## The parts of a pattern (R26) -/

/-- Sign bit and magnitude put a pattern together again. -/
theorem Fmt.signed_sign_mag (f : Fmt) {x : Nat} (hx : x < 2 ^ f.bits) :
    f.signed (decide (x / 2 ^ (f.eb + f.mb) % 2 = 1)) (x % 2 ^ (f.eb + f.mb)) = x := by
  have hs : x / 2 ^ (f.eb + f.mb) < 2 := by
    rw [Fmt.bits, Nat.add_assoc, Nat.add_comm, Nat.pow_succ] at hx
    exact Nat.div_lt_of_lt_mul hx
  have parts := Nat.div_add_mod x (2 ^ (f.eb + f.mb))
  rcases Nat.lt_or_eq_of_le (Nat.le_of_lt_succ hs) with h | h
  · rw [Nat.lt_one_iff] at h
    simpa [Fmt.signed, h] using parts
  · simpa [Fmt.signed, h, Nat.add_comm] using parts

theorem Fmt.mag_eq (f : Fmt) (x : Nat) :
    x % 2 ^ (f.eb + f.mb) = x / 2 ^ f.mb % 2 ^ f.eb * 2 ^ f.mb + x % 2 ^ f.mb := by
  rw [Nat.add_comm f.eb, Nat.pow_add, Nat.mod_mul, Nat.add_comm, Nat.mul_comm]

theorem Fmt.mag_of_inf {f : Fmt} {x : Nat} {neg : Bool} (h : f.value x = .inf neg) :
    neg = decide (x / 2 ^ (f.eb + f.mb) % 2 = 1) ∧ x % 2 ^ (f.eb + f.mb) = f.infPat := by
  unfold Fmt.value at h
  dsimp only at h
  split at h
  · next hinf =>
    obtain ⟨hasInf, he⟩ := hinf
    split at h
    · next hm =>
      cases h
      exact ⟨rfl, by rw [Fmt.mag_eq, he, hm, Nat.add_zero, Fmt.infPat, if_pos hasInf]⟩
    · cases h
  · split at h <;> cases h

/-- A finite value has its own magnitude as its rounded pattern; in a format with NaNs the largest finite magnitude bounds it. -/
theorem Fmt.magPat_of_fin {f : Fmt} {x : Nat} {neg : Bool} {num den : Nat} (h : f.value x = .fin neg num den) :
    neg = decide (x / 2 ^ (f.eb + f.mb) % 2 = 1) ∧ (f.nan.isSome → x % 2 ^ (f.eb + f.mb) ≤ f.maxPat) ∧
      ∀ md : Mode, md.drawOk → f.magPat md neg num den = x % 2 ^ (f.eb + f.mb) := by
  have hm : x % 2 ^ f.mb < 2 ^ f.mb := Nat.mod_lt _ (Nat.two_pow_pos _)
  rw [Fmt.mag_eq]
  unfold Fmt.value at h
  dsimp only at h
  split at h
  · split at h <;> cases h
  · split at h
    · cases h
    · next inRange =>
      cases h
      refine ⟨rfl, fun hn => Nat.not_lt.1 fun hlt => inRange ⟨hn, hlt⟩, fun md hu => ?_⟩
      split
      · next he => rw [he, Nat.zero_mul, Nat.zero_add, Fmt.magPat_subnormal f hu _ hm]
      · next he => exact Fmt.magPat_normal f hu _ he hm

/-! ## Rounding -/

/-- A magnitude that nearest-even and the mode in hand agree on, and the format holds, is the result (R29, R30). -/
theorem Fmt.round_fin {f : Fmt} {md : Mode} {neg : Bool} {num den p : Nat} (hmd : f.magPat md neg num den = p)
    (hrne : f.magPat .rne neg num den = p) (hp : p ≤ f.maxPat) : f.round md (.fin neg num den) = f.signed neg p := by
  have hp : ¬f.maxPat < p := Nat.not_lt.2 hp
  cases md with
  | rne | rtz | rdn | rup => simp [Fmt.round, hmd, hp]
  | rs u =>
    simp only [Fmt.round]
    split
    · rw [hrne, if_neg hp]
    · rw [hmd, if_neg hp]

/-- A pattern that is not a NaN rounds to itself, in a format whose patterns are all values or that has a NaN. -/
theorem Fmt.round_value {f : Fmt} (full : f.nan.isSome ∨ 2 ^ (f.eb + f.mb) ≤ f.maxPat + 1) {md : Mode} (hu : md.drawOk)
    {x : Nat} (hx : x < 2 ^ f.bits) (hv : f.value x ≠ .nan) : f.round md (f.value x) = x := by
  cases h : f.value x with
  | nan => exact absurd h hv
  | inf neg =>
    obtain ⟨sign, mag⟩ := Fmt.mag_of_inf h
    rw [Fmt.round, sign, ← mag]
    exact f.signed_sign_mag hx
  | fin neg num den =>
    obtain ⟨sign, le_max, mag⟩ := Fmt.magPat_of_fin h
    have hmax : x % 2 ^ (f.eb + f.mb) ≤ f.maxPat :=
      full.elim le_max fun all => Nat.le_of_lt_succ (Nat.lt_of_lt_of_le (Nat.mod_lt x (Nat.two_pow_pos _)) all)
    rw [Fmt.round_fin (mag md hu) (mag .rne trivial) hmax, sign]
    exact f.signed_sign_mag hx

theorem convFmt_full (code : Nat) :
    (convFmt code).nan.isSome ∨ 2 ^ ((convFmt code).eb + (convFmt code).mb) ≤ (convFmt code).maxPat + 1 := by
  unfold convFmt
  split <;> decide

theorem Mode.drawOk_of_mem {md : Mode} {u : Nat} (hu : u < 2 ^ 16) (h : md ∈ [.rne, .rtz, .rdn, .rup, .rs u]) : md.drawOk := by
  simp only [List.mem_cons, List.not_mem_nil, or_false] at h
  rcases h with rfl | rfl | rfl | rfl | rfl
  case inr.inr.inr.inr => exact hu
  all_goals trivial

/-! ## The obligation -/

/-- Settles O12: every conversion format is covered by its values and its NaN. -/
theorem representableValuesRoundToThemselves : Obligations.RepresentableValuesRoundToThemselves := by
  unfold Obligations.RepresentableValuesRoundToThemselves
  intro code x u md hx hv hu hmd
  exact Fmt.round_value (convFmt_full code) (Mode.drawOk_of_mem hu hmd) hx hv

end Sys2Proof.Machine
end

section
/-! PROOFS. Special registers: MFS, TIME, CYC and the forms of MTS (R141, R175, R182, R183, R280, R296, R298, R299, R403 to R407). -/

namespace Sys2Proof.Machine

/-! ## Fields of a masked word -/

/-- A mask with ones over a field leaves the field. -/
theorem field_and_of_ones {v m : Word} {i j : Nat} (hm : m.toNat / 2 ^ i % 2 ^ j = 2 ^ j - 1) :
    (v &&& m).toNat / 2 ^ i % 2 ^ j = v.toNat / 2 ^ i % 2 ^ j := by
  rw [BitVec.toNat_and, Nat.and_div_two_pow, Nat.and_mod_two_pow, hm, Nat.and_two_pow_sub_one_eq_mod, Nat.mod_mod]

theorem low_and_of_ones {v m : Word} {j : Nat} (hm : m.toNat % 2 ^ j = 2 ^ j - 1) : (v &&& m).toNat % 2 ^ j = v.toNat % 2 ^ j := by
  simpa using field_and_of_ones (v := v) (i := 0) (by simpa using hm)

/-- A word with zeros over a field leaves the field. -/
theorem field_or_of_zeros {v m : Word} {i j : Nat} (hm : m.toNat / 2 ^ i % 2 ^ j = 0) :
    (v ||| m).toNat / 2 ^ i % 2 ^ j = v.toNat / 2 ^ i % 2 ^ j := by
  rw [BitVec.toNat_or, Nat.or_div_two_pow, Nat.or_mod_two_pow, hm, Nat.or_zero]

theorem low_or_of_zeros {v m : Word} {j : Nat} (hm : m.toNat % 2 ^ j = 0) : (v ||| m).toNat % 2 ^ j = v.toNat % 2 ^ j := by
  simpa using field_or_of_zeros (v := v) (i := 0) (by simpa using hm)

/-! ## What the checks of MTS let pass -/

/-- The rotation base that R175 takes. -/
theorem rot_check {rotv base : Nat} (h : base = 0 ∨ base < rotv) : ¬((rotv = 0 ∧ base ≠ 0) ∨ (rotv ≠ 0 ∧ rotv ≤ base)) := by
  omega

/-- Neither half of SPLIT is 3 (R299). -/
theorem split_check {v : Word} (hlo : v.toNat % 4 ≠ 3) (hhi : v.toNat / 4 % 4 ≠ 3) :
    ¬((v &&& 0xF).toNat % 4 = 3 ∨ (v &&& 0xF).toNat / 4 = 3) := by
  have low4 : (v &&& 0xF).toNat = v.toNat % 16 := by
    rw [BitVec.toNat_and]
    exact Nat.and_two_pow_sub_one_eq_mod _ 4
  omega

section
variable {o : FmtY} {v : Word} (valid : (v.toNat / 2 ^ 16 % 2 ^ 8 = 50 ∨ v.toNat / 2 ^ 16 % 2 ^ 8 = 60) ∧ v.toNat % 2 ^ 8 ≠ 0)
include valid

/-- NOMF and MISS decide a write of SHELFCTL, whatever stands in its other fields (R405). -/
theorem shelfctl_of_fields {w : Word} (hnomf : w.toNat / 2 ^ 16 % 2 ^ 8 = v.toNat / 2 ^ 16 % 2 ^ 8)
    (hmiss : w.toNat % 2 ^ 8 = v.toNat % 2 ^ 8) : shelfctl o w = mtsTo o (w &&& 0xC0FF7FFF) :=
  if_neg (by omega)

theorem shelfctl_without_load : shelfctl o (v &&& 0xBFFFFFFF) = mtsTo o (v &&& 0x80FF7FFF) := by
  rw [shelfctl_of_fields valid (field_and_of_ones rfl) (low_and_of_ones rfl), BitVec.and_assoc]
  rfl

theorem shelfctl_with_load : shelfctl o (v ||| 0x40000000) = mtsTo o ((v ||| 0x40000000) &&& 0xC0FF7FFF) :=
  shelfctl_of_fields valid (field_or_of_zeros rfl) (low_or_of_zeros rfl)

end

end Sys2Proof.Machine

namespace Sys2Proof.Safety

open Sys2Proof.Machine

/-! ## The forms of MTS -/

/-- An MTS of a register that its block may write, and that waits for no matrix command, is what its value check says (R143, R182). -/
theorem stagesUIf_of_mtsSyl {i : Instr} {h : Hdr} {o : FmtY} (x : State → Out) {p : Env → Prop} {f : Env → Word → Act}
    {g : Env → List Eff} (hi : ∀ s, exec i s = x s) (hx : ∀ s, x s = mtsSyl h o s f) (hfg : ∀ e, p e → f e (loWord (e.mtsValue o)) = .eff (g e)) :
    StagesUIf i h (fun e => ((srIsMatrix o.sr.toNat → e.x.owner) ∧ ¬e.srBusy true o.sr.toNat) ∧ p e) g := by
  refine stagesUIf_of (fun s => (hi s).trans (hx s)) fun e he => ?_
  obtain ⟨⟨owned, free⟩, hp⟩ := he
  rw [if_neg (by simpa using owned), if_neg free, hfg e hp]

section
variable (h : Hdr) (o : FmtY)

theorem stages_mfs : StagesUIf (.mfs h o) h (fun e => o.sr.toNat ≠ 0 ∧ (srIsMatrix o.sr.toNat → e.x.owner) ∧ ¬e.srBusy false o.sr.toNat)
    (fun e => if (srKind o.sr.toNat).map Prod.fst = some 64 then setS64 o.d (e.readSr o.sr.toNat)
      else [setS o.d (loWord (e.readSr o.sr.toNat))]) := by
  refine stagesUIf_of (fun _ => rfl) fun e he => ?_
  obtain ⟨hsr, owned, free⟩ := he
  rw [if_neg (by simpa using owned), if_neg free, if_neg hsr]
  split <;> rfl

/-- LANEID is no register of the matrix engine, and waits for none of its commands. -/
theorem stages_mfs_laneid :
    StagesUIf (.mfs h o) h (fun _ => o.sr = 0) (fun e => e.setVs o.d e.iu.lanes fun l => toWord l) := by
  refine stagesUIf_of (fun _ => rfl) fun e hsr => ?_
  simp [hsr, srIsMatrix, Env.srBusy]

theorem stages_time : StagesU (.time h o) h (fun e => setS64 o.d (BitVec.ofNat 64 (e.s.timeRead e.x))) :=
  stagesU_of (fun _ => rfl) fun _ => rfl

theorem stages_cyc : StagesU (.cyc h o) h (fun e => setS64 o.d (e.s.cluster (clusOf e.x.core)).cyc) :=
  stagesU_of (fun _ => rfl) fun _ => rfl

end

/-! ## The obligation -/

/-- Settles O16, register by register. -/
theorem specialRegisterResults : Obligations.SpecialRegisterResults := by
  unfold Obligations.SpecialRegisterResults
  refine ⟨fun h o => ⟨stages_mfs h o, stages_mfs_laneid h o, stages_time h o, stages_cyc h o⟩, fun h o => ?_⟩
  refine ⟨?loopc, ?plain, ?rot, ?tsh, ?plane, ?split, ?drpth, ?shelfWrite, ?shelfLoad, ?ringKeep, ?ringReset⟩
  case loopc =>
    refine stagesUIf_of_mtsSyl (execMts h o) (fun _ => rfl) (fun _ => rfl) fun e hsr => ?_
    exact if_pos (by rw [hsr]; rfl)
  case plain =>
    refine stagesUIf_of_mtsSyl (execMts h o) (fun _ => rfl) (fun _ => rfl) fun e ⟨hsr, inRange⟩ => ?_
    exact (if_neg fun h => hsr (BitVec.eq_of_toNat_eq h)).trans (if_neg inRange)
  case rot =>
    refine stagesUIf_of_mtsSyl (execMtsRot h o) (fun _ => rfl) (fun _ => rfl) fun e base => ?_
    exact if_neg (rot_check base)
  case tsh =>
    refine stagesUIf_of_mtsSyl (execMtsTsh h o) (fun _ => rfl) (fun _ => rfl) fun e ok => ?_
    exact if_pos ok
  case plane =>
    refine stagesUIf_of_mtsSyl (execMtsPlane h o) (fun _ => rfl) (fun _ => rfl) fun e inRange => ?_
    exact (if_pos inRange).trans (by simp [and_assoc, wide, Matrix.planeW])
  case split =>
    refine stagesUIf_of_mtsSyl (execMtsSplit h o) (fun _ => rfl) (fun _ => rfl) fun e ⟨hlo, hhi⟩ => ?_
    exact if_neg (split_check hlo hhi)
  case drpth =>
    refine stagesUIf_of_mtsSyl (execMtsDrpth h o) (fun _ => rfl) (fun _ => rfl) fun e inRange => ?_
    exact if_pos inRange
  case shelfWrite =>
    refine stagesUIf_of_mtsSyl (execShelfctlWrite h o) (fun _ => rfl) (fun _ => rfl) fun e valid => ?_
    exact shelfctl_without_load valid
  case shelfLoad =>
    refine stagesUIf_of_mtsSyl (execShelfctlLoad h o) (fun _ => rfl) (fun _ => rfl) fun e ⟨curveF, curveV, valid⟩ => ?_
    exact (if_pos (by simp [curveF, curveV])).trans (shelfctl_with_load valid)
  case ringKeep =>
    refine stagesUIf_of_mtsSyl (execRingReset h o) (fun _ => rfl) (fun _ => rfl) fun e keep => ?_
    exact if_pos (by rw [keep]; rfl)
  case ringReset =>
    refine stagesUIf_of_mtsSyl (execRingReset h o) (fun _ => rfl) (fun _ => rfl) fun e ⟨reset, r, own, idle⟩ => ?_
    simp [reset, own, idle]

end Sys2Proof.Safety
end

section
/-! PROOFS. Task graphs and launches: what each of their events answers where its guard holds (R56, R79 to R83, R87 to R89, R94,
R418, R419). -/

namespace Sys2Proof.Machine

section
variable {s : State}

/-! ## The start of a replay (R79) -/

theorem exec_replayStart_kicked {handle : Nat} {k : Kick} {g : Graph} (hw : s.working = true)
    (hdone : ∀ r ∈ s.replays.values, r.handle = handle → r.finished = true)
    (hk : (s.host.kicks.find? fun k => k.handle = handle) = some k) (hg : s.graph? handle = some g) :
    exec (.replayStart handle) s = .next ((s.modHost fun x => { x with kicks := x.kicks.erase k }).startKick g k) := by
  have free : (s.replays.values.any fun r => decide (r.handle = handle) && !r.finished) = false := by
    simpa [List.any_eq_false] using hdone
  change execReplayStart handle s = _
  simp only [execReplayStart, hk, hg]
  exact if_neg (by simp [hw, free])

/-! ## Nodes (R77, R81) -/

/-- What a ready node does: a launch enters its queue, a copy and a timed release go to the host DMA engine, a timeline node waits or
signals, and a governor point has an event of its own. -/
def State.runNode (s : State) (replay node : Nat) (r : Replay) (g : Graph) (x : Node) : State :=
  match x.kind with
  | 1 =>
    { s.setNode replay node .queued with
      disp := { s.disp with queues := s.disp.queues.put x.queue (Table.get [] s.disp.queues x.queue ++ [⟨replay, node⟩]) } }
  | 3 => s.nodeWait replay node g x
  | 4 => s.nodeSignal replay node g x
  | 5 => s
  | _ => (s.setNode replay node .running).modCore hostDma fun c => { c with engineq := c.engineq ++ [nodeCommand replay node r x] }

section
variable {replay node : Nat} {r : Replay} {g : Graph} {x : Node}
  (hg : s.graphOf replay = some (r, g)) (hx : g.nodes[node]? = some x)
include hg hx

/-- A ready node runs under its kind. -/
theorem exec_nodeReady_ready (hn : s.nodeReady replay r g node = true) (hr : r.nodes[node]? ≠ some .running) :
    exec (.nodeReady replay node) s = .next (s.runNode replay node r g x) := by
  change execNodeReady replay node s = _
  simp only [execNodeReady, hg, hx]
  rw [if_neg fun h => hr h.2, if_neg (by simp [hn])]
  split <;> simp only [State.runNode, *]

/-! ## The governor (R88, R89) -/

theorem exec_governorPoint_ready (hk : x.kind = 5) (hn : s.nodeReady replay r g node = true) :
    let n := grant g x r.deadline.toNat s.now
    let t := s.modReplay replay fun r => { r with
      grants := r.grants.put node n
      nodes := (r.nodes.mapIdx fun i st => if x.first + n ≤ i ∧ i < x.first + x.gmax ∧ st = .waiting then .skipped else st).set node .done }
    exec (.governorPoint replay node) s =
      .next (if n < x.gmax then t.postEvent 3 0x37 r.handle r.number (leBytes 2 node ++ leBytes 2 (x.gmax - n)) else t) := by
  intro n t
  change execGovernorPoint replay node s = _
  simp only [execGovernorPoint, hg, hx]
  exact if_neg (by simp [hk, hn])

theorem exec_skippedNodeComplete_due (hw : s.working = true) (hs : r.nodes[node]? = some .skipped)
    (hp : ∀ p ∈ g.preds node, r.nodes[p]? = some .done) :
    exec (.skippedNodeComplete replay node) s = .next (s.completeSkipped replay node r g x) := by
  change execSkippedNodeComplete replay node s = _
  simp only [execSkippedNodeComplete, hg, hx]
  exact if_pos ⟨hw, hs, by simpa using hp⟩

end

/-! ## Acceptance (R56, R81, R83) -/

/-- The dispatcher has taken the head of a launch queue, and rest is left of it. -/
def State.takeQueued (s : State) (queue : Nat) (rest : List LaunchReq) : State :=
  { s with disp := { s.disp with queues := Table.set [] s.disp.queues queue rest, lastQueue := queue } }

/-- A launch enters by the record that was read, or its node ends with the fault of the read. -/
def acceptRead (q : LaunchReq) (r : Replay) (g : Graph) (x : Node) : State × Except LaunchFail Launch → State
  | (u, .ok l) => u.enterLaunch q.replay q.node r g x l
  | (u, .error f) => u.endNode q.replay q.node f.cause 0 f.addr f.det

/-- In its queue's turn the head is taken, and its record decides. -/
theorem exec_launchAccept_turn {queue : Nat} {q : LaunchReq} {rest : List LaunchReq} {r : Replay} {g : Graph} {x : Node}
    {p : State × Except LaunchFail Launch}
    (hq : Table.get [] s.disp.queues queue = q :: rest) (hp : s.placing = true)
    (hb : s.queueBefore (s.queuePrio queue) queue = false)
    (hg : (s.takeQueued queue rest).graphOf q.replay = some (r, g)) (hx : g.nodes[q.node]? = some x)
    (hl : (s.takeQueued queue rest).readLaunch g.ctx x.a.toNat = p) :
    exec (.launchAccept queue) s = .next (acceptRead q r g x p) := by
  subst hl
  rw [State.takeQueued] at hg ⊢
  change execLaunchAccept queue s = _
  simp only [execLaunchAccept, hq, hg, hx]
  rw [if_neg (by simp [hp, hb])]
  split <;> simp only [acceptRead, *]

/-! ## Placement and completion of launches (R81, R82, R94, R418) -/

theorem State.mayPlace_of_placePlan {launch : Nat} {l : Launch} {p : List Nat × List Holder} (h : s.placePlan launch l = some p) :
    s.mayPlace launch l = true := by
  cases hm : s.mayPlace launch l with
  | true => rfl
  | false =>
    rw [State.placePlan, if_pos (by rw [hm]; rfl)] at h
    cases h

section
variable {launch : Nat} {l : Launch} (hl : s.launch? launch = some l)
include hl

theorem exec_placeBlock_turn {ms : List Nat} {hs : List Holder} {t : State} (hp : s.placePlan launch l = some (ms, hs))
    (hq : s.queueBefore l.prio l.queue = false) (hf : s.tasksFirst launch l hs = false) (hw : s.wakeFor hs = (t, false)) :
    let u := (ms.zip hs).foldl (fun s p => s.startMember launch l p.1 p.2) t
    exec (.placeBlock launch) s =
      .next (({ u with disp := { u.disp with lastQueue := l.queue } } : State).modLaunch launch Launch.advance) := by
  intro u
  have may := State.mayPlace_of_placePlan hp
  change execPlaceBlock launch s = _
  simp only [execPlaceBlock, hl, hp, hw]
  exact (if_neg (by simp [may])).trans (if_neg (by simp [hq, hf]))

theorem exec_launchComplete_placed (hs : l.status = .placed) (hd : s.launchDone launch l = true) :
    exec (.launchComplete launch) s =
      .next (((s.closeLaunch l 1).setNode l.replay l.node .done).modLaunch launch fun l => { l with status := .completed }) := by
  change execLaunchComplete launch s = _
  simp only [execLaunchComplete, hl, hs]
  exact if_neg (by simp [hd])

theorem exec_launchComplete_ending {state cause : Nat} (hs : l.status = .ending state cause) (hd : s.endingDone launch = true) :
    exec (.launchComplete launch) s = .next (s.closeEnded launch l state cause) := by
  change execLaunchComplete launch s = _
  simp only [execLaunchComplete, hl, hs]
  exact congrArg Host.Outcome.next (if_pos hd)

end

/-! ## The end of a replay (R82, R419) -/

section
variable {replay : Nat} {r : Replay} (hr : s.replay? replay = some r) (hf : r.finished = false)
include hr hf

theorem exec_replayComplete_done (ha : r.abandoned = false) (hd : ∀ n ∈ r.nodes, n = .done) :
    exec (.replayComplete replay) s =
      .next ((s.postEvent 1 0 r.handle r.number []).modReplay replay fun r => { r with finished := true }) := by
  have allDone : (r.nodes.all fun n => n = .done) = true := by simpa using hd
  change execReplayComplete replay s = _
  simp only [execReplayComplete, hr]
  exact if_neg (by simp [hf, ha, allDone])

theorem exec_replayFinish_abandoned (ha : r.abandoned = true) (hd : ∀ n ∈ r.nodes, n = .done ∨ n = .dead) :
    exec (.replayFinish replay) s = .next (s.modReplay replay fun r => { r with finished := true }) := by
  change execReplayFinish replay s = _
  simp only [execReplayFinish, hr]
  exact if_pos ⟨ha, by simp [hf], by simpa using hd⟩

end

end

/-! ## The obligation -/

/-- Settles O35, event by event. -/
theorem graphAndLaunchEvents : Obligations.GraphAndLaunchEvents := by
  unfold Obligations.GraphAndLaunchEvents
  refine ⟨fun s => ⟨?start, fun replay node r g x hg hx => ⟨?ready, ?governor, ?skipped⟩, ?accept⟩,
    fun s => ⟨fun launch l hl => ⟨?place, ?complete, ?ended⟩, fun replay r hr hf => ⟨?replayDone, ?replayAbandoned⟩⟩⟩
  case start => exact fun h k g => exec_replayStart_kicked
  case ready =>
    intro hn hr
    rw [exec_nodeReady_ready hg hx hn hr]
    refine ⟨fun launch => ?_, fun copy => ?_, fun wait => ?_, fun signal => ?_⟩
    · simp only [State.runNode, launch]
    · rcases copy with copy | release
      · simp only [State.runNode, copy]
      · simp only [State.runNode, release]
    · simp only [State.runNode, wait]
    · simp only [State.runNode, signal]
  case governor => exact exec_governorPoint_ready hg hx
  case skipped => exact exec_skippedNodeComplete_due hg hx
  case accept =>
    exact fun queue q rest r g x hq hp hb hg hx u =>
      ⟨fun l => exec_launchAccept_turn hq hp hb hg hx, fun f => exec_launchAccept_turn hq hp hb hg hx⟩
  case place => exact fun ms hs t => exec_placeBlock_turn hl
  case complete => exact exec_launchComplete_placed hl
  case ended => exact fun state cause => exec_launchComplete_ending hl
  case replayDone => exact exec_replayComplete_done hr hf
  case replayAbandoned => exact exec_replayFinish_abandoned hr hf

end Sys2Proof.Machine
end

section
/-! PROOFS. Variant switches and migrations: what each of their events answers where its guard holds, and what a withdrawn request
lets pass (R53, R54, R113, R114, R179, R412 to R414). -/

/-! ## What a withdrawal lets pass (R179) -/

namespace Sys2Proof

/-- Masks joined one after another into a table gather, at each key, the masks of that key. -/
theorem Table.get_foldl_set_or {n : Nat} (l : List (Nat × BitVec n)) (t : Table (BitVec n)) (k : Nat) :
    Table.get 0 (l.foldl (fun t e => Table.set 0 t e.1 (Table.get 0 t e.1 ||| e.2)) t) k =
      (l.filter fun e => e.1 = k).foldl (fun m e => m ||| e.2) (Table.get 0 t k) := by
  induction l generalizing t with
  | nil => rfl
  | cons e l ih =>
    rw [List.foldl_cons, ih, List.filter_cons, Table.get_set]
    by_cases he : e.1 = k
    · subst he
      simp
    · simp [he, Ne.symm he]

theorem foldl_or_eq_or_foldl {n : Nat} (l : List (Nat × BitVec n)) (m : BitVec n) :
    l.foldl (fun m e => m ||| e.2) m = m ||| l.foldl (fun m e => m ||| e.2) 0 := by
  have assoc := List.foldl_assoc (op := fun a b : BitVec n => a ||| b) (l := l.map Prod.snd) (a₁ := m) (a₂ := 0)
  simpa [List.foldl_map] using assoc

end Sys2Proof

namespace Sys2Proof.Machine

section
variable {x : Block} {q : SwitchReq} (hq : x.switch = some q)
include hq

theorem Block.withdraw_switch : x.withdraw.switch = none := by
  simp only [Block.withdraw, hq]

theorem Block.get_withdraw_passing (w : Nat) :
    Table.get 0 x.withdraw.passing w =
      Table.get 0 x.passing w ||| (q.held.filter fun e => e.1 = w).foldl (fun m e => m ||| e.2) 0 := by
  simp only [Block.withdraw, hq]
  rw [Table.get_foldl_set_or, foldl_or_eq_or_foldl]

theorem Block.switchLate_of_fixed {id time now : Nat} (hf : q.fixed = some (id, time)) (ht : time + 50000 ≤ now)
    (hh : x.allHeld q = false) : x.switchLate now = true := by
  simp [Block.switchLate, hq, hf, ht, hh]

end

section
variable {s : State}

/-! ## Requests and switches (R53, R54, R412, R413) -/

section
variable {b : Nat} {x : Block} (hb : s.block? b = some x)
include hb

theorem exec_switchRequest_qualified {target : Nat} {t : State} {ms : List SwMap} {v : Variant} {base : Nat}
    (hs : s.switchable x = true) (hm : s.readMaps x = (t, .ok ms)) (hi : v.index = target)
    (hv : (((t.launch? x.launch).map fun l => l.variants).getD []).find? (fun v =>
      (if x.var.index < target then decide (x.var.index < v.index) else decide (v.index < x.var.index)) && t.qualifies b x ms v) = some v)
    (hf : t.fitsFor b x v = some base) :
    exec (.switchRequest b target) s = .next ((t.setBlock b { x with switch := some ⟨v, base, none, []⟩ }).taken
      (SwitchReq.surplus ⟨v, base, none, []⟩ x)) := by
  change execSwitchRequest b target s = _
  simp only [execSwitchRequest, hb, hm, hv, hf]
  exact (if_neg (by simp [hs])).trans (if_neg (not_not_intro hi))

section
variable {q : SwitchReq} {id time : Nat} (hq : x.switch = some q) (hx : q.fixed = some (id, time))
include hq hx

theorem exec_variantSwitch_held {t : State} {ms : List SwMap} {m : SwMap} {base : Nat}
    (hh : x.allHeld q = true) (hstop : x.stop = none) (he : x.exited = false) (hquiet : s.quiet b x = true)
    (hms : s.readMaps x = (t, .ok ms)) (hm : (ms.find? fun m => m.id = id) = some m) (hv : t.mapBreaks x q.target ms m = 0)
    (hf : t.fitsFor b x q.target = some base) :
    let r : State := t.taken ⟨x.core, { q.target with waves := 0, vregs := 0, sregs := 0, flags := 0, weight := 0 }, base⟩
    let u := ((r.moveScratch x m q.target base).setBlock b (x.switched m q.target base t.steps)).modDie (dieOf x.core)
      fun d => { d with switches := d.switches + 1 }
    exec (.variantSwitch b) s = .next ((u.modLaunch x.launch fun l => { l with switches := l.switches + 1 }).settle b) := by
  intro r u
  change execVariantSwitch b s = _
  simp only [execVariantSwitch, hb, hq, hx, hms, hm, hf, Option.map_some, Option.getD_some]
  exact (if_neg (by simp [hh, hstop, he, hquiet])).trans (if_neg (not_not_intro hv))

theorem exec_switchWithdraw_late (ht : time + 50000 ≤ s.now) (hh : x.allHeld q = false) :
    exec (.switchWithdraw b) s = .next (s.setBlock b x.withdraw) := by
  change execSwitchWithdraw b s = _
  simp only [execSwitchWithdraw, hb]
  rw [if_pos (Block.switchLate_of_fixed hq hx ht hh)]

end

end

/-! ## Migration (R113, R114, R414) -/

theorem exec_migrate_cool {core dest celsius : Nat} (h : celsius < s.power.hotLimit) :
    exec (.migrate core ⟨dest, celsius⟩) s = .next s :=
  if_pos (.inl h)

/-- A core whose examination moves nothing rests for 200 µs (R113). -/
def State.restCore (s : State) (core : Nat) : State := s.modCore core fun c => { c with recheckAt := some (s.now + 200000) }

section
variable {core dest celsius : Nat} (hr : (s.core core).resting s.now = false) (hd : s.migratingOn (dieOf core) = false)
  (hc : s.power.hotLimit ≤ celsius)
include hr hd hc

theorem exec_migrate_no_migrant (hm : s.migrant core = none) : exec (.migrate core ⟨dest, celsius⟩) s = .next (s.restCore core) := by
  change execMigrate core ⟨dest, celsius⟩ s = _
  simp only [execMigrate, hm]
  exact if_neg (by simp [hr, hd, hc])

variable {b : Nat} {x : Block} (hm : s.migrant core = some (b, x))
include hm

theorem exec_migrate_to (ht : s.migratesTo b x dest = true) :
    exec (.migrate core ⟨dest, celsius⟩) s =
      .next ((s.modBlock b fun x => { x with stop := some ⟨0x33, [], some dest, 0⟩, waves := Table.map (fun _ y => y.clearStop) x.waves }).modCore
        core fun c => { c with movedAt := some s.now }) := by
  change execMigrate core ⟨dest, celsius⟩ s = _
  simp only [execMigrate, hm]
  rw [if_neg (by simp [hr, hd, hc]), if_neg (by simp [ht])]
  simp only [State.now, State.modBlock_time]

theorem exec_migrate_nowhere (hn : ∀ c ∈ allCores, s.migratesTo b x c = false) (ht : s.migratesTo b x dest = false) :
    exec (.migrate core ⟨dest, celsius⟩) s = .next (s.restCore core) := by
  have nowhere : (allCores.any fun c => s.migratesTo b x c) = false := by simpa [List.any_eq_false] using hn
  change execMigrate core ⟨dest, celsius⟩ s = _
  simp only [execMigrate, hm]
  rw [if_neg (by simp [hr, hd, hc]), if_pos (by simp [ht]), if_neg (by simp [nowhere])]
  rfl

end

theorem exec_migrateRecheck_due {core t : Nat} (hr : (s.core core).recheckAt = some t) (ht : t ≤ s.now) :
    exec (.migrateRecheck core) s = .next (s.modCore core fun c => { c with recheckAt := none }) := by
  change execMigrateRecheck core s = _
  simp only [execMigrateRecheck, hr]
  rw [if_pos ht]

end

/-! ## The obligation -/

/-- Settles O39, event by event. -/
theorem switchAndMigrationEvents : Obligations.SwitchAndMigrationEvents := by
  unfold Obligations.SwitchAndMigrationEvents
  intro s
  refine ⟨fun b x hb => ⟨?request, fun q id time t ms m base hq hx => ⟨?switch, ?withdraw⟩⟩,
    fun core dest celsius hr hd hc => ⟨fun b x hm => ⟨?moves, ?nowhere⟩, ?noMigrant⟩, ?cool, ?recheck⟩
  case request => exact fun target t ms v base => exec_switchRequest_qualified hb
  case switch => exact exec_variantSwitch_held hb hq hx
  case withdraw =>
    exact fun ht hh =>
      ⟨exec_switchWithdraw_late hb hq hx ht hh, Block.withdraw_switch hq, Block.get_withdraw_passing hq⟩
  case moves => exact exec_migrate_to hr hd hc hm
  case nowhere => exact exec_migrate_nowhere hr hd hc hm
  case noMigrant => exact exec_migrate_no_migrant hr hd hc
  case cool => exact fun core dest celsius => exec_migrate_cool
  case recheck => exact fun core t => exec_migrateRecheck_due

end Sys2Proof.Machine
end

section
/-! PROOFS. The state after reset. Its tables of cores, clusters and dies are empty, so that each of these reads as its own reset value. -/

namespace Sys2Proof.Machine

@[simp] theorem State.reset_core (n : Nat) : State.reset.core n = CoreSt.reset n := rfl

@[simp] theorem State.reset_cluster (n : Nat) : State.reset.cluster n = Cluster.reset := rfl

@[simp] theorem State.reset_die (n : Nat) : State.reset.die n = Die.reset n := rfl

/-- No bit of TSTAT is set: the timer has neither been locked nor become valid. -/
theorem State.reset_tstat : State.reset.tstat = 0 := by decide

/-- STATUS shows 64 free entries of the kick FIFO, and dawn service. -/
theorem State.reset_status : State.reset.status = 0x4001 := by decide

/-- Settles O58, value by value. -/
theorem resetState : Obligations.ResetState := by
  unfold Obligations.ResetState
  refine ⟨rfl, State.reset_tstat, State.reset_status, rfl, rfl, rfl, rfl, rfl, rfl, rfl, rfl, rfl, rfl, rfl, rfl, rfl, rfl,
    fun k => ?cluster, fun d => ?die, fun n => ?core⟩
  case cluster =>
    rw [State.reset_cluster]
    exact ⟨rfl, rfl, rfl⟩
  case die =>
    rw [State.reset_die]
    rfl
  case core =>
    rw [State.reset_core]
    exact ⟨rfl, rfl, rfl, rfl⟩

end Sys2Proof.Machine
end

section
/-! PROOFS. The host port: what a kick, GRCMD and a write of BAR0 answer while the device works (R72 to R75, R78, R79, R90, R422). -/

namespace Sys2Proof.Machine

section
variable {s : State} (hw : s.working = true)

/-! ## Kicks (R75, R79, R90) -/

section
variable {v : BitVec 64}
include hw

theorem exec_kick_queued {g : Graph} (hr : s.kickReason v = 0) (hg : s.graph? (v.toNat / 2 ^ 52) = some g) :
    let h := v.toNat / 2 ^ 52
    exec (.kick v) s = .next { s with
      graphs := s.graphs.put h { g with replays := g.replays + 1 },
      host := { s.host with kicks := s.host.kicks ++ [⟨h, v.toNat % 2 ^ 52 / 64 * 64, toWord (g.replays + 1)⟩] } } := by
  refine congrArg Host.Outcome.next ?_
  unfold State.kick
  rw [if_neg (by simp [hw]), if_neg (fun refused => refused hr), hg]

theorem exec_kick_refused (hr : s.kickReason v ≠ 0) :
    exec (.kick v) s = .next (s.postEvent 2 0 (v.toNat / 2 ^ 52) 0 (leBytes 1 (s.kickReason v))) := by
  refine congrArg Host.Outcome.next ?_
  unfold State.kick
  rw [if_neg (by simp [hw]), if_pos hr]

end

/-! ## Task graphs (R76 to R78) -/

section
variable {v : BitVec 32} (hn : s.host.grstat.toNat / 2 ^ 30 ≠ 1)

theorem State.register_accepted {t : State} {h nb eb : List Byte} {k : Nat} (hc : s.ctxExists s.host.grctx.toNat = true)
    (hread : s.readGraph (dispatcher s.host.grctx.toNat) s.host.graddr.toNat = (t, .ok (h, nb, eb))) (hr : (graphReason h nb eb).1 = 0)
    (hk : t.freeHandle = some k) :
    s.register = { t with
      graphs := t.graphs.put k { handle := k, ctx := s.host.grctx.toNat, nodes := (graphReason h nb eb).2.1,
                                 edges := (graphReason h nb eb).2.2, replays := 0 },
      host := { t.host with grstat := grstat 2 k 0 } } := by
  simp [State.register, hc, hread, hr, hk]

theorem State.unregister_unused {h : Nat} (h0 : h ≠ 0) (hg : (s.graph? h).isSome = true) (hr : s.replaying h = false) :
    s.unregister h = { s with graphs := s.graphs.erase h, host := { s.host with grstat := grstat 2 h 0 } } := by
  have known : ¬(h = 0 ∨ (s.graph? h).isNone = true) := by
    obtain ⟨g, hg⟩ := Option.isSome_iff_exists.1 hg
    simp [h0, hg]
  rw [State.unregister, if_neg known, if_neg (by simp [hr])]

include hw hn

theorem State.grActs_of_working : s.grActs = true := by
  rw [State.grActs, hw, decide_eq_true hn]
  rfl

theorem exec_grcmdRegister (hv : grCode v = 1) : exec (.grcmdRegister v) s = .next s.register := by
  change execGrcmdRegister v s = _
  simp [execGrcmdRegister, State.grcmd, State.grActs_of_working hw hn, hv]

theorem exec_grcmdUnregister (hv : grCode v = 2) : exec (.grcmdUnregister v) s = .next (s.unregister (grHandle v)) := by
  change execGrcmdUnregister v s = _
  simp [execGrcmdUnregister, State.grcmd, State.grActs_of_working hw hn, hv]

theorem exec_grcmdInvalid (hv : grCode v = 0) :
    exec (.grcmdInvalid v) s = .next { s with host := { s.host with grstat := grstat 3 0 9 } } := by
  change execGrcmdInvalid v s = _
  simp [execGrcmdInvalid, State.grcmd, State.grActs_of_working hw hn, hv, State.grRefuse, State.modHost]

end

/-! ## The registers of BAR0 (R72, R73, R90, R422) -/

/-- A write that its row takes is carried out. -/
theorem bar0Row_taken {p : Bool} {off width : Nat} {v : DWord} (ha : bar0Ok off width = true) (hp : p = true) :
    bar0Row p ⟨off, width, v⟩ s = .next (s.bar0Write off width v) := by
  rw [bar0Row, if_pos (by rw [ha, hp]; rfl)]

theorem State.bar0Write4_mailbox {off : Nat} (hlo : 0x100 ≤ off) (hhi : off < 0x1FC) (v : Word) :
    s.bar0Write4 off v = s.modHost fun h => { h with mboxin := putBytes h.mboxin (off - 0x100) (leBytes 4 v.toNat) } := by
  unfold State.bar0Write4
  rw [if_pos (by omega)]
  exact if_neg (by omega)

theorem State.bar0Write4_doorbell (v : Word) :
    s.bar0Write4 0x1FC v = (s.modHost fun h => { h with mboxin := putBytes h.mboxin 252 (leBytes 4 v.toNat) }).doorbell := by
  unfold State.bar0Write4
  rw [if_pos (by decide)]
  rfl

section
variable (v : Word)
include hw

theorem State.bar0Write4_grctx : s.bar0Write4 0x18 v = s.modHost fun h => { h with grctx := v &&& 0xFF } := by
  unfold State.bar0Write4
  rw [if_neg (by decide)]
  exact if_neg (by simp [hw])

theorem State.bar0Write4_qprio : s.bar0Write4 0x28 v = s.modHost fun h => { h with qprio := v } := by
  unfold State.bar0Write4
  rw [if_neg (by decide)]
  exact if_neg (by simp [hw])

theorem State.bar0Write4_eqsize : s.bar0Write4 0x48 v = s.modHost fun h => h.setEqsize v.toNat := by
  unfold State.bar0Write4
  rw [if_neg (by decide)]
  exact if_neg (by simp [hw])

theorem State.bar0Write4_eqhead : s.bar0Write4 0x4C v = s.modHost fun h => h.setEqhead v.toNat := by
  unfold State.bar0Write4
  rw [if_neg (by decide)]
  exact if_neg (by simp [hw])

theorem State.bar0Write4_eqlost : s.bar0Write4 0x54 v = s.modHost fun h => if v = 0 then { h with eqlost := 0 } else h := by
  unfold State.bar0Write4
  rw [if_neg (by decide)]
  exact if_neg (by simp [hw])

end

section
variable (v : DWord)

theorem exec_bar0RegisterWrite_mailbox {off : Nat} (hlo : 0x100 ≤ off) (hhi : off < 0x1FC) (ha : off % 4 = 0) :
    exec (.bar0RegisterWrite ⟨off, 4, v⟩) s =
      .next (s.modHost fun h => { h with mboxin := putBytes h.mboxin (off - 0x100) (leBytes 4 (loWord v).toNat) }) := by
  have ok : bar0Ok off 4 = true := decide_eq_true ⟨.inl rfl, ha, by omega⟩
  have other : (!(touches ⟨off, 4, v⟩ 0x40 || touches ⟨off, 4, v⟩ 0x44 || touches ⟨off, 4, v⟩ 0x48 || touches ⟨off, 4, v⟩ 0x54 ||
      touches ⟨off, 4, v⟩ 0x1FC) && !(off = 0 && (4 : Nat) = 8) && !(off = 0x1C)) = true := by
    simp [touches]
    omega
  change execBar0RegisterWrite ⟨off, 4, v⟩ s = _
  rw [execBar0RegisterWrite, bar0Row_taken ok other]
  exact congrArg _ (State.bar0Write4_mailbox hlo hhi (loWord v))

theorem exec_mboxDoorbell : exec (.mboxDoorbell ⟨0x1FC, 4, v⟩) s =
    .next (s.modHost fun h => { h with mboxin := putBytes h.mboxin 252 (leBytes 4 (loWord v).toNat) }).doorbell :=
  (bar0Row_taken rfl rfl).trans (congrArg _ (State.bar0Write4_doorbell (loWord v)))

include hw

theorem exec_eqConfigWrite_eqbase : exec (.eqConfigWrite ⟨0x40, 8, v⟩) s = .next (s.modHost fun h => h.setEqbase v) :=
  (bar0Row_taken rfl rfl).trans (congrArg _ (if_pos hw))

theorem exec_eqConfigWrite_eqsize : exec (.eqConfigWrite ⟨0x48, 4, v⟩) s = .next (s.modHost fun h => h.setEqsize (loWord v).toNat) :=
  (bar0Row_taken rfl rfl).trans (congrArg _ (State.bar0Write4_eqsize hw (loWord v)))

theorem exec_eqlostClear :
    exec (.eqlostClear ⟨0x54, 4, v⟩) s = .next (s.modHost fun h => if loWord v = 0 then { h with eqlost := 0 } else h) :=
  (bar0Row_taken rfl rfl).trans (congrArg _ (State.bar0Write4_eqlost hw (loWord v)))

theorem exec_bar0RegisterWrite_graddr : exec (.bar0RegisterWrite ⟨0x10, 8, v⟩) s = .next (s.modHost fun h => { h with graddr := v }) :=
  (bar0Row_taken rfl rfl).trans (congrArg _ (if_pos hw))

theorem exec_bar0RegisterWrite_grctx :
    exec (.bar0RegisterWrite ⟨0x18, 4, v⟩) s = .next (s.modHost fun h => { h with grctx := loWord v &&& 0xFF }) :=
  (bar0Row_taken rfl rfl).trans (congrArg _ (State.bar0Write4_grctx hw (loWord v)))

theorem exec_bar0RegisterWrite_qprio :
    exec (.bar0RegisterWrite ⟨0x28, 4, v⟩) s = .next (s.modHost fun h => { h with qprio := loWord v }) :=
  (bar0Row_taken rfl rfl).trans (congrArg _ (State.bar0Write4_qprio hw (loWord v)))

theorem exec_bar0RegisterWrite_eqhead :
    exec (.bar0RegisterWrite ⟨0x4C, 4, v⟩) s = .next (s.modHost fun h => h.setEqhead (loWord v).toNat) :=
  (bar0Row_taken rfl rfl).trans (congrArg _ (State.bar0Write4_eqhead hw (loWord v)))

end

theorem exec_bar0BadAccess {a : Bar0Access} (ha : bar0Ok a.offset a.width = false) :
    exec (.bar0BadAccess a) s = .next (s.modHost fun h => { h with readData := none }) :=
  congrArg Host.Outcome.next (if_neg (by simp [ha]))

end

/-! ## The obligation -/

/-- Settles O34, register by register. -/
theorem hostRegisterEvents : Obligations.HostRegisterEvents := by
  unfold Obligations.HostRegisterEvents
  refine fun s hw => ⟨fun v g => ?kick, fun v hn => ⟨fun t h nb eb k hv => ?register, fun hv => ?unregister, ?invalid⟩, fun v => ?write, ?bad⟩
  case kick => exact ⟨exec_kick_queued hw, exec_kick_refused hw⟩
  case register =>
    intro hc hread hr hk
    rw [exec_grcmdRegister hw hn hv, State.register_accepted hc hread hr hk]
  case unregister =>
    intro h h0 hg hr
    rw [exec_grcmdUnregister hw hn hv, State.unregister_unused h0 hg hr]
  case invalid => exact exec_grcmdInvalid hw hn
  case write =>
    exact ⟨exec_eqConfigWrite_eqbase hw v, exec_eqConfigWrite_eqsize hw v, exec_eqlostClear hw v, exec_bar0RegisterWrite_graddr hw v,
      exec_bar0RegisterWrite_grctx hw v, exec_bar0RegisterWrite_qprio hw v, exec_bar0RegisterWrite_eqhead hw v,
      fun _ => exec_bar0RegisterWrite_mailbox v, exec_mboxDoorbell v⟩
  case bad => exact fun _ => exec_bar0BadAccess

end Sys2Proof.Machine
end

section
/-! PROOFS. Requests from outside and failing memory: what each of their events answers where its guard holds (R69, R71, R334, R346, R347,
R386, R387). -/

namespace Sys2Proof.Machine

section
variable {s t : State}

/-! ## The BAR2 window (R69, R71, R346) -/

theorem exec_hostBar2Access_outside {a : Nat} {op : MemOp} (h : windowAt s.host.bar2 a (opSize op) = none) :
    exec (.hostBar2Access ⟨a, op⟩) s = .next { s with host := { s.host with readData := none } } := by
  change execHostBar2Access ⟨a, op⟩ s = _
  simp only [execHostBar2Access, h]

/-- Behind the window a request is performed without a tag of a context, and its answer is kept. -/
theorem exec_hostBar2Access_inside {a pa : Nat} {op : MemOp} (h : windowAt s.host.bar2 a (opSize op) = some pa) :
    let r := s.performAt 0 pa op
    exec (.hostBar2Access ⟨a, op⟩) s = .next { r.1 with host := { r.1.host with readData := some r.2 } } := by
  change execHostBar2Access ⟨a, op⟩ s = _
  simp only [execHostBar2Access, h]

/-! ## Requests of peers (R347) -/

section
variable {a : PeerRequest}

/-- The places of a request of a peer, translated as its context does here. -/
def State.peerPlaces (s : State) (a : PeerRequest) : State × Except EngStop (List (Nat × Nat)) :=
  s.placeAll ⟨256, a.ctx, none⟩ 0 0 (opKind a.op) (piecesOf [((a.va.toNat : Int), opSize a.op)])

theorem exec_peerLinkRequest_untranslated {f : EngStop} (h : s.peerPlaces a = (t, .error f)) : exec (.peerLinkRequest a) s = .next t := by
  unfold State.peerPlaces at h
  change execPeerLinkRequest a s = _
  simp only [execPeerLinkRequest, h]

theorem exec_peerLinkRequest_write {ps : List (Nat × Nat)} {bs : List Byte} (h : s.peerPlaces a = (t, .ok ps)) (ho : a.op = .write bs) :
    exec (.peerLinkRequest a) s = .next (t.writePlaces a.ctx ps bs) := by
  unfold State.peerPlaces at h
  change execPeerLinkRequest a s = _
  simp only [execPeerLinkRequest, h]
  rw [ho]

/-- Every other request is performed at the first place, under the tag of its context. -/
theorem exec_peerLinkRequest_performed {ps : List (Nat × Nat)} (h : s.peerPlaces a = (t, .ok ps)) (ho : ∀ bs, a.op ≠ .write bs) :
    exec (.peerLinkRequest a) s = .next (t.performAt a.ctx ((ps.map Prod.fst).headD 0) a.op).1 := by
  unfold State.peerPlaces at h
  change execPeerLinkRequest a s = _
  simp only [execPeerLinkRequest, h]

end

/-! ## Lines and granules (R334, R387) -/

theorem exec_staleLineExpire {core line : Nat} : exec (.staleLineExpire core line) s =
    .next (s.modCore core fun c => { c with dcache := c.dcache.filter fun d => d.pa / 128 ≠ line }) := by
  change execStaleLineExpire core line s = _
  simp [execStaleLineExpire, State.dropLines, eq_comm]

theorem exec_evictUncorrectable {line : Nat} : exec (.evictUncorrectable line) s =
    .next ((s.poisonLine line).charge 0x2B 4 (Table.get 0 s.tags line) (homeCore (128 * line)) (BitVec.ofNat 64 (128 * line)) 0 0 0) :=
  rfl

theorem exec_scrubError {granule : Nat} : exec (.scrubError granule) s =
    .next { s with poison := Table.set false s.poison granule true, memErr := Table.set false s.memErr granule false } :=
  rfl

/-! ## Storage of a block (R386) -/

section
variable {e : SramError} {x : Block} (hx : s.block? e.b = some x)
include hx

/-- A register's error damages it, and stops its wave while its block runs. -/
theorem exec_sramUncorrectable_register (hc : e.structureCode.toNat < 2) (hr : x.stop = none) :
    exec (.sramUncorrectable e) s =
      .next ((s.damage e).asyncFault e.b e.w 0x28 0 0 (mkDet e.structureCode.toNat none e.index.toNat) 0) := by
  have det : (sramFault e).2.2.2 = mkDet e.structureCode.toNat none e.index.toNat := rfl
  change execSramUncorrectable e s = _
  simp only [execSramUncorrectable, hx, det]
  rw [if_neg (by omega), if_neg (by simp [hr]; omega)]

theorem exec_sramUncorrectable_scratchpad (hc : e.structureCode.toNat = 2) (hi : e.index.toNat < scratchSize x.core) :
    exec (.sramUncorrectable e) s = .next (s.scratchError (windowPa x.core e.index.toNat / 64 * 64)) := by
  change execSramUncorrectable e s = _
  simp only [execSramUncorrectable, hx]
  rw [if_pos hc, if_pos hi]

/-- An error that a later command or the save will find stands until then. -/
theorem exec_sramUncorrectable_stands (hc : 2 < e.structureCode.toNat ∨ (e.structureCode.toNat < 2 ∧ x.stop.isSome = true)) :
    exec (.sramUncorrectable e) s = .next { s with sramErr := s.sramErr ++ [e] } := by
  change execSramUncorrectable e s = _
  simp only [execSramUncorrectable, hx]
  rw [if_neg (by omega), if_pos (hc.imp_right And.right)]

end

end

/-! ## The obligation -/

/-- Settles O27, event by event. -/
theorem outsideRequestsAndMemoryErrors : Obligations.OutsideRequestsAndMemoryErrors := by
  unfold Obligations.OutsideRequestsAndMemoryErrors
  refine ⟨fun s a => ?host, fun s t a => ?peer, fun s core line granule e => ?errors⟩
  case host =>
    exact ⟨fun _ => exec_hostBar2Access_outside, fun _ _ => exec_hostBar2Access_inside, fun _ _ => exec_hostBar2Access_inside,
      fun _ _ _ => exec_hostBar2Access_inside, fun _ _ _ => exec_hostBar2Access_inside, fun _ _ _ _ => exec_hostBar2Access_inside⟩
  case peer =>
    refine ⟨fun f h => exec_peerLinkRequest_untranslated h, fun ps h => ?_⟩
    have performed {op : MemOp} (ho : a.op = op) (hw : ∀ bs, op ≠ .write bs) :
        exec (.peerLinkRequest a) s = .next (t.performAt a.ctx ((ps.map Prod.fst).headD 0) op).1 := by
      rw [exec_peerLinkRequest_performed h (by simpa [ho] using hw), ho]
    exact ⟨fun n ho => performed ho (by simp), fun bs ho => exec_peerLinkRequest_write h ho, fun n v ho => performed ho (by simp),
      fun n v ho => performed ho (by simp), fun n c v ho => performed ho (by simp)⟩
  case errors =>
    exact ⟨exec_staleLineExpire, exec_evictUncorrectable, exec_scrubError, fun x hx =>
      ⟨exec_sramUncorrectable_register hx, exec_sramUncorrectable_scratchpad hx, exec_sramUncorrectable_stands hx⟩⟩

end Sys2Proof.Machine
end

section
/-! PROOFS. Events that leave every register, every matrix state and every byte of memory: what such a step changes of a state, the
updates that the rows of events are made of, and the rows. -/

namespace Sys2Proof.Machine

/-! ## Steps that keep registers and memory -/

/-- Every wave has the registers it had, every block its matrix state, and every cell of memory its value. -/
structure SameCells (s t : State) : Prop where
  regs : ∀ b w, t.regs? b w = s.regs? b w
  mtx : ∀ b, t.mtx? b = s.mtx? b
  mem : t.mem = s.mem

/-- Besides, every byte is specified or not as it was, so that it reads the same. -/
structure Still (s t : State) : Prop extends SameCells s t where
  unspec : t.unspec = s.unspec
  steps : t.steps = s.steps

theorem SameCells.refl (s : State) : SameCells s s := ⟨fun _ _ => rfl, fun _ => rfl, rfl⟩

theorem SameCells.trans {s t u : State} (h : SameCells s t) (g : SameCells t u) : SameCells s u :=
  ⟨fun b w => (g.regs b w).trans (h.regs b w), fun b => (g.mtx b).trans (h.mtx b), g.mem.trans h.mem⟩

/-- A step that leaves the blocks and the cells of memory. -/
theorem SameCells.of_blocks {s t : State} (hb : t.blocks = s.blocks) (hm : t.mem = s.mem) : SameCells s t where
  regs b w := by simp only [State.regs?, State.wave?, State.block?, hb]
  mtx b := by simp only [State.mtx?, State.block?, hb]
  mem := hm

theorem SameCells.modCore {s t : State} (h : SameCells s t) {n : Nat} {f : CoreSt → CoreSt} : SameCells s (t.modCore n f) :=
  h.trans (.of_blocks (t.modCore_blocks n f) (t.modCore_mem n f))

theorem SameCells.forget {s t : State} (h : SameCells s t) {lo hi : Nat} : SameCells s (t.forget lo hi) :=
  h.trans (.of_blocks (t.forget_blocks lo hi) (t.forget_mem lo hi))

theorem Still.refl (s : State) : Still s s := ⟨.refl s, rfl, rfl⟩

theorem Still.trans {s t u : State} (h : Still s t) (g : Still t u) : Still s u :=
  ⟨h.toSameCells.trans g.toSameCells, g.unspec.trans h.unspec, g.steps.trans h.steps⟩

/-- A step that writes other fields of the state than blocks, memory, its unspecified ranges and the count of steps. -/
theorem Still.elsewhere {s t : State} (h : (t.blocks, t.mem, t.unspec, t.steps) = (s.blocks, s.mem, s.unspec, s.steps)) :
    Still s t := by
  obtain ⟨hb, hm, hu, hn⟩ : t.blocks = s.blocks ∧ t.mem = s.mem ∧ t.unspec = s.unspec ∧ t.steps = s.steps := by simpa using h
  exact ⟨.of_blocks hb hm, hu, hn⟩

theorem Still.modCore {s t : State} (h : Still s t) {n : Nat} {f : CoreSt → CoreSt} : Still s (t.modCore n f) :=
  h.trans (.elsewhere (by rfl))

theorem Quiet.still {s t : State} (h : Quiet s t) : Still s t := ⟨⟨h.regs, h.mtx, h.mem⟩, h.unspec, h.steps⟩

theorem Still.foldl {α : Type} {f : State → α → State} (hf : ∀ s a, Still s (f s a)) (l : List α) (s : State) : Still s (l.foldl f s) :=
  List.foldlRecOn (motive := Still s) l f (.refl s) fun t h a _ => h.trans (hf t a)

theorem Still.ite {s t u : State} {c : Prop} [Decidable c] (ht : Still s t) (hu : Still s u) : Still s (if c then t else u) := by
  split
  · exact ht
  · exact hu

theorem Still.sameMemory {s t : State} (h : Still s t) : Safety.SameMemory s t := State.byte_congr h.mem h.unspec h.steps

/-- Where an outcome goes on, nothing of registers, matrix states and bytes has changed. -/
def GoesStill (s : State) (o : Out) : Prop := ∃ t, o = .next t ∧ Still s t

theorem Still.goes {s t : State} (h : Still s t) : GoesStill s (.next t) := ⟨t, rfl, h⟩

theorem goesStill_same (s : State) : GoesStill s (.next s) := (Still.refl s).goes

section
variable {s t : State} (h : (t.blocks, t.mem, t.unspec, t.steps) = (s.blocks, s.mem, s.unspec, s.steps))
include h

theorem goesStill_elsewhere : GoesStill s (.next t) := (Still.elsewhere h).goes

theorem goesStill_if {c : Prop} [Decidable c] : GoesStill s (.next (if c then t else s)) := (Still.ite (.elsewhere h) (.refl s)).goes

theorem goesStill_unless {c : Prop} [Decidable c] : GoesStill s (.next (if c then s else t)) := (Still.ite (.refl s) (.elsewhere h)).goes

end

/-! ## The updates that the rows are made of -/

section
variable (s : State)

theorem State.still_setCtx (n : Nat) (c : Ctx) : Still s (s.setCtx n c) := .elsewhere (by rfl)

theorem State.still_modReplay (n : Nat) (f : Replay → Replay) : Still s (s.modReplay n f) := .elsewhere (by simp)

/-- A block replaced by one with its waves and its matrix state. -/
theorem State.quiet_setBlock {b : Nat} {x y : Block} (hx : s.block? b = some x) (hw : y.waves = x.waves) (hm : y.mtx = x.mtx) :
    Quiet s (s.setBlock b y) := by
  have e : s.setBlock b y = s.modBlock b fun u => if u = x then y else u := by simp [State.modBlock, hx]
  rw [e]
  refine s.quiet_modBlock' b _ (fun u => ?_) fun u => ?_
  · split
    · next hu => rw [hu, hw]
    · rfl
  · split
    · next hu => rw [hu, hm]
    · rfl

/-- A change of all blocks that leaves their waves and their matrix states. -/
theorem State.still_mapBlocks (f : Nat → Block → Block) (hw : ∀ b x, (f b x).waves = x.waves) (hm : ∀ b x, (f b x).mtx = x.mtx) :
    Still s { s with blocks := Table.map f s.blocks } := by
  have found (b : Nat) : State.block? { s with blocks := Table.map f s.blocks } b = (s.block? b).map (f b) := Table.find?_map f s.blocks b
  refine ⟨⟨fun b w => ?_, fun b => ?_, rfl⟩, rfl, rfl⟩
  · simp only [State.regs?, State.wave?, found]
    cases s.block? b <;> simp [hw]
  · simp only [State.mtx?, found]
    cases s.block? b <;> simp [hm]

/-- A block is asked to stop (R393): it stops, and the parks are counted. -/
theorem State.still_askStop (b icause : Nat) : Still s (s.askStop b icause) := by
  unfold State.askStop
  split
  · next x _ =>
    split
    · exact .refl s
    · have stopped := (s.quiet_stopBlock b icause []).still
      dsimp only
      split
      · exact stopped
      · have ordered := (State.quiet_modBlock' (s.stopBlock b icause []) b
          (fun x => { x with stop := x.stop.map fun st => { st with order := s.disp.parks + 1 } }) (fun _ => rfl) fun _ => rfl).still
        exact (stopped.trans ordered).trans (.elsewhere (by rfl))
  · exact .refl s

theorem State.still_shedPark (b : Nat) : Still s (s.shedPark b) := by
  unfold State.shedPark
  split
  · exact .ite (s.still_askStop b _) (.refl s)
  · exact .refl s

theorem State.still_shedForced (b : Nat) : Still s (s.shedForced b) := by
  unfold State.shedForced
  split
  · exact .ite ((s.still_askStop b _).trans (.elsewhere (by rfl))) (.refl s)
  · exact .refl s

/-- Classes of priority are shed (R409): their blocks' switch requests are withdrawn. -/
theorem State.still_shedClasses (cs : List Nat) (at' : Nat) : Still s (s.shedClasses cs at') :=
  (s.still_mapBlocks (fun _ x => if s.ofClasses cs x.launch then x.withdraw else x)
    (fun _ x => by split <;> simp [x.withdraw_waves.1]) (fun _ x => by split <;> simp [x.withdraw_waves.2])).trans (.elsewhere (by rfl))

theorem Still.cross {s t : State} (h : Still s t) {at' : Nat} : Still s (t.cross at') :=
  h.trans (.ite (.elsewhere (by rfl)) (.trans (.elsewhere (by rfl)) (State.still_shedClasses _ _ _)))

theorem Still.event {s t : State} (h : Still s t) {cause : Nat} {det : DWord} : Still s (t.event cause det) := h.trans (.elsewhere (by rfl))

theorem Still.clocks {s t : State} (h : Still s t) {f : Nat → Nat} : Still s (t.clocks f) :=
  h.trans (.foldl (fun _ _ => .elsewhere (by rfl)) _ _)

theorem State.still_takeTail (core victim : Nat) : Still s (s.takeTail core victim) := .ite (.elsewhere (by rfl)) (.elsewhere (by rfl))

/-- A block's exit is noted in its launch, or at the tiles of its fragments; then the cohorts are settled. -/
theorem State.still_enterExit (x : Block) : Still s (s.enterExit x) := by
  unfold State.enterExit State.noteExit
  dsimp only
  refine .trans (.ite ?task ?launch) (State.quiet_settleCohorts _ _).still
  case task => exact (s.quiet_modLaunch _ _).still.trans (.foldl (fun _ _ => .elsewhere (by rfl)) _ _)
  case launch => exact (s.quiet_modLaunch _ _).still

theorem State.still_grRefuse (handle reason : Nat) : Still s (s.grRefuse handle reason) := .elsewhere (by rfl)

theorem State.still_unregister (h : Nat) : Still s (s.unregister h) :=
  .ite (s.still_grRefuse h 10) (.ite (s.still_grRefuse h 8) (.elsewhere (by rfl)))

/-- A write of GRCMD that does not register reads no memory. -/
theorem State.still_grcmd {v : BitVec 32} (hv : grCode v ≠ 1) : Still s (s.grcmd v) := by
  unfold State.grcmd
  split
  · exact .refl s
  · split
    · next h => exact absurd h hv
    · exact s.still_unregister _
    · exact s.still_grRefuse 0 9

theorem Still.mboxDone {s t : State} (h : Still s t) {status : Nat} {payload : List Byte} : Still s (t.mboxDone status payload) :=
  h.trans (.elsewhere (by rfl))

/-- A command of the mailbox goes on as its handler does, or is answered with a wrong length (R422). -/
theorem goesStill_mboxRow {cmd : Nat} {lens : List Nat} {f : Table Byte → State} (hf : ∀ m, Still s (f m)) :
    GoesStill s (mboxRow cmd lens s f) := by
  unfold mboxRow
  dsimp only
  split
  · exact goesStill_same s
  · split
    · exact (Still.refl s).mboxDone.goes
    · exact (hf _).goes

/-! ## What a stopping block gives back -/

theorem State.forgetAll_blocks (rs : List (Nat × Nat)) : (s.forgetAll rs).blocks = s.blocks := by
  unfold State.forgetAll
  exact State.foldl_keeps State.blocks _ (fun t r => t.forget_blocks r.1 r.2) rs s

theorem State.revealCopy_blocks (e : CopyEntry) (abandoned : Bool) : (s.revealCopy e abandoned).blocks = s.blocks := by
  unfold State.revealCopy
  dsimp only
  rw [State.foldl_keeps State.blocks _ fun _ _ => State.foldl_keeps State.blocks _ (fun _ _ => State.forgetAll_blocks _ _) _ _,
    State.forgetAll_blocks]
  rfl

theorem State.freeRelease_blocks (core n : Nat) : (s.freeRelease core n).blocks = s.blocks := by
  unfold State.freeRelease
  split <;> rfl

theorem State.sameCells_withdrawCopies (core b : Nat) (st : Stop) : SameCells s (s.withdrawCopies core b st) := by
  unfold State.withdrawCopies
  dsimp only
  refine .trans (.of_blocks ?blocks ?mem) (State.quiet_modBlock' _ b _ ?_ ?_).still.toSameCells
  case blocks =>
    rw [State.foldl_keeps State.blocks _ fun _ _ => (State.revealCopy_blocks _ _ _).trans (State.freeRelease_blocks _ _ _)]
    rfl
  case mem => simp
  all_goals exact fun _ => rfl

theorem State.quiet_reserve (c : EngCmd) (n : Int) : Quiet s (s.reserve c n) := by
  unfold State.reserve
  split
  · exact s.quiet_modWave _ _ _ fun _ => rfl
  · exact .refl s

theorem State.quiet_recallRays (core b : Nat) : Quiet s (s.recallRays core b) := by
  unfold State.recallRays
  exact (Quiet.foldl _ (fun t c => t.quiet_reserve c (-1)) _ s).trans (State.quiet_modCore _ core _)

end

/-! ## Rows that change what is specified -/

section
variable (s : State)

theorem sameCells_execRingAccept (core k : Nat) : ∃ t, execRingAccept core k s = .next t ∧ SameCells s t := by
  unfold execRingAccept
  split
  · dsimp only
    split
    · exact ⟨_, rfl, .modCore (.forget (.modCore (.refl s)))⟩
    · exact ⟨s, rfl, .refl s⟩
  · exact ⟨s, rfl, .refl s⟩

theorem sameCells_execBlockStop (b : Nat) : ∃ t, execBlockStop b s = .next t ∧ SameCells s t := by
  unfold execBlockStop
  split
  · exact ⟨s, rfl, .refl s⟩
  · next x _ =>
    split
    · exact ⟨s, rfl, .refl s⟩
    · next st _ =>
      refine ⟨_, rfl, ?_⟩
      split
      · exact s.sameCells_withdrawCopies x.core b st
      · exact (s.sameCells_withdrawCopies x.core b st).trans (State.quiet_recallRays _ x.core b).still.toSameCells

/-! ## Copies, rings and tasks (R106 to R111, R271, R280 to R284) -/

theorem still_execStaleLineExpire (core line : Nat) : GoesStill s (execStaleLineExpire core line s) := goesStill_elsewhere (by rfl)

theorem still_execCpytRelease (core k : Nat) : GoesStill s (execCpytRelease core k s) := by
  unfold execCpytRelease
  split
  · split
    · exact goesStill_elsewhere (by rfl)
    · exact goesStill_same s
  · exact goesStill_same s

theorem still_execSrelDequeue (core : Nat) : GoesStill s (execSrelDequeue core s) := by
  unfold execSrelDequeue
  split
  · split
    · exact goesStill_elsewhere (by rfl)
    · split
      · exact goesStill_elsewhere (by rfl)
      · exact goesStill_same s
    · exact goesStill_same s
  · exact goesStill_same s

theorem still_execStreamRingPlace (p : RingPlacement) : GoesStill s (execStreamRingPlace p s) := goesStill_elsewhere (by rfl)

theorem still_execTaskPush (core : Nat) : GoesStill s (execTaskPush core s) := by
  unfold execTaskPush
  split
  · exact goesStill_same s
  · dsimp only
    split
    case h_3 => exact goesStill_same s
    all_goals
      split
      · exact goesStill_elsewhere (by rfl)
      · exact goesStill_same s

theorem still_execEnqArrive (core : Nat) : GoesStill s (execEnqArrive core s) := by
  unfold execEnqArrive
  split
  · split
    · split
      · exact goesStill_unless (by rfl)
      · exact goesStill_elsewhere (by rfl)
    · exact goesStill_same s
  · exact goesStill_same s

theorem still_execNamedQueueAssign (p : QueueAssignment) : GoesStill s (execNamedQueueAssign p s) := goesStill_elsewhere (by rfl)

theorem still_execTaskSteal (core victim : Nat) : GoesStill s (execTaskSteal core victim s) := by
  unfold execTaskSteal
  split
  · exact (s.still_takeTail core victim).goes
  · exact goesStill_same s

theorem still_execStealRetry (core : Nat) : GoesStill s (execStealRetry core s) := by
  unfold execStealRetry
  split
  · exact (Still.ite (.elsewhere (by rfl)) (s.still_takeTail core _)).goes
  · exact goesStill_same s

/-! ## Waits, stops and exits (R103, R179, R351, R393, R409, R414, R417) -/

/-- The end of a wait leaves the wave's registers, and so does what an acquire or a broken GRIDWAIT adds to it. -/
theorem still_execWaitSatisfied (b w : Nat) : GoesStill s (execWaitSatisfied b w s) := by
  unfold execWaitSatisfied
  split
  · next x y _ hy =>
    have ended : Quiet s (s.setWave b w y.endWait) := s.quiet_setWave b w y _ hy rfl
    split
    · next z _ =>
      split
      · exact goesStill_same s
      · split
        · exact (s.quiet_asyncFault b w _ _ _ _ _).still.goes
        · split
          · exact (ended.trans (State.quiet_acquire _ _ _)).still.goes
          · split
            · exact (ended.trans (State.quiet_asyncFault _ b w _ _ _ _ _)).still.goes
            · exact goesStill_same s
    · exact goesStill_same s
  · exact goesStill_same s

theorem still_execWatchdog (b w : Nat) : GoesStill s (execWatchdog b w s) := by
  unfold execWatchdog
  split
  · split
    · split
      · exact (s.quiet_asyncFault b w _ _ _ _ _).still.goes
      · exact goesStill_same s
    · exact goesStill_same s
  · exact goesStill_same s

theorem still_execBlockExit (b : Nat) : GoesStill s (execBlockExit b s) := by
  unfold execBlockExit
  split
  · exact goesStill_same s
  · next x hx =>
    refine Still.goes ?_
    split
    · refine .trans (s.quiet_setBlock hx ?_ ?_).still (State.still_enterExit _ x) <;> rfl
    · exact .refl s

theorem still_execPeerTimelineSignal (p : PeerSignal) : GoesStill s (execPeerTimelineSignal p s) := (s.quiet_signal _ _ _ _).still.goes

theorem still_execPreemptRequest (t : PreemptTarget) : GoesStill s (execPreemptRequest t s) := goesStill_unless (by rfl)

theorem still_execShedPark (b : Nat) : GoesStill s (execShedPark b s) := (s.still_shedPark b).goes

theorem still_execShedForced (b : Nat) : GoesStill s (execShedForced b s) := (s.still_shedForced b).goes

theorem still_execSwitchWithdraw (b : Nat) : GoesStill s (execSwitchWithdraw b s) := by
  unfold execSwitchWithdraw
  split
  · exact goesStill_same s
  · next x hx =>
    exact (Still.ite (s.quiet_setBlock hx x.withdraw_waves.1 x.withdraw_waves.2).still (.refl s)).goes

/-- A migrant stops, and its waves' stop registers are cleared. -/
theorem still_execMigrate (core : Nat) (hot : HotCore) : GoesStill s (execMigrate core hot s) := by
  unfold execMigrate
  split
  · exact goesStill_same s
  · dsimp only
    split
    · exact goesStill_elsewhere (by rfl)
    · next b x _ =>
      split
      · exact goesStill_unless (by rfl)
      · refine Still.goes (.modCore (s.quiet_modBlock b _ (fun x w => ?regs) ?mtx).still)
        case regs =>
          rw [Table.find?_map, Option.map_map]
          rfl
        case mtx => exact fun _ => rfl

theorem still_execMigrateRecheck (core : Nat) : GoesStill s (execMigrateRecheck core s) := by
  unfold execMigrateRecheck
  split
  · exact goesStill_if (by rfl)
  · exact goesStill_same s

/-! ## Power and time (R23, R85, R86, R102, R104, R166, R403 to R411) -/

theorem still_execDroopAlarm (k : Nat) : GoesStill s (execDroopAlarm k s) := (Still.ite (.elsewhere (by rfl)) (.elsewhere (by rfl))).goes

theorem still_execDroopHalvingEnd (k : Nat) : GoesStill s (execDroopHalvingEnd k s) := goesStill_if (by rfl)

theorem still_execBalanceSample (k : Nat) (imb : Int) : GoesStill s (execBalanceSample k imb s) := goesStill_unless (by rfl)

theorem still_execGatingStart (k : Nat) : GoesStill s (execGatingStart k s) := goesStill_if (by rfl)

theorem still_execGatingComplete (k : Nat) : GoesStill s (execGatingComplete k s) := goesStill_if (by rfl)

theorem still_execWakeComplete (k : Nat) : GoesStill s (execWakeComplete k s) := goesStill_if (by rfl)

theorem still_execThermalLimit (celsius mhz : Nat) : GoesStill s (execThermalLimit celsius mhz s) := by
  unfold execThermalLimit
  dsimp only
  split
  · exact goesStill_same s
  · exact Still.goes (.event (.ite (.elsewhere (by rfl)) (.clocks (.elsewhere (by rfl)))))

theorem still_execShelfPoll (r : ShelfReading) : GoesStill s (execShelfPoll r s) := by
  unfold execShelfPoll
  dsimp only
  split
  · exact goesStill_same s
  · split
    · exact goesStill_elsewhere (by rfl)
    · exact Still.goes (.ite (.cross (.elsewhere (by rfl))) (.elsewhere (by rfl)))

theorem still_execClampCheck (pm : Nat) : GoesStill s (execClampCheck pm s) := goesStill_if (by rfl)

theorem still_execClockStep (pm : Nat) : GoesStill s (execClockStep pm s) := by
  unfold execClockStep
  dsimp only
  split
  · split
    · exact goesStill_same s
    · split
      · exact goesStill_elsewhere (by rfl)
      · exact Still.goes (.clocks (.elsewhere (by rfl)))
  · exact goesStill_same s

theorem still_execClampRelease : GoesStill s (execClampRelease s) := by
  unfold execClampRelease
  exact Still.goes (.ite (.clocks (.elsewhere (by rfl))) (.refl s))

theorem still_execPtpLockChange (locked : Bool) (tai : Nat) : GoesStill s (execPtpLockChange locked tai s) := by
  unfold execPtpLockChange
  dsimp only
  split
  · exact goesStill_same s
  · split
    · exact goesStill_elsewhere (by rfl)
    · exact goesStill_elsewhere (by rfl)

theorem still_execPpsInEdge : GoesStill s (execPpsInEdge s) := goesStill_elsewhere (by rfl)

theorem still_execPpsinExpire : GoesStill s (execPpsinExpire s) := goesStill_if (by rfl)

theorem still_execPpsOut : GoesStill s (execPpsOut s) := goesStill_if (by rfl)

theorem still_execTimerValid : GoesStill s (execTimerValid s) := goesStill_if (by rfl)

/-! ## The host port, the firmware and replays (R72, R73, R78, R82, R422) -/

theorem still_execGrcmdInvalid (v : BitVec 32) : GoesStill s (execGrcmdInvalid v s) := by
  refine Still.goes ?_
  split
  · next h => exact s.still_grcmd (by omega)
  · exact .refl s

theorem still_execGrcmdUnregister (v : BitVec 32) : GoesStill s (execGrcmdUnregister v s) := by
  refine Still.goes ?_
  split
  · next h => exact s.still_grcmd (by omega)
  · exact .refl s

/-- The word of EQLOST written, whatever the device does. -/
theorem State.still_bar0Write4_eqlost (v : Word) : Still s (s.bar0Write4 0x54 v) := by
  unfold State.bar0Write4
  rw [if_neg (by decide)]
  exact .ite (.refl s) (.elsewhere (by rfl))

theorem State.bar0Write4_eqtail (v : Word) : s.bar0Write4 0x50 v = s := by
  unfold State.bar0Write4
  rw [if_neg (by decide)]
  exact ite_self s

/-- An access that reaches EQLOST is one of its word, or of EQTAIL and EQLOST, and EQTAIL ignores writes (R73). -/
theorem still_execEqlostClear (a : Bar0Access) : GoesStill s (execEqlostClear a s) := by
  refine Still.goes ?_
  split
  · next h =>
    obtain ⟨off, width, v⟩ := a
    have reach : (off = 0x54 ∧ width = 4) ∨ (off = 0x50 ∧ width = 8) := by
      simp only [bar0Ok, touches, Bool.and_eq_true, decide_eq_true_eq] at h
      obtain ⟨⟨rfl | rfl, aligned, inside⟩, below, above⟩ := h
      · exact .inl ⟨by omega, rfl⟩
      · exact .inr ⟨by omega, rfl⟩
    obtain ⟨rfl, rfl⟩ | ⟨rfl, rfl⟩ := reach
    · exact s.still_bar0Write4_eqlost _
    · simp only [State.bar0Write, State.bar0Write4_eqtail]
      exact s.still_bar0Write4_eqlost _
  · exact .refl s

theorem still_execBar0BadAccess (a : Bar0Access) : GoesStill s (execBar0BadAccess a s) := goesStill_unless (by rfl)

theorem still_execAttest : GoesStill s (execAttest s) := goesStill_mboxRow s fun _ => (Still.refl s).mboxDone

theorem still_execUpdate (write : FlashWrite) : GoesStill s (execUpdate write s) := by
  refine goesStill_mboxRow s fun _ => ?_
  dsimp only
  split
  · exact .ite (Still.refl s).mboxDone (.ite (Still.refl s).mboxDone (.elsewhere (by rfl)))
  · exact Still.mboxDone (.elsewhere (by rfl))
  · exact .refl s

theorem still_execWdog : GoesStill s (execWdog s) := by
  refine goesStill_mboxRow s fun _ => ?_
  dsimp only
  split
  · exact (s.still_setCtx _ _).mboxDone
  · exact (Still.refl s).mboxDone

theorem still_execDawnstate : GoesStill s (execDawnstate s) := goesStill_mboxRow s fun _ => (Still.refl s).mboxDone

theorem still_execMboxUnknownCommand : GoesStill s (execMboxUnknownCommand s) := Still.goes (.ite (Still.refl s).mboxDone (.refl s))

theorem still_execPeerLinkUp (link : Nat) : GoesStill s (execPeerLinkUp link s) := goesStill_if (by rfl)

theorem still_execReplayFinish (replay : Nat) : GoesStill s (execReplayFinish replay s) := by
  unfold execReplayFinish
  split
  · exact goesStill_same s
  · split
    · exact (s.still_modReplay replay _).goes
    · exact goesStill_same s

end

/-! ## The obligation -/

/-- Settles O57, row by row. -/
theorem eventsKeepRegistersAndMemory : Obligations.EventsKeepRegistersAndMemory := by
  unfold Obligations.EventsKeepRegistersAndMemory
  intro s core k b w n v tai keeps keepsCells
  have of_cells {i : Instr} (h : ∃ t, exec i s = .next t ∧ SameCells s t) : keepsCells i :=
    h.imp fun _ ⟨e, g⟩ => ⟨e, g.regs, g.mtx, g.mem⟩
  have of_still {i : Instr} (h : GoesStill s (exec i s)) : keeps i :=
    h.imp fun _ ⟨e, g⟩ => ⟨e, g.regs, g.mtx, g.sameMemory⟩
  exact ⟨of_cells (sameCells_execRingAccept s core k), of_cells (sameCells_execBlockStop s b),
    of_still (still_execStaleLineExpire s core k), of_still (still_execCpytRelease s core k), of_still (still_execSrelDequeue s core),
    fun p => of_still (still_execStreamRingPlace s p), of_still (still_execTaskPush s core), of_still (still_execEnqArrive s core),
    fun p => of_still (still_execNamedQueueAssign s p), of_still (still_execTaskSteal s core k), of_still (still_execStealRetry s core),
    of_still (still_execWaitSatisfied s b w), of_still (still_execWatchdog s b w), of_still (still_execBlockExit s b),
    fun p => of_still (still_execPeerTimelineSignal s p), fun t => of_still (still_execPreemptRequest s t),
    of_still (still_execShedPark s b), of_still (still_execShedForced s b), of_still (still_execSwitchWithdraw s b),
    of_still (still_execMigrate s core _), of_still (still_execMigrateRecheck s core), of_still (still_execDroopAlarm s k),
    of_still (still_execDroopHalvingEnd s k), fun i => of_still (still_execBalanceSample s k i), of_still (still_execGatingStart s k),
    of_still (still_execGatingComplete s k), of_still (still_execWakeComplete s k), of_still (still_execThermalLimit s k n),
    fun r => of_still (still_execShelfPoll s r), of_still (still_execClampCheck s n), of_still (still_execClockStep s n),
    of_still (still_execClampRelease s), fun l => of_still (still_execPtpLockChange s l tai), of_still (still_execPpsInEdge s),
    of_still (still_execPpsinExpire s), of_still (still_execPpsOut s), of_still (still_execTimerValid s),
    of_still (still_execGrcmdInvalid s v), of_still (still_execGrcmdUnregister s v), fun a => of_still (still_execEqlostClear s a),
    fun a => of_still (still_execBar0BadAccess s a), of_still (still_execAttest s), fun w => of_still (still_execUpdate s w),
    of_still (still_execWdog s), of_still (still_execDawnstate s), of_still (still_execMboxUnknownCommand s),
    of_still (still_execPeerLinkUp s k), of_still (still_execReplayFinish s k)⟩

end Sys2Proof.Machine
end

section
/-! PROOFS. SPAWN, SPAWND, ENQ, DEQ and DEQ.nb at issue: what each stages for a packet or a buffer that passes its checks (R106, R112,
R265, R373 to R377, R427). -/

namespace Sys2Proof.Machine

@[simp] theorem Act.eff_beside (k l : List Eff) : (Act.eff k).beside l = .eff (k ++ l) := rfl

section
variable {e : Env} {i : Instr} {o : FmtE} {bs : List Byte}

/-! ## Pushes to a deque (R106, R112, R373) -/

section
variable {core : Nat} {va : DWord}

theorem Env.push_reserves (hd : (e.s.die (dieOf core)).inService = true) (hf : e.s.dequeFull core = false) :
    e.push i bs core va = .eff [.dequeResv core, .engine { e.cmd i with packet := bs, target := core } none] := by
  simp [Env.push, hd, hf]

theorem Env.push_lost (hd : (e.s.die (dieOf core)).inService = false) : e.push i bs core va = .eff [.dieLost (dieOf core) va] := by
  simp [Env.push, hd]

end

section
variable (hp : e.packet (e.lead o.s1).toNat = .ok bs)
include hp

theorem Env.spawn_of_packet : e.spawn i o = ([], (e.push i bs e.x.core 0).beside (e.packetBad (e.lead o.s1).toNat)) := by
  simp only [Env.spawn, hp]

theorem Env.spawnd_of_packet {x : Xlat} (hx : (e.bound.address e.x 0 (e.lead64 o.s2).toNat 0 1 1 .load).2 = .ok x) :
    e.spawnd i o =
      ([(e.lead64 o.s2).toNat], (e.push i bs (homeOf e.x.core x) (e.lead64 o.s2)).beside (e.packetBad (e.lead o.s1).toNat)) := by
  simp only [Env.spawnd, hp, hx]

end

/-! ## Pushes to a named queue (R375, R377) -/

theorem Env.enq_of_packet (hp : e.packet (e.lead o.s1).toNat = .ok bs) :
    e.enq i o = ([], (e.enqPush i bs (e.lead o.s2).toNat).beside (e.packetBad (e.lead o.s1).toNat)) := by
  simp only [Env.enq, hp]

section
variable {q : Nat} {n : NamedQueue} (hq : e.s.ownedQueue e.x.ctx q = some n)
include hq

theorem Env.enqPush_reserves (hd : (e.s.die (q / 64)).inService = true) (hc : n.packets.length + n.resv + e.asksAhead q true < n.cap) :
    e.enqPush i bs q = .eff [.queueResv q, .engine { e.cmd i with packet := bs, target := q } none] := by
  simp [Env.enqPush, hq, hd, hc]

theorem Env.enqPush_lost (hd : (e.s.die (q / 64)).inService = false) : e.enqPush i bs q = .eff [.dieLost (q / 64) 0] := by
  simp [Env.enqPush, hq, hd]

end

/-! ## Takes from a named queue (R376, R377) -/

/-- The buffer of a DEQ passes its checks at pa, and its queue n is one of the context's. -/
def Env.Asks (e : Env) (o : FmtE) (n : NamedQueue) (pa : Nat) : Prop :=
  e.rawInSpan 1 64 ((e.lead o.s1).toNat, 0) = false ∧ e.packetPlace (e.lead o.s1).toNat = .ok pa ∧
    e.s.ownedQueue e.x.ctx (e.lead o.s2).toNat = some n

section
variable {n : NamedQueue} {pa : Nat} {got lost : List Eff} {empty : Nat → Act} (ha : e.Asks o n pa)
include ha

/-- Past its checks a take looks at the die of its queue, then for a packet of its own, then at its buffer. -/
theorem Env.take_of_asks : e.take o got empty lost =
    if (e.s.die ((e.lead o.s2).toNat / 64)).inService = false then .eff (.dieLost ((e.lead o.s2).toNat / 64) 0 :: lost)
    else if n.packets.length ≤ e.asksAhead (e.lead o.s2).toNat false then empty (e.lead o.s2).toNat
    else if e.bufferBusy pa then .hold
    else .eff (.dequeue (e.lead o.s2).toNat (e.lead o.s1).toNat :: got) := by
  obtain ⟨hs, hp, hq⟩ := ha
  simp [Env.take, hs, hp, hq]

theorem Env.take_lost (hd : (e.s.die ((e.lead o.s2).toNat / 64)).inService = false) :
    e.take o got empty lost = .eff (.dieLost ((e.lead o.s2).toNat / 64) 0 :: lost) := by
  rw [Env.take_of_asks ha, if_pos hd]

section
variable (hd : (e.s.die ((e.lead o.s2).toNat / 64)).inService = true)
include hd

theorem Env.take_empty (hn : n.packets.length ≤ e.asksAhead (e.lead o.s2).toNat false) :
    e.take o got empty lost = empty (e.lead o.s2).toNat := by
  rw [Env.take_of_asks ha, if_neg (by simp [hd]), if_pos hn]

theorem Env.take_granted (hn : e.asksAhead (e.lead o.s2).toNat false < n.packets.length) (hb : e.bufferBusy pa = false) :
    e.take o got empty lost = .eff (.dequeue (e.lead o.s2).toNat (e.lead o.s1).toNat :: got) := by
  rw [Env.take_of_asks ha, if_neg (by simp [hd]), if_neg (by omega), if_neg (by simp [hb])]

end

end

end

end Sys2Proof.Machine

namespace Sys2Proof.Safety

open Sys2Proof.Machine

/-! ## Staging -/

/-- An X syllable that acts stages its act, and its bundle notes what it has translated. -/
theorem exec_of_xSyl {i : Instr} {h : Hdr} {f : Env → List Nat × Act} {s : State} {e : Env} (hx : exec i s = xSyl h s f)
    (he : s.env = some e) (hh : e.holds h = true) (hq : e.queueFull = false) {vas : List Nat} {a : Act} (hf : f e = (vas, a)) :
    exec i s = .next (s.stageSyl h.e (e.iu.touching vas) 4 a) := by
  rw [hx, xSyl_eq he]
  simp [hh, hq, hf, State.issued_eq]

/-- One that translates nothing. -/
theorem exec_of_xAct {i : Instr} {h : Hdr} {f : Env → Act} {s : State} {e : Env} (hx : exec i s = xAct h s f)
    (he : s.env = some e) (hh : e.holds h = true) (hq : e.queueFull = false) {a : Act} (hf : f e = a) :
    exec i s = .next (s.stageSyl h.e e.iu 4 a) := by
  rw [exec_of_xSyl hx he hh hq (congrArg (Prod.mk []) hf), Issue.touching_nil]

theorem stagesX_of {i : Instr} {h : Hdr} {p : Env → Prop} {f : Env → List Nat × Act} {g : Env → List Eff}
    (hx : ∀ s, exec i s = xSyl h s f) (hfg : ∀ e, p e → f e = ([], .eff (g e))) : StagesX i h p g := by
  intro s e he hh hq hp
  rw [exec_of_xSyl (hx s) he hh hq (hfg e hp), Issue.touching_nil]

theorem stagesX_of_xAct {i : Instr} {h : Hdr} {p : Env → Prop} {f : Env → Act} {g : Env → List Eff}
    (hx : ∀ s, exec i s = xAct h s f) (hfg : ∀ e, p e → f e = .eff (g e)) : StagesX i h p g :=
  stagesX_of hx fun e hp => congrArg (Prod.mk []) (hfg e hp)

/-! ## The obligation -/

/-- Settles O23, command by command. -/
theorem taskCommandResults : Obligations.TaskCommandResults := by
  unfold Obligations.TaskCommandResults
  intro h o bs n x pa q off up down pushed asked granted
  have asks {e : Env} (ha : asked e) : e.Asks o n pa := ha
  refine ⟨stagesX_of (fun _ => rfl) ?spawn, stagesX_of (fun _ => rfl) ?spawnLost, fun s e he hh hf hp hx => ⟨?spawnd, ?spawndLost⟩,
    stagesX_of (fun _ => rfl) ?enq, stagesX_of (fun _ => rfl) ?enqLost, stagesX_of_xAct (fun _ => rfl) ?deq,
    stagesX_of_xAct (fun _ => rfl) ?deqNb, fun s e he hh hf ha hd hn => ⟨?deqEmpty, ?deqNbEmpty⟩,
    stagesX_of_xAct (fun _ => rfl) ?deqLost, fun s e he hh hf ha hd => ?deqNbLost⟩
  case spawn =>
    rintro e ⟨hp, hd, hr⟩
    rw [Env.spawn_of_packet hp, Env.push_reserves hd hr, Act.eff_beside]
  case spawnLost =>
    rintro e ⟨hp, hd⟩
    rw [Env.spawn_of_packet hp, Env.push_lost hd, Act.eff_beside, List.singleton_append]
  case spawnd =>
    intro hd hr
    refine exec_of_xSyl rfl he hh hf ?_
    rw [Env.spawnd_of_packet hp hx, Env.push_reserves hd hr, Act.eff_beside]
  case spawndLost =>
    intro hd
    refine exec_of_xSyl rfl he hh hf ?_
    rw [Env.spawnd_of_packet hp hx, Env.push_lost hd, Act.eff_beside, List.singleton_append]
  case enq =>
    rintro e ⟨⟨hp, hq⟩, hd, hc⟩
    rw [Env.enq_of_packet hp, Env.enqPush_reserves hq hd hc, Act.eff_beside]
  case enqLost =>
    rintro e ⟨⟨hp, hq⟩, hd⟩
    rw [Env.enq_of_packet hp, Env.enqPush_lost hq hd, Act.eff_beside, List.singleton_append]
  case deq => exact fun e ⟨ha, hd, hn, hb⟩ => Env.take_granted (asks ha) hd hn hb
  case deqNb => exact fun e ⟨ha, hd, hn, hb⟩ => Env.take_granted (asks ha) hd hn hb
  case deqEmpty => exact exec_of_xAct rfl he hh hf (Env.take_empty (asks ha) hd hn)
  case deqNbEmpty => exact exec_of_xAct rfl he hh hf (Env.take_empty (asks ha) hd hn)
  case deqLost => exact fun e ⟨ha, hd⟩ => Env.take_lost (asks ha) hd
  case deqNbLost => exact ⟨_, exec_of_xAct rfl he hh hf (Env.take_lost (asks ha) hd)⟩

end Sys2Proof.Safety
end

section
/-! PROOFS. Deques, steals and named queues: what each of their events answers where its guard holds (R106 to R111, R372, R374, R375,
R377, R401). -/

namespace Sys2Proof.Machine

section
variable {s : State} {core : Nat}

/-! ## Pushes that arrive (R106, R375, R377) -/

section
variable {c : EngCmd} {h : Hdr} {o : FmtE} (hc : s.engineHead core = some c)
include hc

/-- SPAWN and SPAWND push alike. -/
theorem exec_taskPush_released (hi : c.instr = .spawn h o ∨ c.instr = .spawnd h o) (hr : s.cmdReleased core c = true) :
    exec (.taskPush core) s = .next (((s.popEngine core).modCore c.target fun q =>
      { q with deque := ⟨c.packet, c.launch, none⟩ :: q.deque, dequeResv := q.dequeResv - 1 }).breakIdle (dieOf c.target)) := by
  change execTaskPush core s = _
  rcases hi with hi | hi <;> simp only [execTaskPush, hc, hi, hr, if_true]

section
variable {n : NamedQueue} (hi : c.instr = .enq h o) (hn : s.queue? c.target = some n)
include hi hn

theorem exec_enqArrive_written (hm : s.queueMissed n = false) :
    exec (.enqArrive core) s =
      .next ((s.popEngine core).setQueue c.target { n with packets := n.packets ++ [c.packet], resv := n.resv - 1 }) := by
  change execEnqArrive core s = _
  simp [execEnqArrive, hc, hi, hn, hm]

/-- In the cycle in which a DEQ.nb has found the queue empty, an ENQ stays in the engine queue. -/
theorem exec_enqArrive_missed (hm : s.queueMissed n = true) : exec (.enqArrive core) s = .next s := by
  change execEnqArrive core s = _
  simp [execEnqArrive, hc, hi, hn, hm]

end

end

/-! ## Gathering (R108, R372, R401) -/

section
variable {p : Packet} {ps : List Packet} {l : Launch} (hh : headRun 128 (s.core core).deque = p :: ps) (hl : s.launch? p.launch = some l)
  (hp : s.placing = true) (hs : s.power.isShed l.pclass = false) (hw : (s.die (dieOf core)).hasPower = true)
  (hd : (s.die (dieOf core)).inService = true)
include hh hl hp hs hw hd

theorem State.runReady_headRun : s.runReady core = some (l, p :: ps) := by
  simp [State.runReady, hh, hl, hp, hs, hw, hd]

section
variable {t : State} {vs : List Variant} (hk : s.taskKernel core l.ctx (tentryOf p.bytes) = (t, .ok vs))
include hk

/-- A ready head run whose kernel is read starts at its place, unless it has none or another is served first. -/
theorem exec_taskGather_ready : exec (.taskGather core) s = (t.taskPlace core p.launch l vs).elim (.next t) fun h =>
    if t.dispatcherFirst core p.launch ∨ t.restoreFirst core l.prio then .next t else .next (t.startTask h l p.launch (p :: ps)) := by
  have run : runOf (p :: ps) = (tentryOf p.bytes, p.launch) := rfl
  change execTaskGather core s = _
  simp only [execTaskGather, State.runReady_headRun hh hl hp hs hw hd, run, hk]
  cases t.taskPlace core p.launch l vs <;> rfl

theorem exec_taskGather_starts {h : Holder} (hf : t.taskPlace core p.launch l vs = some h)
    (hdf : t.dispatcherFirst core p.launch = false) (hrf : t.restoreFirst core l.prio = false) :
    exec (.taskGather core) s = .next (t.startTask h l p.launch (p :: ps)) := by
  simp [exec_taskGather_ready hh hl hp hs hw hd hk, hf, hdf, hrf]

theorem exec_taskGather_waits (hf : t.taskPlace core p.launch l vs = none ∨ t.dispatcherFirst core p.launch = true) :
    exec (.taskGather core) s = .next t := by
  rw [exec_taskGather_ready hh hl hp hs hw hd hk]
  cases place : t.taskPlace core p.launch l vs with
  | none => rfl
  | some h => exact if_pos (.inl (hf.resolve_left (by simp [place])))

end

end

/-! ## Stealing (R110, R111) -/

section
variable (hm : s.mayThieve core = true)
include hm

theorem exec_taskSteal_takes {victim : Nat} (hv : coreExists victim = true) (hne : victim ≠ core) (hc : clusOf victim = clusOf core)
    (ha : (s.core core).stealAt = 0) : exec (.taskSteal core victim) s = .next (s.takeTail core victim) :=
  if_pos ⟨hm, hv, hne, hc, ha⟩

theorem exec_stealRetry_takes (h0 : (s.core core).stealAt ≠ 0) (ha : (s.core core).stealAt ≤ s.cycOf core) (hv : s.victim core ≠ core) :
    exec (.stealRetry core) s = .next (s.takeTail core (s.victim core)) := by
  change execStealRetry core s = _
  rw [execStealRetry, if_pos ⟨hm, h0, ha⟩, if_neg hv]

end

end

/-! ## The obligation -/

/-- Settles O32, event by event. -/
theorem taskEvents : Obligations.TaskEvents := by
  unfold Obligations.TaskEvents
  refine fun s core => ⟨fun c h o hc => ⟨?push, fun n hi hn => ⟨?written, ?missed⟩⟩, ?assign,
    fun p ps l t vs hh hl hp hs hw hd hk => ⟨fun h => ?starts, ?waits⟩, fun victim hm => ?steal, ?retry⟩
  case push => exact exec_taskPush_released hc
  case written => exact exec_enqArrive_written hc hi hn
  case missed => exact exec_enqArrive_missed hc hi hn
  case assign => exact fun _ => rfl
  case starts => exact exec_taskGather_starts hh hl hp hs hw hd hk
  case waits => exact exec_taskGather_waits hh hl hp hs hw hd hk
  case steal => exact exec_taskSteal_takes hm
  case retry => exact exec_stealRetry_takes

end Sys2Proof.Machine
end

section
/-! PROOFS. Pushes held too long, waits, the end of a block, and bundles that cannot be fetched or decoded: what each of their events
answers where its guard holds (R93, R107, R116, R122, R351, R362, R364, R371, R375, R386, R390, R417). -/

namespace Sys2Proof.Machine

section
variable {s : State} {b w : Nat}

/-! ## Pushes held for 1 ms (R107, R375, R386) -/

section
variable {e : Env} {h : Hdr} {o p : FmtE} (hf : s.heldFull b w = true)
include hf

theorem exec_dequeFullTimeout_spawn (hp : s.heldPush b w = some (e, .spawn h o, p)) (hs : (e.spawn (.spawn h o) p).2 = .holdFull) :
    exec (.dequeFullTimeout b w) s = .next (s.pushFails e 1 0) := by
  change execDequeFullTimeout b w s = _
  simp [execDequeFullTimeout, hf, hp, hs]

theorem exec_dequeFullTimeout_spawnd (hp : s.heldPush b w = some (e, .spawnd h o, p)) (hs : (e.spawnd (.spawnd h o) p).2 = .holdFull) :
    exec (.dequeFullTimeout b w) s = .next (s.pushFails e 1 0) := by
  change execDequeFullTimeout b w s = _
  simp [execDequeFullTimeout, hf, hp, hs]

theorem exec_queueFullTimeout_enq (hp : s.heldPush b w = some (e, .enq h o, p))
    (hs : (e.enq (.enq h o) p).2 = .holdQueue (e.lead p.s2).toNat true) :
    exec (.queueFullTimeout b w) s = .next (s.pushFails e 4 (e.lead p.s2).toNat) := by
  change execQueueFullTimeout b w s = _
  simp [execQueueFullTimeout, hf, hp, hs]

end

/-! ## Waits (R351, R364, R371, R386, R390) -/

section
variable {x : Block} {y : Wave} (hx : s.block? b = some x) (hy : s.wave? b w = some y) (hr : x.stop = none)
include hx hy hr

theorem exec_watchdog_late {t : Nat} (hs : y.since = some t) (ht : t + (s.ctx (x.ctxOf y)).wdogMs * 1000000 < s.now) :
    exec (.watchdog b w) s = .next (s.asyncFault b w 0x20 0 0 (mkDet ((y.wait.map Wait.kind).getD 0) none 0) 0) := by
  change execWatchdog b w s = _
  simp only [execWatchdog, hx, hy, hs]
  exact if_pos ⟨ht, by rw [hr]; rfl⟩

section
variable {z : Wait} (hz : y.wait = some z) (ht : s.fw.training = none)
include hz ht

theorem exec_waitSatisfied_lost (hl : s.waitLost z = true) :
    exec (.waitSatisfied b w) s = .next (s.asyncFault b w 0x23 0 0 (s.dieDet 1) 0) := by
  change execWaitSatisfied b w s = _
  simp [execWaitSatisfied, hx, hy, hz, hr, ht, hl]

theorem exec_waitSatisfied_holds (hl : s.waitLost z = false) (hc : s.waitHolds (x.seenBy y) z = true) :
    exec (.waitSatisfied b w) s = .next ((s.setWave b w y.endWait).acquire x.core z.scope) := by
  change execWaitSatisfied b w s = _
  simp [execWaitSatisfied, hx, hy, hz, hr, ht, hl, hc]

end

/-- A GRIDWAIT is no wait for a timeline, and a broken one does not hold. -/
theorem exec_waitSatisfied_broken {n : Nat} (hz : y.wait = some .gridwait) (ht : s.fw.training = none)
    (hg : s.gridState x.launch = .broken n) :
    exec (.waitSatisfied b w) s = .next ((s.setWave b w y.endWait).asyncFault b w 0x26 0 0 (mkDet 0 none n) 0) := by
  have lost : s.waitLost .gridwait = false := rfl
  have held : s.waitHolds (x.seenBy y) .gridwait = false := decide_eq_false (p := s.gridState x.launch = .passed) (by simp [hg])
  change execWaitSatisfied b w s = _
  simp [execWaitSatisfied, hx, hy, hz, hr, ht, lost, held, hg]

end

/-! ## The end of a block (R93, R417) -/

section
variable {x : Block} (hx : s.block? b = some x)
include hx

theorem exec_blockExit_retired (hm : s.mayExit b x = true) :
    exec (.blockExit b) s = .next ((s.setBlock b { x with exited := true, switch := none }).enterExit x) := by
  change execBlockExit b s = _
  simp [execBlockExit, hx, hm]

theorem exec_blockRelease_done (he : x.exited = true) (hr : x.stop = none) (ho : s.engineOpen b x = false)
    (hb : s.rangeBusy b x = false) : exec (.blockRelease b) s = .next (s.dropBlock b) := by
  change execBlockRelease b s = _
  simp [execBlockRelease, hx, he, hr, ho, hb]

end

/-! ## Fetch and decode (R116, R122) -/

section
variable {iu : Issue} (hc : s.cur = some iu)
include hc

theorem exec_fetchFault_inHand (addr : BitVec 64) (sub : BitVec 6) :
    exec (.fetchFault addr sub) s = .next (s.decodeStop iu.block iu.wave 0x08 0 addr sub.toNat 0) := by
  change execFetchFault addr sub s = _
  simp only [execFetchFault, hc]

theorem exec_illegalOpcode_inHand (mask : BitVec 5) (detail : BitVec 32) :
    exec (.illegalOpcode mask detail) s = .next (s.decodeStop iu.block iu.wave 0x01 mask 0 0 detail.toNat) := by
  change execIllegalOpcode mask detail s = _
  simp only [execIllegalOpcode, hc]

end

end

/-! ## The obligation -/

/-- Settles O33, event by event. -/
theorem waitExitAndDecodeEvents : Obligations.WaitExitAndDecodeEvents := by
  unfold Obligations.WaitExitAndDecodeEvents
  refine ⟨fun s b w => ⟨fun e h o p hf => ⟨?deque, ?queue⟩, ?watchdog⟩,
    fun s b w x hx => ⟨fun y z hy hz hr ht => ⟨?lost, ?holds, ?broken⟩, ?exit, ?release, fun _ => rfl⟩,
    fun s iu hc => ⟨?fetch, ?opcode⟩⟩
  case deque =>
    rintro (⟨hp, hs⟩ | ⟨hp, hs⟩)
    · exact exec_dequeFullTimeout_spawn hf hp hs
    · exact exec_dequeFullTimeout_spawnd hf hp hs
  case queue =>
    intro hp hs
    rw [exec_queueFullTimeout_enq hf hp hs, State.pushFails, toWord, BitVec.ofNat_toNat, BitVec.setWidth_eq]
    rfl
  case watchdog => exact fun x y t hx hy hs hr => exec_watchdog_late hx hy hr hs
  case lost => exact exec_waitSatisfied_lost hx hy hr hz ht
  case holds => exact exec_waitSatisfied_holds hx hy hr hz ht
  case broken =>
    rintro n rfl hg
    exact exec_waitSatisfied_broken hx hy hr hz ht hg
  case exit => exact exec_blockExit_retired hx
  case release => exact exec_blockRelease_done hx
  case fetch => exact exec_fetchFault_inHand hc
  case opcode => exact exec_illegalOpcode_inHand hc

end Sys2Proof.Machine
end

section
/-! PROOFS. The end of a bundle that is held, and what holds or fails a command of class X at issue (R140, R162 to R164, R300). -/

namespace Sys2Proof.Machine

/-! ## What the end of a bundle comes to (R164, R165, R381) -/

section
variable {s : State} {e : Env} (he : s.env = some e)
include he

/-- A bundle that is held, or whose commit would overflow a counter, only notes that (R163, R164). -/
theorem State.finish_held (hh : e.iu.held = true ∨ countersFull e.y e.iu.effs = true) : s.finish = s.holdIssue e.iu := by
  have hb : (e.iu.held || countersFull e.y e.iu.effs) = true := by simpa using hh
  simp only [State.finish, he, hb, if_true]

section
variable (hh : e.iu.held = false) (hc : countersFull e.y e.iu.effs = false)
include hh hc

/-- A bundle that is not held fails with its deciding failure (R381). -/
theorem State.finish_raised {r : Raise} {m : BitVec 5} (hr : decideRaise e.iu.raised = some (r, m)) :
    s.finish = (s.bindTouched e).raiseIssue e.iu r m := by
  simp [State.finish, he, hh, hc, hr]

/-- A bundle that is not held and has not failed commits (R165). -/
theorem State.finish_commits (hr : decideRaise e.iu.raised = none) : s.finish = (s.bindTouched e).commit e.iu := by
  simp [State.finish, he, hh, hc, hr]

end

end

/-! ## A wave changed beside its registers -/

section
variable (s : State) (b w : Nat) (f : Wave → Wave)

/-- A change of a wave keeps what no change of one of its waves shows of a block. -/
theorem State.map_block?_modWave {α : Type} (g : Block → α) (hg : ∀ x y, g (x.setWave w y) = g x) (a : Nat) :
    ((s.modWave b w f).block? a).map g = (s.block? a).map g := by
  unfold State.modWave
  split
  · unfold State.setWave
    rw [State.block?_modBlock]
    split
    · next h => subst h; simp [Function.comp_def, hg]
    · rfl
  · rfl

/-- A change of a wave that leaves its stop registers leaves those of every wave. -/
theorem State.stopRegs?_modWave
    (hf : ∀ y, ((f y).cause, (f y).fmask, (f y).faddr, (f y).fdet) = (y.cause, y.fmask, y.faddr, y.fdet)) (a v : Nat) :
    (s.modWave b w f).stopRegs? a v = s.stopRegs? a v := by
  unfold State.stopRegs?
  rw [State.wave?_modWave]
  split
  · next h => obtain ⟨rfl, rfl⟩ := h; simp only [Option.map_map, Function.comp_def, hf]
  · rfl

end

/-! ## Commands of class X at issue (R140, R300) -/

/-- Every command of class X is one meaning under the wrapper of its class. -/
theorem exec_engineCommands (h : Hdr) (o : FmtE) : ∀ c ∈ Safety.engineCommands, ∃ f, ∀ s, exec (c h o) s = xSyl h s f := by
  simp only [Safety.engineCommands, Safety.matrixCommands, List.cons_append, List.nil_append, List.forall_mem_cons, List.not_mem_nil,
    false_implies, implies_true, and_true]
  and_intros
  all_goals exact ⟨_, fun _ => rfl⟩

/-- Every matrix command is one meaning under the wrapper of its kind. -/
theorem exec_matrixCommands (h : Hdr) (o : FmtE) : ∀ c ∈ Safety.matrixCommands, ∃ n f, ∀ s, exec (c h o) s = mtxSyl n h s f := by
  simp only [Safety.matrixCommands, List.forall_mem_cons, List.not_mem_nil, false_implies, implies_true, and_true]
  and_intros
  all_goals exact ⟨_, _, fun _ => rfl⟩

section
variable {s : State} {e : Env} (he : s.env = some e) {h : Hdr} (hh : e.holds h = true)
include he hh

theorem xSyl_held (hq : e.queueFull = true) (f : Env → List Nat × Act) : xSyl h s f = .next (s.stageSyl h.e e.iu 4 .hold) := by
  rw [xSyl_eq he]
  simp [hh, hq, State.issued_eq]

theorem mtxSyl_notConverged (hq : e.queueFull = false) (hl : e.iu.lanes ≠ e.y.living) (n : Nat)
    (f : Env → Matrix → List Nat × Act) : mtxSyl n h s f = .next (s.stageSyl h.e e.iu 4 e.notConverged) := by
  rw [mtxSyl, xSyl_eq he]
  simp [hh, hq, hl, Env.converged, State.issued_eq]

end

/-! ## The obligation -/

/-- Settles O49: a held bundle only notes its hold, and a command of class X looks at the engine queue before anything else. -/
theorem heldBundlesHaveNoEffect : Obligations.HeldBundlesHaveNoEffect := by
  unfold Obligations.HeldBundlesHaveNoEffect
  refine ⟨fun s e he held => ?_, fun h o => ⟨fun c hc => ?_, fun c hc s e he hh hq hl => ?_⟩⟩
  · rw [State.finish_held he held]
    exact ⟨State.quiet_modWave _ _ _ _ fun _ => rfl, State.modWave_cores _ _ _ _, State.modWave_launches _ _ _ _, State.modWave_timelines _ _ _ _,
      State.modWave_agenda _ _ _ _, State.stopRegs?_modWave _ _ _ _ fun _ => rfl,
      State.map_block?_modWave _ _ _ _ Block.stop fun _ _ => rfl⟩
  · obtain ⟨f, hf⟩ := exec_engineCommands h o c hc
    exact ⟨Safety.skipsX_of hf, fun s e he hh hq => (hf s).trans (xSyl_held he hh hq f)⟩
  · obtain ⟨n, f, hf⟩ := exec_matrixCommands h o c hc
    exact (hf s).trans (mtxSyl_notConverged he hh hq hl n f)

end Sys2Proof.Machine
end

section
/-! PROOFS. The end of a bundle that fails: which failure decides, and what the stop of its wave leaves (R165, R240, R379 to R384). -/

namespace Sys2Proof.Machine

/-! ## The deciding failure (R381) -/

/-- What a search through 0 to n - 1 finds, it finds at the first place that has anything. -/
theorem findSome?_range_first {α : Type} {n : Nat} {f : Nat → Option α} {r : α} (h : (List.range n).findSome? f = some r) :
    ∃ k, f k = some r ∧ ∀ j < k, f j = none := by
  obtain ⟨before, k, after, hl, hk, hb⟩ := List.findSome?_eq_some_iff.1 h
  rw [List.range_eq_range'] at hl
  obtain ⟨j, -, rfl, hj⟩ := List.range'_eq_append_iff.1 hl
  obtain ⟨rfl, -⟩ := List.range'_eq_cons_iff.1 hj.symm
  exact ⟨_, hk, fun i hi => hb i (by simpa using hi)⟩

theorem getLsbD_one_shiftLeft (j : Nat) {k : Nat} (hk : k < 5) : (1#5 <<< j).getLsbD k = true ↔ k = j := by
  simp only [BitVec.getLsbD_shiftLeft, BitVec.getLsbD_one, hk, Bool.and_eq_true, Bool.not_eq_true', decide_eq_true_eq, decide_eq_false_iff_not,
    true_and]
  omega

/-- The mask of a list of slots has the bit of a slot where the list names it. -/
theorem getLsbD_slotMask (l : List Nat) {k : Nat} (hk : k < 5) : (slotMask l).getLsbD k = true ↔ k ∈ l := by
  have key (m : BitVec 5) :
      (l.foldl (fun m j => m ||| 1#5 <<< j) m).getLsbD k = true ↔ m.getLsbD k = true ∨ k ∈ l := by
    induction l generalizing m with
    | nil => simp
    | cons j l ih => rw [List.foldl_cons, ih, BitVec.getLsbD_or, Bool.or_eq_true, getLsbD_one_shiftLeft j hk, List.mem_cons, or_assoc]
  exact (key 0).trans (by simp)

theorem stageOf_le {rs : List Raise} {q : Raise} (hq : q ∈ rs) : stageOf rs ≤ q.stage := by
  unfold stageOf
  split
  · exact Nat.zero_le _
  · next h => exact Nat.one_le_iff_ne_zero.2 fun h0 => h (List.any_eq_true.2 ⟨q, hq, by simpa using h0⟩)

theorem exists_stage_eq_stageOf {rs : List Raise} (hne : rs ≠ []) (hs : ∀ r ∈ rs, r.stage ≤ 1) : ∃ q ∈ rs, q.stage = stageOf rs := by
  unfold stageOf
  split
  · next h => simpa using h
  · next h =>
    obtain ⟨q, hq⟩ := List.exists_mem_of_ne_nil rs hne
    have nonzero : q.stage ≠ 0 := fun h0 => h (List.any_eq_true.2 ⟨q, hq, by simpa using h0⟩)
    exact ⟨q, hq, Nat.le_antisymm (hs q hq) (Nat.one_le_iff_ne_zero.2 nonzero)⟩

/-- Where something failed, that of the first stage, and within it of the first slot, decides; the mask names every slot that fails at
that stage. -/
theorem decideRaise_of_ne_nil {rs : List Raise} (hne : rs ≠ []) (hs : ∀ r ∈ rs, r.stage ≤ 1 ∧ r.slot < 5) :
    ∃ r m, decideRaise rs = some (r, m) ∧ r ∈ rs ∧ (∀ q ∈ rs, r.stage ≤ q.stage ∧ (q.stage = r.stage → r.slot ≤ q.slot)) ∧
      ∀ k < 5, m.getLsbD k = true ↔ ∃ q ∈ rs, q.stage = r.stage ∧ q.slot = k := by
  obtain ⟨q, hq, stage⟩ := exists_stage_eq_stageOf hne fun r hr => (hs r hr).1
  have found : ((List.range 5).findSome? fun k =>
      (rs.filter fun r => r.stage = stageOf rs).find? fun r => r.slot = k).isSome := by
    refine List.findSome?_isSome_iff.2 ⟨q.slot, List.mem_range.2 (hs q hq).2, List.find?_isSome.2 ⟨q, ?_, by simp⟩⟩
    simpa using ⟨hq, stage⟩
  obtain ⟨r, hr⟩ := Option.isSome_iff_exists.1 found
  obtain ⟨k, hk, first⟩ := findSome?_range_first hr
  have slot : r.slot = k := by simpa using List.find?_some hk
  have mem : r ∈ rs ∧ r.stage = stageOf rs := by simpa using List.mem_of_find?_eq_some hk
  refine ⟨r, _, by simp only [decideRaise, hr, Option.map_some]; rfl, mem.1, fun p hp => ⟨mem.2 ▸ stageOf_le hp, fun same => ?_⟩,
    fun j hj => ?_⟩
  · refine Nat.le_of_not_lt fun lower => ?_
    have none := first p.slot (slot ▸ lower)
    simp only [List.find?_eq_none, List.mem_filter, decide_eq_true_eq] at none
    exact none p ⟨hp, same.trans mem.2⟩ rfl
  · simp [getLsbD_slotMask _ hj, mem.2, and_assoc]

/-! ## The stop of a block that runs (R379 to R384) -/

theorem Block.withdraw_stop (x : Block) : x.withdraw.stop = x.stop := by
  unfold Block.withdraw
  split <;> rfl

/-- A block that runs stops with the cause and its records, and its waves show no cause yet. -/
theorem Block.addStop_running {x : Block} (hn : x.stop = none) (c : Nat) (l : List FaultRec) :
    x.addStop c l = { x.withdraw with stop := some ⟨c, l, none, 0⟩, waves := Table.map (fun _ y => y.clearStop) x.waves } := by
  simp only [Block.addStop, x.withdraw_stop, hn, x.withdraw_waves.1]

section
variable {s : State} {b w : Nat} {x : Block} {y : Wave} (hx : s.block? b = some x) (hy : x.waves.find? w = some y)
include hx hy

theorem State.block?_modWave (f : Wave → Wave) : (s.modWave b w f).block? b = some (x.setWave w (f y)) := by
  simp [State.modWave, State.wave?_of_block s hx, hy, State.setWave, State.block?_modBlock, hx]

/-- The block after a wave of it has taken an exception while it ran. -/
theorem State.block?_stopWave (hn : x.stop = none) (c : Nat) (fl : BitVec 4) (m : Word) (a d : DWord) (n : Nat) :
    (s.stopWave b w c fl m a d n).block? b =
      some ((x.addStop c [s.recordB (x.seenBy y) c fl (m.extractLsb' 0 5) a d w n]).setWave w (y.clearStop.setStop c m a d)) := by
  have stopped := State.block?_modWave (s := s.stopBlock b c [s.recordB (x.seenBy y) c fl (m.extractLsb' 0 5) a d w n]) (b := b) (w := w)
    (x := x.addStop c [s.recordB (x.seenBy y) c fl (m.extractLsb' 0 5) a d w n]) (y := y.clearStop)
    (by simp [State.stopBlock, State.block?_modBlock, hx])
    (by simp [Block.addStop_running hn, Table.find?_map, hy]) (fun z => z.setStop c m a d)
  simp only [State.stopWave, hx, hy, Option.elim_some]
  split
  · exact stopped
  · exact stopped

/-- A wave of a stopped block begins no bundle (R159). -/
theorem State.tryWave_of_stopped {st : Stop} (hs : x.stop = some st) (hn : y.split = none) : s.tryWave b w false = none := by
  have turn : s.turnOfWave b w false = none := by
    simp only [State.turnOfWave, hx, hy, hn]
    cases y.subsets with
    | nil => rfl
    | cons p ps => simp [hs]
  simp [State.tryWave, turn]

end

/-- A record names the launch and the time of its state, and no other part of it. -/
theorem State.recordB_congr {s t : State} (hl : t.launches = s.launches) (ht : t.time = s.time) (x : Block) (c : Nat) (fl : BitVec 4)
    (m : BitVec 5) (a d : DWord) (w n : Nat) : t.recordB x c fl m a d w n = s.recordB x c fl m a d w n := by
  simp only [State.recordB, State.tagOf, State.launch?, State.now, hl, ht]

theorem extractLsb'_setWidth_mask (m : BitVec 5) : (m.setWidth 32).extractLsb' 0 5 = m := by
  apply BitVec.eq_of_toNat_eq
  have := m.isLt
  simp
  omega

/-! ## The end of a failed bundle -/

/-- A quiet step takes no frame from a pool. -/
theorem Quiet.pools {s t : State} (h : Quiet s t) (d : Nat) : (t.die d).pools = (s.die d).pools := by
  simpa [Die.settled] using congrArg Die.pools (h.dies d)

/-- Beside the stop itself, the end of a failed bundle is quiet. -/
theorem State.quiet_raiseIssue (s : State) (iu : Issue) (r : Raise) (m : BitVec 5) : Quiet { s with cur := none } (s.raiseIssue iu r m) :=
  (State.quiet_stopWave _ _ _ _ _ _ _ _ _).trans (State.quiet_modWave _ _ _ _ fun _ => rfl)

/-- The wave after its bundle has failed: it shows the deciding failure, at the bundle's address. -/
def Wave.failed (y : Wave) (iu : Issue) (r : Raise) (m : BitVec 5) : Wave :=
  { y.clearStop.setStop r.cause (m.setWidth 32) r.addr r.det with stopAt := iu.here, since := none, full := none, ask := none, split := none }

section
variable {s : State} {iu : Issue} {x : Block} {y : Wave} (hx : s.block? iu.block = some x) (hy : x.waves.find? iu.wave = some y)
  (hn : x.stop = none) (r : Raise) (m : BitVec 5)
include hx hy hn

/-- The block after a bundle of a wave of it has failed while it ran. -/
theorem State.block?_raiseIssue : (s.raiseIssue iu r m).block? iu.block =
    some (((x.addStop r.cause [s.recordB (x.seenBy y) r.cause 0 m r.addr r.det iu.wave 0]).setWave iu.wave
      (y.clearStop.setStop r.cause (m.setWidth 32) r.addr r.det)).setWave iu.wave (y.failed iu r m)) := by
  have stopped := State.block?_stopWave (s := { s with cur := none }) hx hy hn r.cause 0 (m.setWidth 32) r.addr r.det 0
  rw [extractLsb'_setWidth_mask] at stopped
  exact State.block?_modWave stopped (Block.find?_setWave _ _ _) _

theorem State.stopRegs?_raiseIssue :
    (s.raiseIssue iu r m).stopRegs? iu.block iu.wave = some (toWord r.cause, m.setWidth 32, r.addr, r.det) := by
  rw [State.stopRegs?, State.wave?_of_block _ (State.block?_raiseIssue hx hy hn r m), Block.find?_setWave]
  rfl

theorem State.stopRegs?_raiseIssue_other {v : Nat} {z : Wave} (hv : v ≠ iu.wave) (hz : x.waves.find? v = some z) :
    (s.raiseIssue iu r m).stopRegs? iu.block v = some (0, 0, 0, 0) := by
  rw [State.stopRegs?, State.wave?_of_block _ (State.block?_raiseIssue hx hy hn r m)]
  simp only [Block.setWave, Table.find?_put_ne _ _ hv, Block.addStop_running hn, Table.find?_map, hz]
  rfl

theorem State.stop_raiseIssue : ∃ x', (s.raiseIssue iu r m).block? iu.block = some x' ∧
    x'.stop = some ⟨r.cause, [s.recordB (x.seenBy y) r.cause 0 m r.addr r.det iu.wave 0], none, 0⟩ :=
  ⟨_, State.block?_raiseIssue hx hy hn r m, by simp only [Block.setWave, Block.addStop_running hn]⟩

theorem State.tryWave_raiseIssue : (s.raiseIssue iu r m).tryWave iu.block iu.wave false = none :=
  State.tryWave_of_stopped (State.block?_raiseIssue hx hy hn r m) (Block.find?_setWave _ _ _)
    (by simp only [Block.setWave, Block.addStop_running hn]; rfl) rfl

end

/-! ## The obligation -/

/-- Settles O50: the walks bind pages first, which leaves every block as it was; then the wave stops, which is quiet. -/
theorem failedBundlesStop : Obligations.FailedBundlesStop := by
  unfold Obligations.FailedBundlesStop
  intro s e he hh hc hne hs hn
  obtain ⟨r, m, decided, hr, first, mask⟩ := decideRaise_of_ne_nil hne hs
  obtain ⟨-, -, ⟨x, hx, hex⟩, hy⟩ := State.env_some he
  have binds := State.binds_bindTouched s e
  have hbx : (s.bindTouched e).block? e.iu.block = some x := by rw [State.block?, binds.blocks]; exact hx
  have quiet := (s.bindTouched e).quiet_raiseIssue e.iu r m
  have record := State.recordB_congr binds.launches binds.time (x.seenBy e.y) r.cause 0 m r.addr r.det e.iu.wave 0
  rw [hex] at hn hy
  rw [State.finish_raised he hh hc decided]
  refine ⟨r, hr, first, m, mask, State.stopRegs?_raiseIssue hbx hy hn r m, fun w z hw hz => ?others,
    ⟨x, ?block⟩, State.tryWave_raiseIssue hbx hy hn r m, ?regs, ?mtx, quiet.cur, fun hp => ?mem, fun ht => ?quiet⟩
  case others => exact State.stopRegs?_raiseIssue_other hbx hy hn r m hw (by rwa [hex] at hz)
  case block =>
    obtain ⟨x', hx', stop⟩ := State.stop_raiseIssue hbx hy hn r m
    exact ⟨x', hx, hx', record ▸ stop⟩
  case regs => exact fun b w => (quiet.regs b w).trans (binds.regs b w)
  case mtx => exact fun b => (quiet.mtx b).trans (binds.mtx b)
  case mem =>
    exact quiet.mem.trans (binds.same fun d => (quiet.pools d).symm.trans (hp d)).1
  case quiet => rwa [State.bindTouched_nil s e ht] at quiet ⊢

end Sys2Proof.Machine
end

section
/-! PROOFS. The end of a bundle and memory: no effect but a DEQ writes a byte, and the walks write where a first touch takes a frame
(R165, R240, R376). -/

namespace Sys2Proof.Machine

/-! ## Steps that leave memory and the pools of first touch -/

/-- Every cell of memory has its value, every byte is specified or not as it was, and no frame has left a pool. -/
structure SameStorage (s t : State) : Prop where
  mem : t.mem = s.mem
  unspec : t.unspec = s.unspec
  steps : t.steps = s.steps
  pools : ∀ d, (t.die d).pools = (s.die d).pools

theorem SameStorage.refl (s : State) : SameStorage s s := ⟨rfl, rfl, rfl, fun _ => rfl⟩

theorem SameStorage.trans {s t u : State} (h : SameStorage s t) (g : SameStorage t u) : SameStorage s u :=
  ⟨g.mem.trans h.mem, g.unspec.trans h.unspec, g.steps.trans h.steps, fun d => (g.pools d).trans (h.pools d)⟩

/-- A step that writes other fields of the state than memory, its unspecified ranges, the count of steps and the dies. -/
theorem SameStorage.elsewhere {s t : State} (h : (t.mem, t.unspec, t.steps, t.dies) = (s.mem, s.unspec, s.steps, s.dies)) :
    SameStorage s t := by
  obtain ⟨hm, hu, hn, hd⟩ : t.mem = s.mem ∧ t.unspec = s.unspec ∧ t.steps = s.steps ∧ t.dies = s.dies := by simpa using h
  exact ⟨hm, hu, hn, fun d => by simp only [State.die, hd]⟩

theorem SameStorage.foldl {α : Type} {f : State → α → State} {l : List α} (hf : ∀ s, ∀ a ∈ l, SameStorage s (f s a)) (s : State) :
    SameStorage s (l.foldl f s) :=
  List.foldlRecOn (motive := SameStorage s) l f (.refl s) fun t h a ha => h.trans (hf t a ha)

theorem Quiet.sameStorage {s t : State} (h : Quiet s t) : SameStorage s t :=
  ⟨h.mem, h.unspec, h.steps, h.pools⟩

theorem SameStorage.sameMemory {s t : State} (h : SameStorage s t) : Safety.SameMemory s t := State.byte_congr h.mem h.unspec h.steps

section
variable {s t : State} (h : SameStorage s t)
include h

theorem SameStorage.modBlock {b : Nat} {f : Block → Block} : SameStorage s (t.modBlock b f) := h.trans (.elsewhere (by simp))
theorem SameStorage.modWave {b w : Nat} {f : Wave → Wave} : SameStorage s (t.modWave b w f) := h.trans (.elsewhere (by simp))
theorem SameStorage.modCore {n : Nat} {f : CoreSt → CoreSt} : SameStorage s (t.modCore n f) := h.trans (.elsewhere (by simp))
theorem SameStorage.modLaunch {n : Nat} {f : Launch → Launch} : SameStorage s (t.modLaunch n f) := h.trans (.elsewhere (by simp))

/-- A change of a die that leaves its pools. -/
theorem SameStorage.modDie {n : Nat} {f : Die → Die} (hf : ∀ d, (f d).pools = d.pools) : SameStorage s (t.modDie n f) := by
  refine h.trans ⟨rfl, rfl, rfl, fun d => ?_⟩
  by_cases hd : d = n
  · rw [hd, State.die_modDie, hf]
  · rw [State.die_modDie_ne _ _ hd]

end

/-! ## One effect (R165) -/

section
variable (s : State)

theorem State.sameStorage_errorFound (d : BadData) : SameStorage s (s.errorFound d) := .elsewhere (by simp)

theorem State.sameStorage_report (r : FaultRec) : SameStorage s (s.report r) := (SameStorage.refl s).modDie fun _ => rfl

theorem State.sameStorage_setQueue (q : Nat) (x : NamedQueue) : SameStorage s (s.setQueue q x) := (SameStorage.refl s).modDie fun _ => rfl

theorem State.sameStorage_writeSr (b w core ctx sr : Nat) (v : DWord) : SameStorage s (s.writeSr b w core ctx sr v) :=
  .elsewhere (by simp [State.writeSr, apply_ite State.mem, apply_ite State.unspec, apply_ite State.steps, apply_ite State.dies])

theorem State.sameStorage_markStale (core b : Nat) (ks : List StoreKind) : SameStorage s (s.markStale core b ks) := by
  unfold State.markStale
  dsimp only
  split
  · exact .refl s
  · exact .elsewhere (by rfl)

theorem State.sameStorage_fillLines (core : Nat) (lines : List Nat) (stream : Bool) : SameStorage s (s.fillLines core lines stream) := by
  refine .foldl (fun t pa _ => ?_) s
  dsimp only
  split
  · exact .refl t
  · exact (SameStorage.refl t).modCore

theorem State.sameStorage_enterEngine (b w : Nat) (c : EngCmd) (ctr : Option Ctr) : SameStorage s (s.enterEngine b w c ctr) := by
  unfold State.enterEngine
  dsimp only
  split
  · next x y _ _ =>
    refine SameStorage.modCore ?_
    have counted : SameStorage s (match ctr with
        | some t => s.setWave b w (y.countOp t 1)
        | none => s.setWave b w { y with nextSid := y.nextSid + 1 }) := by
      split <;> exact .elsewhere (by simp)
    split
    · exact counted.modBlock
    · exact counted
  · exact .refl s

theorem State.sameStorage_acceptRequest (r : Request) : SameStorage s (s.acceptRequest r) := by
  unfold State.acceptRequest State.firmwareAbort
  dsimp only
  split
  · split <;> exact s.sameStorage_report _
  · exact .elsewhere (by rfl)

/-- No effect but that of a DEQ writes memory, and none takes a frame. -/
theorem State.sameStorage_applyEff (iu : Issue) {f : Eff} (hf : ∀ q off, f ≠ .dequeue q off) : SameStorage s (s.applyEff iu f) := by
  unfold State.applyEff
  dsimp only
  split
  · exact .refl s
  next x _ =>
  have same := SameStorage.refl s
  cases f with
  | dequeue q off => exact absurd rfl (hf q off)
  | setS | setV | setP | setC | setPc | kill | setRng | setLoop | setRot | cwb | qpop | trndDraw | wait | signal | fence | trigger =>
    exact same.modWave
  | setSr sr v => exact s.sameStorage_writeSr _ _ _ _ _ _
  | load ws src bad acq =>
    have read : SameStorage s (bad.foldl State.errorFound s) := .foldl (fun t d _ => t.sameStorage_errorFound d) s
    cases acq with
    | none => exact read.modWave
    | some sc => exact read.modWave.trans (State.quiet_acquire _ _ _).sameStorage
  | store ks => exact (s.sameStorage_markStale _ _ _).modWave
  | cinv => exact same.modCore.modWave
  | drop => exact same.modCore
  | pref => exact s.sameStorage_fillLines _ _ _
  | tscl =>
    dsimp only
    split
    · exact same.modWave.modBlock
    · exact same
  | engine c ctr => exact s.sameStorage_enterEngine _ _ _ _
  | ttwg | barx | passed => exact same.modBlock
  | barv | barArrive => exact same.modBlock.modWave
  | cbarArrive => exact same.modLaunch.modWave
  | acquire => exact (s.quiet_acquire _ _).sameStorage
  | trap => exact (s.quiet_stopWave _ _ _ _ _ _ _ _).sameStorage
  | saturated | dieLost => exact (s.quiet_asyncFault _ _ _ _ _ _ _).sameStorage
  | queueResv | missed =>
    dsimp only
    split
    · exact s.sameStorage_setQueue _ _
    · exact same
  | dequeResv => exact same.modCore.modLaunch
  | badRead d => exact (s.sameStorage_errorFound d).trans (State.quiet_badFault _ _ _ _).sameStorage
  | ringReset => exact same.modCore
  | rfx => exact s.sameStorage_acceptRequest _
  | xinv => exact .elsewhere (by rfl)

/-- A commit without a DEQ. -/
theorem State.sameStorage_commit {iu : Issue} (hd : ∀ q off, Eff.dequeue q off ∉ iu.effs) : SameStorage s (s.commit iu) := by
  have moved : SameStorage s ({ s with cur := none }.modWave iu.block iu.wave iu.moved) :=
    SameStorage.modWave (t := { s with cur := none }) (.elsewhere (by rfl))
  have effects := SameStorage.foldl (fun t f hf => t.sameStorage_applyEff iu fun q off h => hd q off (h ▸ hf))
    ({ s with cur := none }.modWave iu.block iu.wave iu.moved)
  exact (moved.trans effects).trans (s.commit_quiet iu).sameStorage

theorem State.sameStorage_holdIssue (iu : Issue) : SameStorage s (s.holdIssue iu) :=
  SameStorage.modWave (t := { s with cur := none }) (.elsewhere (by rfl))

theorem State.sameStorage_raiseIssue (iu : Issue) (r : Raise) (m : BitVec 5) : SameStorage s (s.raiseIssue iu r m) :=
  .trans (t := { s with cur := none }) (.elsewhere (by rfl)) (s.quiet_raiseIssue iu r m).sameStorage

end

/-- Without a DEQ the end of a bundle leaves memory as the walks of its addresses leave it, where it makes them. -/
theorem State.sameStorage_finish {s : State} {e : Env} (he : s.env = some e) (hd : ∀ q off, Eff.dequeue q off ∉ e.iu.effs) :
    SameStorage s s.finish ∨ SameStorage (s.bindTouched e) s.finish := by
  by_cases hh : e.iu.held = true ∨ countersFull e.y e.iu.effs = true
  · rw [State.finish_held he hh]
    exact .inl (s.sameStorage_holdIssue _)
  · obtain ⟨held, full⟩ : e.iu.held = false ∧ countersFull e.y e.iu.effs = false := by simpa using hh
    cases hr : decideRaise e.iu.raised with
    | none =>
      rw [State.finish_commits he held full hr]
      exact .inr (State.sameStorage_commit _ hd)
    | some p =>
      rw [State.finish_raised he held full hr]
      exact .inr (State.sameStorage_raiseIssue _ _ _ _)

/-- Walks that take no frame leave every byte. -/
theorem Binds.sameMemory {s t : State} (h : Binds s t) (hp : ∀ d, (t.die d).pools = (s.die d).pools) : Safety.SameMemory s t := by
  obtain ⟨mem, unspec, -⟩ := h.same hp
  exact State.byte_congr mem unspec h.steps

/-! ## DEQ (R376) -/

theorem State.markStale_blocks (s : State) (core b : Nat) (ks : List StoreKind) : (s.markStale core b ks).blocks = s.blocks := by
  unfold State.markStale
  dsimp only
  split <;> rfl

theorem State.markStale_dies (s : State) (core b : Nat) (ks : List StoreKind) : (s.markStale core b ks).dies = s.dies := by
  unfold State.markStale
  dsimp only
  split <;> rfl

theorem State.queue?_setQueue (s : State) (q : Nat) (n : NamedQueue) : (s.setQueue q n).queue? q = some n := by
  simp [State.queue?, State.setQueue]

/-- The queue after its packet has left it, and the tile loads that the packet meets. -/
def State.dequeued (s : State) (core b q pa : Nat) (n : NamedQueue) (p : List Byte) (ps : List (List Byte)) : State :=
  (s.setQueue q { n with packets := ps }).markStale core b [.bytes 1 1 pa p]

section
variable (s : State) (core b q pa : Nat) (n : NamedQueue) (p : List Byte) (ps : List (List Byte))

theorem State.byte_dequeued (a : Nat) : (s.dequeued core b q pa n p ps).byte a = s.byte a :=
  ((s.sameStorage_setQueue q _).trans (State.sameStorage_markStale _ _ _ _)).sameMemory a

theorem State.queue?_dequeued : (s.dequeued core b q pa n p ps).queue? q = some { n with packets := ps } := by
  unfold State.dequeued State.queue? State.die
  rw [State.markStale_dies]
  exact s.queue?_setQueue q _

theorem State.dequeued_blocks : (s.dequeued core b q pa n p ps).blocks = s.blocks := State.markStale_blocks _ _ _ _

end

theorem State.applyEff_dequeue {s : State} {iu : Issue} {x : Block} {q : Nat} {n : NamedQueue} {p : List Byte} {ps : List (List Byte)}
    (hx : s.block? iu.block = some x) (hq : s.queue? q = some n) (hp : n.packets = p :: ps) (off : Nat) :
    s.applyEff iu (.dequeue q off) =
      (s.dequeued x.core iu.block q (windowPa x.core (x.base + off)) n p ps).write iu.ctx (windowPa x.core (x.base + off)) p := by
  simp only [State.applyEff, hx, State.dequeue, hq, hp, State.dequeued]

/-! ## The obligation -/

/-- Settles O54: every effect but that of a DEQ leaves memory, and a DEQ is one write. -/
theorem bundlesChangeMemoryOnlyByDequeue : Obligations.BundlesChangeMemoryOnlyByDequeue := by
  unfold Obligations.BundlesChangeMemoryOnlyByDequeue
  refine ⟨fun s e he hd ht => ?_, fun s iu x q off n p ps hx hq hp => ?_⟩
  · rcases State.sameStorage_finish he hd with same | same
    · exact same.sameMemory
    · rcases ht with touch | pools
      · rw [State.bindTouched_nil s e touch] at same
        exact same.sameMemory
      · have bound := (State.binds_bindTouched s e).sameMemory fun d => (same.pools d).symm.trans (pools d)
        exact fun a => (same.sameMemory a).trans (bound a)
  · rw [State.applyEff_dequeue hx hq hp]
    refine ⟨fun i hi hm => ?written, fun k hk => ?other, State.queue?_dequeued s _ _ _ _ _ _ _, fun b w => ?regs⟩
    case written => rw [State.byte_write_in _ _ _ _ _ hi hm, List.getD_eq_getElem?_getD, List.getElem?_eq_getElem hi, Option.getD_some]
    case other => rw [State.byte_write_out _ _ _ _ _ hk, State.byte_dequeued]
    case regs => simp only [State.regs?, State.wave?, State.block?, State.write_blocks, State.dequeued_blocks]

end Sys2Proof.Machine
end

section
/-! PROOFS. Vector compares and selects, NOP, branches, LOOPB and EXIT: what each syllable stages, or fails with (R171 to R177, R181,
R189 to R191). -/

namespace Sys2Proof.Machine

/-! ## Compares, element by element (R189, R190) -/

/-- Every element pair meets a relation, place by place. -/
theorem allPairs_eq (w : Nat) (r : Nat → Nat → Bool) (a b : Word) :
    allPairs w r a b = (List.range (32 / w)).all fun i => r (elem w a i) (elem w b i) := by
  simp [allPairs, elems, List.zipWith_map, List.zipWith_self, List.all_map]

theorem all_elems (w : Nat) (r : Nat → Bool) (a : Word) : (elems w a).all r = (List.range (32 / w)).all fun i => r (elem w a i) := by
  simp [elems, List.all_map, Function.comp_def]

/-! ## Targets (R173, R174) -/

theorem badTarget_iff (t : Int) : badTarget t = true ↔ ¬Safety.InRange t := by
  simp only [badTarget, Safety.InRange, decide_eq_true_eq]
  omega

section
variable (here : PC) (off : BitVec 32) (m : Lanes) (more : List Eff)

theorem goTo_of_inRange (hm : m ≠ 0) (ht : Safety.InRange (branchTarget here off)) :
    goTo here off m more = .eff (.setPc m (BitVec.ofInt 53 (branchTarget here off)) :: more) :=
  (if_neg hm).trans (if_neg fun h => (badTarget_iff _).1 h ht)

theorem goTo_of_not_inRange (hm : m ≠ 0) (ht : ¬Safety.InRange (branchTarget here off)) :
    goTo here off m more = fetchFail (BitVec.ofInt 64 (branchTarget here off)) :=
  (if_neg hm).trans (if_pos ((badTarget_iff _).2 ht))

/-- With no thread to send, a target is not looked at. -/
theorem goTo_zero : goTo here off 0 more = .eff more := by simp only [goTo, if_true]

end

section
variable (a : DWord) (m : Lanes) (more : List Eff)

theorem goToAddr_aligned (hlt : a.toNat < 2 ^ 52) (ha : a.toNat % 8 = 0) :
    goToAddr a m more = .eff (.setPc m (a.extractLsb' 0 53) :: more) :=
  (if_neg (Nat.not_le.2 hlt)).trans (if_neg fun odd => odd ha)

theorem goToAddr_outside (h : 2 ^ 52 ≤ a.toNat) : goToAddr a m more = fetchFail a := if_pos h

theorem goToAddr_misaligned (hlt : a.toNat < 2 ^ 52) (ha : a.toNat % 8 ≠ 0) : goToAddr a m more = failWith 1 0x09 a 0 none 8 :=
  (if_neg (Nat.not_le.2 hlt)).trans (if_pos ha)

end

/-- A LOOPB whose count stands checks its target, in the last pass too (R176). -/
def Env.closeLoop (e : Env) (o : FmtJ) : Act :=
  goTo e.iu.here o.off (if e.y.loopc = 1 then 0 else e.iu.lanes) [.setLoop (e.y.loopc - 1), .setRot (nextBase e.x.var.rotv e.y.rotb)]

/-- What LOOPB comes to (R176). -/
def Env.loopb (e : Env) (o : FmtJ) : Act :=
  if e.y.loopc = 0 then failVal 1 0x27 0
  else if badTarget (branchTarget e.iu.here o.off) then fetchFail (BitVec.ofInt 64 (branchTarget e.iu.here o.off))
  else e.closeLoop o

theorem exec_loopb (h : Hdr) (o : FmtJ) (s : State) : exec (.loopb h o) s = uSyl h s fun e => e.loopb o := rfl

section
variable {e : Env} {o : FmtJ}

theorem Env.loopb_zero (hz : e.y.loopc = 0) : e.loopb o = failVal 1 0x27 0 := if_pos hz

theorem Env.loopb_of_not_inRange (hz : e.y.loopc ≠ 0) (ht : ¬Safety.InRange (branchTarget e.iu.here o.off)) :
    e.loopb o = fetchFail (BitVec.ofInt 64 (branchTarget e.iu.here o.off)) :=
  (if_neg hz).trans (if_pos ((badTarget_iff _).2 ht))

theorem Env.loopb_of_inRange (hz : e.y.loopc ≠ 0) (ht : Safety.InRange (branchTarget e.iu.here o.off)) : e.loopb o = e.closeLoop o :=
  (if_neg hz).trans (if_neg fun h => (badTarget_iff _).1 h ht)

end

end Sys2Proof.Machine

namespace Sys2Proof.Safety

open Sys2Proof.Machine

/-- A U syllable whose check fails stages the failure. -/
theorem failsU_of {i : Instr} {h : Hdr} {p : Env → Prop} {f g : Env → Act} (hx : ∀ s, exec i s = uSyl h s f)
    (hfg : ∀ e, p e → f e = g e) (hg : ∀ e, ∃ r, g e = .fail r) : FailsU i h p g := by
  intro s e he hh hp
  refine ⟨?_, hg e⟩
  rw [hx, uSyl_eq he, ← hfg e hp]
  simp [hh, State.issued_eq]

/-! ## The obligations -/

/-- Settles O7: compares look at the elements place by place. -/
theorem vectorCompareAndSelectResults : Obligations.VectorCompareAndSelectResults := by
  unfold Obligations.VectorCompareAndSelectResults
  intro h o b
  refine ⟨stagesV_of (fun s => show execVcmp h o s = _ from rfl) fun e m => ?vcmp,
    stagesV_of (fun s => show execVcmpi h b s = _ from rfl) fun e m => ?vcmpi,
    stagesV_of (fun _ => rfl) fun _ _ => rfl, stagesV_of (fun _ => rfl) fun _ _ => rfl⟩
  case vcmp => simp only [allPairs_eq, laneA, laneB]
  case vcmpi => simp only [all_elems, immCmp]

/-- Settles O14, branch by branch. -/
theorem branchResults : Obligations.BranchResults := by
  unfold Obligations.BranchResults
  refine ⟨fun h a o => ⟨stagesU_of (fun _ => rfl) fun _ => rfl, ?br, ?brl, ?bri, ?brli, ?brp, ?brpNone, ?loopbLast, ?loopb,
    stagesU_of (fun _ => rfl) fun _ => rfl⟩, fun h o i => ⟨?brFar, ?brpFar, ?loopbFar, ?briFar, ?briOdd, ?loopbZero⟩⟩
  case br => exact stagesUIf_of (fun _ => rfl) fun e ⟨hl, ht⟩ => goTo_of_inRange _ _ _ _ hl ht
  case brl => exact stagesUIf_of (fun _ => rfl) fun e ⟨hl, ht⟩ => goTo_of_inRange _ _ _ _ hl ht
  case bri => exact stagesUIf_of (fun _ => rfl) fun e ⟨hlt, ha⟩ => goToAddr_aligned _ _ _ hlt ha
  case brli => exact stagesUIf_of (fun _ => rfl) fun e ⟨hlt, ha⟩ => goToAddr_aligned _ _ _ hlt ha
  case brp => exact stagesUIf_of (fun _ => rfl) fun e ⟨hl, ht⟩ => goTo_of_inRange _ _ _ _ hl ht
  case brpNone =>
    refine stagesUIf_of (fun _ => rfl) fun e hl => ?_
    rw [hl]
    exact goTo_zero _ _ _
  case loopbLast =>
    refine stagesUIf_of (exec_loopb h o) fun e ⟨h1, ht⟩ => (Env.loopb_of_inRange (by simp [h1]) ht).trans ?_
    rw [Env.closeLoop, if_pos h1, h1]
    exact goTo_zero _ _ _
  case loopb =>
    refine stagesUIf_of (exec_loopb h o) fun e ⟨h2, hl, ht⟩ => (Env.loopb_of_inRange (fun hz => ?_) ht).trans ?_
    · simp [hz] at h2
    · rw [Env.closeLoop, if_neg fun h1 => by simp [h1] at h2]
      exact goTo_of_inRange _ _ _ _ hl ht
  case brFar =>
    rintro (rfl | rfl) <;> exact failsU_of (fun _ => rfl) (fun e ⟨hl, ht⟩ => goTo_of_not_inRange _ _ _ _ hl ht) fun _ => ⟨_, rfl⟩
  case brpFar => exact failsU_of (fun _ => rfl) (fun e ⟨hl, ht⟩ => goTo_of_not_inRange _ _ _ _ hl ht) fun _ => ⟨_, rfl⟩
  case loopbFar => exact failsU_of (exec_loopb h o) (fun e ⟨hz, ht⟩ => Env.loopb_of_not_inRange hz ht) fun _ => ⟨_, rfl⟩
  case briFar =>
    rintro (rfl | rfl) <;> exact failsU_of (fun _ => rfl) (fun e hle => goToAddr_outside _ _ _ hle) fun _ => ⟨_, rfl⟩
  case briOdd =>
    rintro (rfl | rfl) <;> exact failsU_of (fun _ => rfl) (fun e ⟨hlt, ha⟩ => goToAddr_misaligned _ _ _ hlt ha) fun _ => ⟨_, rfl⟩
  case loopbZero => exact failsU_of (exec_loopb h o) (fun e hz => Env.loopb_zero hz) fun _ => ⟨_, rfl⟩

end Sys2Proof.Safety
end

section
/-! PROOFS. TRAP, WAIT, TRIGGER, GRIDWAIT and SWPT: what each stages (R178 to R180, R370, R371). -/

namespace Sys2Proof.Machine

/-! ## WAIT (R180) -/

/-- A byte of an immediate. -/
theorem toNat_extractLsb'_byte (i : BitVec 32) (k : Nat) : (i.extractLsb' k 8).toNat = i.toNat / 2 ^ k % 256 := by
  rw [BitVec.extractLsb'_toNat, Nat.shiftRight_eq_div_pow]

/-- Each counter is at or below its limit. -/
def Wave.within (y : Wave) (i : BitVec 32) : Prop :=
  y.count .ld ≤ i.toNat % 256 ∧ y.count .st ≤ i.toNat / 256 % 256 ∧ y.count .cp ≤ i.toNat / 65536 % 256 ∧
    y.count .tl ≤ i.toNat / 16777216

theorem Wave.within_iff (y : Wave) (i : BitVec 32) : y.within i ↔
    y.count .ld ≤ (i.extractLsb' (8 * 0) 8).toNat ∧ y.count .st ≤ (i.extractLsb' (8 * 1) 8).toNat ∧
      y.count .cp ≤ (i.extractLsb' (8 * 2) 8).toNat ∧ y.count .tl ≤ (i.extractLsb' (8 * 3) 8).toNat := by
  have top : i.toNat / 16777216 % 256 = i.toNat / 16777216 := by have := i.isLt; omega
  simp only [Wave.within, toNat_extractLsb'_byte, Nat.reduceMul, Nat.reducePow, Nat.div_one, top]

/-! ## SWPT (R179) -/

section
variable {s : State} {e : Env} (he : s.env = some e) (h : Hdr) (o : FmtC)
include he

/-- Threads that a switch has moved, or that a withdrawn request held, pass once. -/
theorem exec_swpt_moved (hm : Table.get 0#128 e.x.passing e.iu.wave &&& e.iu.lanes ≠ 0#128) :
    exec (.swpt h o) s = .next (s.stageSyl h.e e.iu 0 (.eff [.passed (Table.get 0 e.x.passing e.iu.wave &&& e.iu.lanes)])) := by
  change execSwpt h o s = _
  simp [execSwpt, he, hm, State.issued_eq]

section
variable (hm : Table.get 0#128 e.x.passing e.iu.wave &&& e.iu.lanes = 0#128)
include hm

/-- SWPT is a NOP where its condition is false or no request stands. -/
theorem exec_swpt_idle (hi : e.holds h = false ∨ e.x.switch = none) :
    exec (.swpt h o) s = .next (s.stageSyl h.e e.iu 0 (.eff [])) := by
  change execSwpt h o s = _
  rcases hi with off | none
  · simp [execSwpt, he, hm, off, State.issued_eq]
  · simp [execSwpt, he, hm, none, State.issued_eq]

section
variable {q : SwitchReq} (hq : e.x.switch = some q)
include hq

/-- SWPT is a NOP past another fixed point, and once the time of its own is over. -/
theorem exec_swpt_past {n t : Nat} (hf : q.fixed = some (n, t))
    (hp : n ≠ o.imm.toNat % 256 ∨ (t + 50000 ≤ s.now ∧ e.x.allHeld q = false)) :
    exec (.swpt h o) s = .next (s.stageSyl h.e e.iu 0 (.eff [])) := by
  cases hh : e.holds h with
  | false => exact exec_swpt_idle he h o hm (.inl hh)
  | true =>
    have past : ¬(n = o.imm.toNat % 256 ∧ (s.now < t + 50000 ∨ e.x.allHeld q = true)) := by
      rintro ⟨same, early | converged⟩
      · rcases hp with other | ⟨late, -⟩
        · exact other same
        · exact absurd early (Nat.not_lt.2 late)
      · rcases hp with other | ⟨-, apart⟩
        · exact other same
        · simp [apart] at converged
    change execSwpt h o s = _
    simp [execSwpt, he, hm, hh, hq, hf, past, State.issued_eq]

section
variable (hh : e.holds h = true)
include hh

/-- At the fixed point SWPT holds its threads while the time of the point runs, and forever once the block has converged there. -/
theorem exec_swpt_atPoint {t : Nat} (hf : q.fixed = some (o.imm.toNat % 256, t)) (ht : s.now < t + 50000 ∨ e.x.allHeld q = true) :
    exec (.swpt h o) s = s.holdAtPoint h e q (o.imm.toNat % 256) := by
  change execSwpt h o s = _
  simp [execSwpt, he, hm, hh, hq, hf, ht]

section
variable (hf : q.fixed = none) {t : State} {ms : List SwMap} (hr : s.readMaps e.x = (t, .ok ms))
include hf hr

/-- Before a point is fixed, SWPT looks for a map of its own number. -/
theorem exec_swpt_firstReached : exec (.swpt h o) s =
    if ms.any fun m => m.id = o.imm.toNat % 256 then t.holdAtPoint h e q (o.imm.toNat % 256)
    else .next (t.stageSyl h.e e.iu 0 (.eff [])) := by
  change execSwpt h o s = _
  simp [execSwpt, he, hm, hh, hq, hf, hr, State.issued_eq]

end

end

end

end

end

/-- Threads held at the point that is fixed already. -/
theorem SwitchReq.hold_fixed {q : SwitchReq} {p : Nat × Nat} (hf : q.fixed = some p) (w : Nat) (m : Lanes) (id now : Nat) :
    q.hold w m id now = { q with held := q.held.put w (Table.get 0 q.held w ||| m) } := by
  cases q
  cases hf
  rfl

/-- Threads held at the first point reached, which they fix. -/
theorem SwitchReq.hold_unfixed {q : SwitchReq} (hf : q.fixed = none) (w : Nat) (m : Lanes) (id now : Nat) :
    q.hold w m id now = { q with fixed := some (id, now), held := q.held.put w (Table.get 0 q.held w ||| m) } := by
  simp only [SwitchReq.hold, hf, Option.getD_none]

end Sys2Proof.Machine

namespace Sys2Proof.Safety

open Sys2Proof.Machine

/-! ## The obligation -/

/-- Settles O15: the plain syllables stage one effect each, and SWPT goes by the standing of the request. -/
theorem trapWaitAndSwitchPointResults : Obligations.TrapWaitAndSwitchPointResults := by
  unfold Obligations.TrapWaitAndSwitchPointResults
  refine ⟨fun h o y => ⟨stagesU_of (fun _ => rfl) fun _ => rfl, stagesU_of (fun s => show execBrk h o s = _ from rfl) fun _ => rfl, ?wait,
    stagesU_of (fun _ => rfl) fun _ => rfl, stagesU_of (fun _ => rfl) fun _ => rfl⟩, fun h o s e he => ?swpt⟩
  case wait =>
    exact stagesUIf_of (fun s => show execWait h o s = _ from rfl) fun e within => if_pos ((e.y.within_iff o.imm).1 within)
  case swpt =>
    refine ⟨exec_swpt_moved he h o, exec_swpt_idle he h o, fun hm q n t hq hf hp => exec_swpt_past he h o hm hq hf hp,
      fun hm hh q n t hq hf hn ht => ?held, fun hm hh q t ms hq hf hr => ⟨fun none => ?noMap, fun some => ?fixes⟩⟩
    case held =>
      subst hn
      rw [exec_swpt_atPoint he h o hm hq hh hf ht, State.holdAtPoint, SwitchReq.hold_fixed hf]
      rfl
    case noMap =>
      rw [exec_swpt_firstReached he h o hm hq hh hf hr, if_neg (by simpa using none)]
    case fixes =>
      rw [exec_swpt_firstReached he h o hm hq hh hf hr, if_pos (by simpa using some), State.holdAtPoint, SwitchReq.hold_unfixed hf]
      rfl

end Sys2Proof.Safety
end

section
/-! PROOFS. Accesses after their commit: returning loads, stores that leave and arrive, lanes that went wrong, and atomics at their
executing points (R161, R163, R253, R260 to R262, R265, R329, R332, R381, R388). -/

namespace Sys2Proof.Machine

/-! ## Loads return (R163, R253) -/

/-- With nothing wrong, a load writes the words it read. -/
theorem returnWrites_of_bad_nil {o : OutLoad} (hb : o.bad = []) (step : Nat) : returnWrites step o = o.writes := by
  simp [returnWrites, hb]

theorem exec_loadReturn_some {s : State} {b w k : Nat} {y : Wave} {o : OutLoad} (hy : s.wave? b w = some y) (ho : y.outs[k]? = some o) :
    exec (.loadReturn b w k) s = .next (((s.setWave b w ({ (returnWrites s.steps o).foldl Wave.wrReg y with
      outs := dropAt y.outs k }.perform o.sid)).noteBad b w o.sid o.bad).settle b) := by
  change execLoadReturn b w k s = _
  simp only [execLoadReturn, hy, ho]

/-! ## The head of a store queue (R161, R329) -/

section
variable {s : State} {b w : Nat} {x : Block} {y : Wave} {q : StoreEntry} {r : List StoreEntry} {sp home pa : Nat} {bs : List Byte}
  (hx : s.block? b = some x) (hy : s.wave? b w = some y) (hr : y.storeq = q :: r) (hk : q.kind = .bytes sp home pa bs)
  (released : q.rel = true → s.released x.core y q.sid q.scope = true) (alone : s.primaryAhead q = false)
include hx hy hr hk released alone

/-- A store to the core's own scratchpad is written as it leaves the queue. -/
theorem exec_storePerform_leave_here (here : s.writesHere x.core pa = true) : exec (.storePerform (.leave b w)) s =
    .next ((((s.setWave b w { y with storeq := r }).write q.ctx pa bs).modWave b w fun z => z.perform q.sid).settleCore x.core) := by
  have free : (q.rel && !s.released x.core y q.sid q.scope) = false := by simpa using released
  change execStorePerform (.leave b w) s = _
  simp [execStorePerform, hx, hy, hr, State.leaveQueue, hk, free, alone, here]

/-- Any other store goes out on the fabric. -/
theorem exec_storePerform_leave_fabric (away : s.writesHere x.core pa = false) : exec (.storePerform (.leave b w)) s =
    let t := ((s.setWave b w { y with storeq := r }).updateLine x.core q.ctx pa bs q.clears).sendFabric b w x q pa
    .next ((if q.scope ≤ 1 then t.modWave b w fun z => z.perform q.sid else t).settleCore x.core) := by
  have free : (q.rel && !s.released x.core y q.sid q.scope) = false := by simpa using released
  change execStorePerform (.leave b w) s = _
  simp [execStorePerform, hx, hy, hr, State.leaveQueue, hk, free, alone, away]

end

/-! ## A store at its executing point (R332, R388) -/

theorem State.dieGone_dropFabric (s : State) (core k pa : Nat) : (s.dropFabric core k).dieGone pa = s.dieGone pa := rfl

section
variable {s : State} {core k : Nat} {f : FabricEntry} {sp home pa : Nat} {bs : List Byte} (hf : s.laneHead core k = some f)
  (hk : f.e.kind = .bytes sp home pa bs) (hpa : region pa ≠ .none)
include hf hk hpa

theorem exec_storePerform_arrive : exec (.storePerform (.arrive core k)) s = .next (s.storeArrives core k f pa bs) := by
  change execStorePerform (.arrive core k) s = _
  simp only [execStorePerform, hf, hk, if_neg hpa]

/-- A store whose executing point is in service is written. -/
theorem exec_storePerform_arrive_written (alive : s.dieGone pa = none) : exec (.storePerform (.arrive core k)) s =
    let t := ((s.dropFabric core k).write f.ctx pa bs).clearPoison f.e.clears
    .next ((if 2 ≤ f.e.scope then t.modWave f.block f.wave fun z => z.perform f.e.sid else t).settleCore core) := by
  rw [exec_storePerform_arrive hf hk hpa]
  simp only [State.storeArrives, State.dieGone_dropFabric, alive]

/-- One whose die is out of service is noted as failed. -/
theorem exec_storePerform_arrive_lost {d : Nat} (gone : s.dieGone pa = some d) : exec (.storePerform (.arrive core k)) s =
    let t := (s.dropFabric core k).noteBad f.block f.wave f.e.sid [⟨0x23, pa, f.e.va, some f.e.place, 0, d⟩]
    .next ((if 2 ≤ f.e.scope then t.modWave f.block f.wave fun z => z.perform f.e.sid else t).settleCore core) := by
  rw [exec_storePerform_arrive hf hk hpa]
  simp only [State.storeArrives, State.dieGone_dropFabric, gone]

end

/-! ## Lanes that went wrong (R265, R381) -/

/-- Of a failure found so far and the next one, that of the lower lane, as lowestBad goes on. -/
def lowerBad (m : Option BadData) (d : BadData) : Option BadData :=
  match m with
  | none => some d
  | some c => if d.lane.getD 0 < c.lane.getD 0 then some d else some c

theorem lowestBad_eq_foldl (l : List BadData) : lowestBad l = l.foldl lowerBad none := rfl

theorem mem_lowerBad {m : Option BadData} {c e : BadData} (h : e ∈ lowerBad m c) : e = c ∨ e ∈ m := by
  cases m with
  | none => exact .inl (by simpa [lowerBad, eq_comm] using h)
  | some b =>
    simp only [lowerBad] at h
    split at h
    · exact .inl (by simpa [eq_comm] using h)
    · exact .inr h

section
variable {d : BadData}

/-- Another failure is of a higher lane than d. -/
def BadData.Under (d c : BadData) : Prop := c ≠ d → d.lane.getD 0 < c.lane.getD 0

theorem lowerBad_keeps {c : BadData} (hc : d.Under c) : lowerBad (some d) c = some d := by
  by_cases same : c = d
  · simp [lowerBad, same]
  · exact if_neg (Nat.lt_asymm (hc same))

theorem lowerBad_takes {m : Option BadData} (hm : ∀ c ∈ m, d.Under c) : lowerBad m d = some d := by
  cases m with
  | none => rfl
  | some c =>
    by_cases same : c = d
    · simp [lowerBad, same]
    · exact if_pos (hm c rfl same)

/-- The search for the lowest lane finds d where it stands among higher ones. -/
theorem foldl_lowerBad {l : List BadData} (hl : ∀ c ∈ l, d.Under c) {m : Option BadData} (hm : ∀ c ∈ m, d.Under c)
    (hd : m = some d ∨ d ∈ l) : l.foldl lowerBad m = some d := by
  induction l generalizing m with
  | nil => simpa using hd
  | cons c l ih =>
    have hc := hl c List.mem_cons_self
    refine ih (fun e he => hl e (List.mem_cons_of_mem c he)) (fun e he => ?_) ?_
    · rcases mem_lowerBad he with rfl | he
      · exact hc
      · exact hm e he
    · rcases hd with rfl | hd
      · exact .inl (lowerBad_keeps hc)
      · rcases List.mem_cons.1 hd with rfl | hd
        · exact .inl (lowerBad_takes hm)
        · exact .inr hd

theorem lowestBad_eq_some {l : List BadData} (hd : d ∈ l) (hl : ∀ c ∈ l, d.Under c) : lowestBad l = some d :=
  foldl_lowerBad hl (by simp) (.inr hd)

end

/-- One number, however often a list holds it. -/
theorem ascending_replicate (n k : Nat) : ascending (List.replicate (k + 1) n) = [n] := by
  have again (k : Nat) : (List.replicate k n).foldl (fun acc m => insertAsc m acc) [n] = [n] := by
    induction k with
    | zero => rfl
    | succ k ih => simpa [List.replicate_succ, insertAsc] using ih
  exact again k

section
variable {s : State} {b w : Nat} {x : Block} {y : Wave} (hx : s.block? b = some x) (hy : s.wave? b w = some y)
include hx hy

/-- A syllable whose lanes have all ended raises the failure of its lowest lane, and the notes of its lanes are gone. -/
theorem State.settleBad_ended {sid : Nat} {l : List BadData} {d : BadData} (hl : y.late = l.map fun c => (sid, c))
    (ended : s.sidOpen x.core b w y sid = false) (hd : d ∈ l) (low : ∀ c ∈ l, d.Under c) :
    s.settleBad b w = (s.setWave b w { y with late := [] }).badFault b w d := by
  have some_late : y.late.isEmpty = false := by
    rw [hl, List.isEmpty_eq_false_iff]
    simpa using List.ne_nil_of_mem hd
  have of_sid : ∀ p ∈ y.late, p.1 = sid := by
    rw [hl, List.forall_mem_map]
    exact fun _ _ => rfl
  have done : (y.late.filter fun p => !s.sidOpen x.core b w y p.1) = y.late :=
    List.filter_eq_self.2 fun p hp => by rw [of_sid p hp, ended]; rfl
  have left : (y.late.filter fun p => !y.late.contains p) = [] :=
    List.filter_eq_nil_iff.2 fun p hp => by rw [List.contains_iff_mem.2 hp]; exact Bool.false_ne_true
  have once : ascending (y.late.map Prod.fst) = [sid] := by
    obtain ⟨k, hk⟩ := Nat.exists_eq_succ_of_ne_zero (fun h0 => List.ne_nil_of_mem hd (List.length_eq_zero_iff.1 h0))
    rw [hl, List.map_map]
    show ascending (l.map fun _ => sid) = [sid]
    rw [List.map_const', hk, ascending_replicate]
  have mine : (y.late.filter fun p => p.1 = sid).map Prod.snd = l := by
    rw [List.filter_eq_self.2 fun p hp => decide_eq_true (of_sid p hp), hl, List.map_map]
    exact List.map_id l
  simp only [State.settleBad, hx, hy, some_late, done, once, mine, lowestBad_eq_some hd low, State.modWave, left, Bool.false_eq_true,
    if_false, List.foldl_cons, List.foldl_nil, Option.map_some, Option.getD_some]

end

/-! ## Atomics (R260 to R262) -/

section
variable (s : State) (core k pa : Nat)

/-- The state once an atomic has left the fabric and its line the core's data cache. -/
def State.atomicArrived : State := (s.dropFabric core k).dropLines core [pa]

theorem State.num_atomicArrived (n : Nat) : (s.atomicArrived core k pa).num pa n = s.num pa n := rfl

theorem State.tstOpen_atomicArrived (b a : Nat) (before : Option (Nat × Nat)) :
    (s.atomicArrived core k pa).tstOpen core b a before = s.tstOpen core b a before := by
  simp [State.atomicArrived, State.tstOpen, State.dropLines, State.dropFabric]

end

section
variable {s : State} {core k : Nat} {f : FabricEntry} {pa n : Nat}

/-- Where no TST of the block may still write the bytes, an atomic reads what stands there (R307). -/
theorem State.atomicOld_atomicArrived (ho : ∀ i < n, s.tstOpen core f.block (pa + i) (some (f.wave, f.e.sid)) = false) :
    (s.atomicArrived core k pa).atomicOld core f pa n = s.num pa n := by
  have none_open : ((List.range n).any fun i => (s.atomicArrived core k pa).tstOpen core f.block (pa + i) (some (f.wave, f.e.sid))) = false := by
    simpa [State.tstOpen_atomicArrived] using ho
  simp only [State.atomicOld, none_open, State.num_atomicArrived]
  rfl

/-- The state after an atomic has run: its location holds op(old, operands), and the old value goes back, with what is wrong with it. -/
def State.atomicDone (s : State) (core k : Nat) (f : FabricEntry) (pa n : Nat) (op : AOp) (a b : BitVec 128) (lane : Nat)
    (dst : Option Nat) : State :=
  let t := s.atomicArrived core k pa
  (((t.errorsFound pa n).writeNum f.ctx pa n (atomicNew op n (s.num pa n) a.toNat b.toNat)).answerAtomic f n lane (s.num pa n) dst
    (t.badData pa n f.e.va (some lane)).toList).settleCore core

variable {op : AOp} {a b : BitVec 128} {lane : Nat} {dst : Option Nat}

theorem State.runAtomic_alive (ho : ∀ i < n, s.tstOpen core f.block (pa + i) (some (f.wave, f.e.sid)) = false)
    (alive : (s.atomicArrived core k pa).dieGone pa = none) :
    s.runAtomic core k f pa n op a b lane dst = s.atomicDone core k f pa n op a b lane dst := by
  rw [State.atomicArrived] at alive
  simp only [State.runAtomic, alive]
  rw [← State.atomicArrived, State.atomicOld_atomicArrived ho]
  rfl

/-- The host aperture has no executing point on a die. -/
theorem State.dieGone_host (hpa : region pa = .host) (t : State) : t.dieGone pa = none := by simp [State.dieGone, execDie, hpa]

section
variable (hf : s.laneHead core k = some f) {sp home : Nat} (hk : f.e.kind = .atomic sp home pa n op a b lane dst)
include hf hk

theorem exec_atomicPerform (hpa : region pa = .hbm ∨ region pa = .scratch) :
    exec (.atomicPerform core k) s = .next (s.runAtomic core k f pa n op a b lane dst) := by
  change execAtomicPerform core k s = _
  rcases hpa with hpa | hpa <;> simp only [execAtomicPerform, hf, hk, hpa]

section
variable (hpa : region pa = .host)
include hpa

theorem State.hostAtomic?_eq : s.hostAtomic? core k = some (f, pa, n, op, a, b, lane, dst) := by
  simp only [State.hostAtomic?, hf, hk, hpa, if_true]

theorem exec_hostAtomicopCompletion_ok : exec (.hostAtomicopCompletion core k 0) s = .next (s.runAtomic core k f pa n op a b lane dst) := by
  change execHostAtomicopCompletion core k 0 s = _
  simp only [execHostAtomicopCompletion, State.hostAtomic?_eq hf hk hpa, if_true]

theorem exec_hostAtomicopCompletion_failed {status : BitVec 16} (hs : status ≠ 0) :
    exec (.hostAtomicopCompletion core k status) s = .next (s.hostAtomicFails core k f pa n lane dst status.toNat) := by
  change execHostAtomicopCompletion core k status s = _
  simp only [execHostAtomicopCompletion, State.hostAtomic?_eq hf hk hpa, if_neg hs]

theorem exec_hostCompletionTimeout_some : exec (.hostCompletionTimeout core k) s =
    .next (s.hostAtomicFails core k f pa n lane dst ((Config.freeWord s.steps 4).toNat % 2 ^ 16)) := by
  change execHostCompletionTimeout core k s = _
  simp only [execHostCompletionTimeout, State.hostAtomic?_eq hf hk hpa]

end

end

end

/-! ## The obligation -/

/-- Settles O26, event by event. -/
theorem accessesArePerformed : Obligations.AccessesArePerformed := by
  unfold Obligations.AccessesArePerformed
  refine ⟨fun s b w k x y hx hy => ⟨fun o ho => ?returns, fun q r sp home pa bs hr hk released alone => ?leaves,
      fun core f sp home pa bs hf hk hpa => ?arrives, fun sid l d hl ended hd low => ?ended⟩,
    fun s core k f sp home pa n op a b lane dst hf hk ho => ⟨fun hpa alive => ?atomic,
      fun hpa => ⟨?host, fun status hs => ?failed, ?timeout⟩⟩⟩
  case returns => exact ⟨exec_loadReturn_some hy ho, fun hb => returnWrites_of_bad_nil hb s.steps⟩
  case leaves => exact ⟨exec_storePerform_leave_here hx hy hr hk released alone, exec_storePerform_leave_fabric hx hy hr hk released alone⟩
  case arrives => exact ⟨exec_storePerform_arrive_written hf hk hpa, fun d => exec_storePerform_arrive_lost hf hk hpa⟩
  case ended => exact State.settleBad_ended hx hy hl ended hd low
  case atomic => exact (exec_atomicPerform hf hk hpa).trans (congrArg _ (State.runAtomic_alive ho alive))
  case host => exact (exec_hostAtomicopCompletion_ok hf hk hpa).trans (congrArg _ (State.runAtomic_alive ho (State.dieGone_host hpa _)))
  case failed => exact exec_hostAtomicopCompletion_failed hf hk hpa hs
  case timeout => exact exec_hostCompletionTimeout_some hf hk hpa

end Sys2Proof.Machine
end

section
/-! PROOFS. The words that the manual works out in its encodings (R158, R190, R196, R371, R391, R392). -/

namespace Sys2Proof

/-- Settles O45, by running the decoder on the eight words. -/
theorem workedEncodingsDecode : Obligations.WorkedEncodingsDecode := by
  unfold Obligations.WorkedEncodingsDecode
  decide

end Sys2Proof
end

section
/-! PROOFS. The integer instructions: what the element operations come to modulo 2^w, element by element, and the results of the scalar
and vector syllables (R184, R185, R187, R188, R193 to R200). -/

namespace Sys2Proof.Machine

/-! ## Two's-complement values modulo 2^w (R9) -/

section
variable {w : Nat}

theorem two_pow_cast (n : Nat) : ((2 ^ n : Nat) : Int) = 2 ^ n := Int.natCast_pow 2 n

/-- A signed reading differs from its pattern by a multiple of 2^w. -/
theorem sext_emod (w a : Nat) : sext w a % (2 ^ w : Nat) = (a : Int) % (2 ^ w : Nat) := by
  have hmod : ((a % 2 ^ w : Nat) : Int) % (2 ^ w : Nat) = (a : Int) % (2 ^ w : Nat) := by
    rw [Int.natCast_emod, Int.emod_emod]
  simp only [sext]
  split
  · rw [← two_pow_cast, Int.sub_emod_right, hmod]
  · exact hmod

theorem trunc_eq_of_emod_eq {x y : Int} (h : x % (2 ^ w : Nat) = y % (2 ^ w : Nat)) : trunc w x = trunc w y := congrArg Int.toNat h

theorem trunc_natCast (w n : Nat) : trunc w n = n % 2 ^ w := by
  rw [trunc, ← Int.natCast_emod, Int.toNat_natCast]

theorem trunc_emod (w : Nat) (x : Int) : (trunc w x : Int) % (2 ^ w : Nat) = x % (2 ^ w : Nat) := by
  have hpos : ((2 ^ w : Nat) : Int) ≠ 0 := Int.natCast_ne_zero.2 (Nat.ne_of_gt (Nat.two_pow_pos w))
  rw [trunc, Int.toNat_of_nonneg (Int.emod_nonneg x hpos), Int.emod_emod]

/-- An element survives being read as a signed number. -/
theorem trunc_sext_of_lt {a : Nat} (ha : a < 2 ^ w) : trunc w (sext w a) = a := by
  rw [trunc_eq_of_emod_eq (sext_emod w a), trunc_natCast, Nat.mod_eq_of_lt ha]

/-! ## Element operations modulo 2^w (R187, R195) -/

theorem opAdd_eq (w a b : Nat) : opAdd w a b = (a + b) % 2 ^ w := by
  have h : (sext w a + sext w b) % (2 ^ w : Nat) = ((a + b : Nat) : Int) % (2 ^ w : Nat) := by
    rw [Int.add_emod, sext_emod, sext_emod, ← Int.add_emod, Int.natCast_add]
  rw [opAdd, trunc_eq_of_emod_eq h, trunc_natCast]

theorem opMul_eq (w a b : Nat) : opMul w a b = a * b % 2 ^ w := by
  have h : sext w a * sext w b % (2 ^ w : Nat) = ((a * b : Nat) : Int) % (2 ^ w : Nat) := by
    rw [Int.mul_emod, sext_emod, sext_emod, ← Int.mul_emod, Int.natCast_mul]
  rw [opMul, trunc_eq_of_emod_eq h, trunc_natCast]

theorem opSub_eq {a b : Nat} (hb : b ≤ 2 ^ w) : opSub w a b = (a + (2 ^ w - b)) % 2 ^ w := by
  have hcast : ((a + (2 ^ w - b) : Nat) : Int) = (a - b : Int) + (2 ^ w : Nat) := by omega
  have h : (sext w a - sext w b) % (2 ^ w : Nat) = ((a + (2 ^ w - b) : Nat) : Int) % (2 ^ w : Nat) := by
    rw [Int.sub_emod, sext_emod, sext_emod, ← Int.sub_emod, hcast, Int.add_emod_right]
  rw [opSub, trunc_eq_of_emod_eq h, trunc_natCast]

theorem opShl_eq (w a b : Nat) : opShl w a b = a * 2 ^ (b % w) % 2 ^ w := trunc_natCast w _

theorem opMin_eq {a b : Nat} (ha : a < 2 ^ w) (hb : b < 2 ^ w) : opMin w a b = if sext w b < sext w a then b else a := by
  rw [opMin]
  split
  · next h => rw [Int.min_eq_right (Int.le_of_lt h), trunc_sext_of_lt hb]
  · next h => rw [Int.min_eq_left (Int.not_lt.1 h), trunc_sext_of_lt ha]

theorem opMax_eq {a b : Nat} (ha : a < 2 ^ w) (hb : b < 2 ^ w) : opMax w a b = if sext w a < sext w b then b else a := by
  rw [opMax]
  split
  · next h => rw [Int.max_eq_right (Int.le_of_lt h), trunc_sext_of_lt hb]
  · next h => rw [Int.max_eq_left (Int.not_lt.1 h), trunc_sext_of_lt ha]

/-- Adding the immediate adds its signed value: its narrowing to an element loses only multiples of 2^w. -/
theorem opAdd_immSx (w a i : Nat) : opAdd w a (immSx w i) = trunc w (sext w a + sext 24 i) := by
  refine trunc_eq_of_emod_eq ?_
  rw [Int.add_emod, sext_emod w (immSx w i), immSx, trunc_emod, ← Int.add_emod]

end

/-! ## Registers as elements (R3, R184) -/

theorem elem_lt (w : Nat) (x : Word) (i : Nat) : elem w x i < 2 ^ w := Nat.mod_lt _ (Nat.two_pow_pos w)

theorem map1_eq (w : Nat) (f : Nat → Nat) (a : Word) : map1 w f a = pack w ((List.range (32 / w)).map fun i => f (elem w a i)) := by
  simp only [map1, elems, List.map_map, Function.comp_def]

theorem map2_eq (w : Nat) (f : Nat → Nat → Nat) (a b : Word) :
    map2 w f a b = pack w ((List.range (32 / w)).map fun i => f (elem w a i) (elem w b i)) := by
  simp only [map2, elems, List.zipWith_map, List.zipWith_self]

theorem map3_eq (w : Nat) (f : Nat → Nat → Nat → Nat) (a b c : Word) :
    map3 w f a b c = pack w ((List.range (32 / w)).map fun i => f (elem w a i) (elem w b i) (elem w c i)) := by
  simp only [map3, elems, List.zipWith_map, List.zipWith_self]

/-- The only element of 32 bits is the register. -/
theorem elem_word (a : Word) : elem 32 a 0 = a.toNat := by
  rw [elem, Nat.zero_mul, Nat.pow_zero, Nat.div_one, Nat.mod_eq_of_lt a.isLt]

theorem pack_word (n : Nat) : pack 32 [n] = toWord n := by
  apply BitVec.eq_of_toNat_eq
  simp only [pack, packNat, toWord, Nat.mul_zero, Nat.add_zero, BitVec.toNat_ofNat, Nat.mod_mod]

theorem map2_word (f : Nat → Nat → Nat) (a b : Word) : map2 32 f a b = toWord (f a.toNat b.toNat) := by
  rw [map2_eq]
  show pack 32 [f (elem 32 a 0) (elem 32 b 0)] = _
  rw [elem_word, elem_word, pack_word]

theorem map3_word (f : Nat → Nat → Nat → Nat) (a b c : Word) : map3 32 f a b c = toWord (f a.toNat b.toNat c.toNat) := by
  rw [map3_eq]
  show pack 32 [f (elem 32 a 0) (elem 32 b 0) (elem 32 c 0)] = _
  rw [elem_word, elem_word, elem_word, pack_word]

/-- The lowest n elements of a number, packed again, are the number modulo 2^(w n). -/
theorem packNat_digits (w n x : Nat) : packNat w ((List.range n).map fun i => x / 2 ^ (i * w) % 2 ^ w) = x % 2 ^ (w * n) := by
  induction n generalizing x with
  | zero => rw [Nat.mul_zero, Nat.pow_zero, Nat.mod_one]; rfl
  | succ n ih =>
    have shift (i : Nat) : x / 2 ^ ((i + 1) * w) = x / 2 ^ w / 2 ^ (i * w) := by
      rw [Nat.div_div_eq_div_mul, ← Nat.pow_add, Nat.add_comm w, Nat.succ_mul]
    simp only [List.range_succ_eq_map, List.map_cons, List.map_map, Function.comp_def, Nat.succ_eq_add_one, shift, packNat, ih]
    rw [Nat.mul_succ, Nat.add_comm (w * n), Nat.pow_add, Nat.mod_mul, Nat.zero_mul, Nat.pow_zero, Nat.div_one, Nat.mod_mod]

theorem ewWidth_mul (ew : BitVec 2) : ewWidth ew * (32 / ewWidth ew) = 32 := by
  revert ew
  decide

/-- A register is packed from its elements. -/
theorem pack_elems (ew : BitVec 2) (x : Word) : pack (ewWidth ew) (elems (ewWidth ew) x) = x := by
  have h : packNat (ewWidth ew) (elems (ewWidth ew) x) = x.toNat := by
    have := packNat_digits (ewWidth ew) (32 / ewWidth ew) x.toNat
    rwa [ewWidth_mul, Nat.mod_eq_of_lt x.isLt] at this
  rw [pack, h, toWord_toNat]

theorem map1_id (ew : BitVec 2) (x : Word) : map1 (ewWidth ew) id x = x := by rw [map1, List.map_id, pack_elems]

/-! ## Counts and sums (R193, R198) -/

theorem clz_toNat (a : Word) : clz 32 a.toNat = if a = 0 then 32 else 31 - Nat.log2 a.toNat := by
  have zero_iff : a.toNat = 0 ↔ a = 0 := BitVec.toNat_inj (y := 0)
  simp only [clz, zero_iff, Nat.reduceSub]

theorem opDot4_eq (w : Nat) (a b c : Word) : opDot4 w a b c =
    c + BitVec.ofInt 32 (((List.range (32 / w)).map fun i => sext w (elem w a i) * sext w (elem w b i)).sum) := by
  have products : List.zipWith (fun x y => sext w x * sext w y) (elems w a) (elems w b) =
      (List.range (32 / w)).map fun i => sext w (elem w a i) * sext w (elem w b i) := by
    simp only [elems, List.zipWith_map, List.zipWith_self]
  rw [opDot4, toWord_trunc, sext_toInt, BitVec.ofInt_add, BitVec.ofInt_toInt, products, List.sum_eq_foldl]

end Sys2Proof.Machine

namespace Sys2Proof.Safety

open Sys2Proof.Machine

/-! ## Forms of the integer syllables -/

section
variable {i : Instr} {h : Hdr}

theorem stagesU_of_uOp1 {o : FmtA} {f : Nat → Nat} {g : Env → Word} (hx : ∀ s, exec i s = uOp1 h o s f)
    (hfg : ∀ e, toWord (f (opA e o).toNat) = g e) : StagesU i h fun e => [setS o.d (g e)] :=
  stagesU_of hx fun e => congrArg (fun v => [setS o.d v]) (hfg e)

theorem stagesU_of_uOp2 {o : FmtA} {f : Nat → Nat → Nat} {g : Env → Word} (hx : ∀ s, exec i s = uOp2 h o s f)
    (hfg : ∀ e, toWord (f (opA e o).toNat (opB e o).toNat) = g e) : StagesU i h fun e => [setS o.d (g e)] :=
  stagesU_of hx fun e => congrArg (fun v => [setS o.d v]) (hfg e)

/-- An operation on the sign-extended immediate (R195). -/
theorem stagesU_of_signedImmediate {o : FmtB} {f : Nat → Nat → Nat} {g : Env → Word}
    (hx : ∀ s, exec i s = uOpI h o s fun a n => f a (immSx 32 n))
    (hfg : ∀ e, toWord (f (opI e o).toNat (immB o).toNat) = g e) : StagesU i h fun e => [setS o.d (g e)] :=
  stagesU_of hx fun e => congrArg (fun v => [setS o.d v]) <| calc
    toWord (f (opI e o).toNat (immSx 32 o.imm.toNat)) = toWord (f (opI e o).toNat (immB o).toNat) := by rw [immSx_toNat, immB]
    _ = g e := hfg e

/-- A shift whose distance is the immediate (R195), modulo 32 as for a distance in a register. -/
theorem stagesU_of_immediateShift {o : FmtB} {f : Nat → Nat → Nat} {g : Word → Nat → Word} (hx : ∀ s, exec i s = uOpI h o s f)
    (hfg : ∀ a b : Word, toWord (f a.toNat b.toNat) = g a (b.toNat % 32)) :
    StagesU i h fun e => [setS o.d (g (opI e o) (o.imm.toNat % 32))] := by
  have himm : (o.imm.setWidth 32).toNat = o.imm.toNat := BitVec.toNat_setWidth_of_le (by decide)
  refine stagesU_of hx fun e => congrArg (fun v => [setS o.d v]) ?_
  rw [← himm]
  exact hfg (opI e o) (o.imm.setWidth 32)

end

/-- A vector syllable that writes D lane by lane, with the values told otherwise. -/
theorem stagesV_of_setVs {i : Instr} {h : Hdr} {d : Spec} {f g : Env → Nat → Word}
    (hx : ∀ s, exec i s = vSyl h s fun e m => .eff (e.setVs d m (f e))) (hfg : ∀ e l, f e l = g e l) :
    StagesV i h fun e m => e.setVs d m (g e) :=
  stagesV_of hx fun e m => congrArg (e.setVs d m) (funext (hfg e))

theorem elementwise2_of {c : Hdr → FmtA → Instr} {f g : Nat → Nat → Nat → Nat}
    (hx : ∀ h o s, exec (c h o) s = vOp2 false (ewWidth o.ew) h o s (f (ewWidth o.ew)))
    (hfg : ∀ w a b, a < 2 ^ w → b < 2 ^ w → f w a b = g w a b) : Elementwise2 c g := fun h o =>
  stagesV_of_setVs (hx h o) fun e l => by
    simp only [map2_eq, hfg _ _ _ (elem_lt _ _ _) (elem_lt _ _ _), laneA, laneB]

/-- An operation that the model has in the words of the rule. -/
theorem elementwise2_of_eq {c : Hdr → FmtA → Instr} {g : Nat → Nat → Nat → Nat}
    (hx : ∀ h o s, exec (c h o) s = vOp2 false (ewWidth o.ew) h o s (g (ewWidth o.ew))) : Elementwise2 c g :=
  elementwise2_of hx fun _ _ _ _ _ => rfl

theorem elementwiseI_of {c : Hdr → FmtB → Instr} {f g : Nat → Nat → Nat → Nat}
    (hx : ∀ h o s, exec (c h o) s = vOpI h o s (f (ewWidth o.ew))) (hfg : ∀ w a n, f w a n = g w a n) : ElementwiseI c g := fun h o =>
  stagesV_of_setVs (hx h o) fun e l => by simp only [map1_eq, hfg]

/-- The same with an immediate, for an operation that the model has in the words of the rule. -/
theorem elementwiseI_of_eq {c : Hdr → FmtB → Instr} {g : Nat → Nat → Nat → Nat}
    (hx : ∀ h o s, exec (c h o) s = vOpI h o s (g (ewWidth o.ew))) : ElementwiseI c g := elementwiseI_of hx fun _ _ _ => rfl

/-! ## The obligations -/

/-- Settles O1, operation by operation. -/
theorem scalarArithmeticResults : Obligations.ScalarArithmeticResults := by
  unfold Obligations.ScalarArithmeticResults
  refine ⟨fun h o => ⟨?add, ?sub, ?mul, ?mulh, ?mulhu⟩, fun h o => ⟨?and, ?or, ?xor, ?andn, ?shl, ?shr, ?sra⟩,
    fun h o => ⟨?min, ?max, ?minu, ?maxu⟩⟩
  case add => exact stagesU_of_uOp2 (fun _ => rfl) fun _ => word_opAdd _ _
  case sub => exact stagesU_of_uOp2 (fun _ => rfl) fun _ => word_opSub _ _
  case mul => exact stagesU_of_uOp2 (fun _ => rfl) fun _ => word_opMul _ _
  case mulh => exact stagesU_of_uOp2 (fun _ => rfl) fun _ => word_opMulh _ _
  case mulhu => exact stagesU_of_uOp2 (fun _ => rfl) fun _ => rfl
  case and => exact stagesU_of_uOp2 (fun _ => rfl) fun _ => word_and _ _
  case or => exact stagesU_of_uOp2 (fun _ => rfl) fun _ => word_or _ _
  case xor => exact stagesU_of_uOp2 (fun _ => rfl) fun _ => word_xor _ _
  case andn => exact stagesU_of_uOp2 (fun _ => rfl) fun _ => word_opAndn _ _
  case shl => exact stagesU_of_uOp2 (fun _ => rfl) fun _ => word_opShl _ _
  case shr => exact stagesU_of_uOp2 (fun _ => rfl) fun _ => word_opShr _ _
  case sra => exact stagesU_of_uOp2 (fun _ => rfl) fun _ => word_opSra _ _
  case min => exact stagesU_of_uOp2 (fun _ => rfl) fun _ => word_opMin _ _
  case max => exact stagesU_of_uOp2 (fun _ => rfl) fun _ => word_opMax _ _
  case minu => exact stagesU_of_uOp2 (fun _ => rfl) fun _ => word_min _ _
  case maxu => exact stagesU_of_uOp2 (fun _ => rfl) fun _ => word_max _ _

/-- Settles O2: quotients of words, and the opcodes by the view of each constructor. -/
theorem scalarDivisionResults : Obligations.ScalarDivisionResults := by
  unfold Obligations.ScalarDivisionResults
  exact fun h o => ⟨stagesU_of_uOp2 (fun _ => rfl) fun _ => word_opSdiv _ _, stagesU_of_uOp2 (fun _ => rfl) fun _ => word_opSdivu _ _,
    rfl, rfl⟩

/-- Settles O4: the bits of a word are those of its number. -/
theorem scalarBitResults : Obligations.ScalarBitResults := by
  unfold Obligations.ScalarBitResults
  refine fun h o => ⟨?popc, ?clz, ?bfx, ?bfi⟩
  case popc => exact stagesU_of_uOp1 (fun _ => rfl) fun _ => rfl
  case clz => exact stagesU_of_uOp1 (fun _ => rfl) fun _ => congrArg toWord (clz_toNat _)
  case bfx => exact stagesU_of_uOp2 (fun _ => rfl) fun _ => rfl
  case bfi => exact stagesU_of (fun _ => rfl) fun _ => rfl

/-- Settles O5, operation by operation. -/
theorem immediateAndPairResults : Obligations.ImmediateAndPairResults := by
  unfold Obligations.ImmediateAndPairResults
  refine ⟨fun h o => ⟨?addi, ?andi, ?ori, ?xori, ?shli, ?shri, ?srai⟩, ⟨?vaddi, ?vandi, ?vshli, ?vshri, ?vsrai⟩,
    fun h c o => ⟨?sli, ?sliHi, ?sliSx, ?vli, ?vliHi, ?vliSx, ?sadd64, ?vadd64⟩⟩
  case addi => exact stagesU_of_signedImmediate (f := opAdd 32) (fun _ => rfl) fun _ => word_opAdd _ _
  case andi => exact stagesU_of_signedImmediate (f := (· &&& ·)) (fun _ => rfl) fun _ => word_and _ _
  case ori => exact stagesU_of_signedImmediate (f := (· ||| ·)) (fun _ => rfl) fun _ => word_or _ _
  case xori => exact stagesU_of_signedImmediate (f := (· ^^^ ·)) (fun _ => rfl) fun _ => word_xor _ _
  case shli => exact stagesU_of_immediateShift (fun _ => rfl) word_opShl
  case shri => exact stagesU_of_immediateShift (fun _ => rfl) word_opShr
  case srai => exact stagesU_of_immediateShift (fun _ => rfl) word_opSra
  case vaddi => exact elementwiseI_of (f := fun w a n => opAdd w a (immSx w n)) (fun _ _ _ => rfl) opAdd_immSx
  case vandi => exact elementwiseI_of_eq fun _ _ _ => rfl
  case vshli => exact elementwiseI_of (fun _ _ _ => rfl) opShl_eq
  case vshri => exact elementwiseI_of_eq fun _ _ _ => rfl
  case vsrai => exact elementwiseI_of (fun _ _ _ => rfl) fun w a n => by rw [opSra, two_pow_cast]
  case sli => exact stagesU_of (fun _ => rfl) fun _ => rfl
  case sliHi => exact stagesU_of (fun _ => rfl) fun _ => rfl
  case sliSx => exact stagesU_of (fun _ => rfl) fun _ => rfl
  case vli => exact stagesV_of (fun _ => rfl) fun _ _ => rfl
  case vliHi => exact stagesV_of (fun _ => rfl) fun _ _ => rfl
  case vliSx => exact stagesV_of (fun _ => rfl) fun _ _ => rfl
  case sadd64 => exact stagesU_of (fun _ => rfl) fun _ => rfl
  case vadd64 => exact stagesV_of (fun _ => rfl) fun _ _ => rfl

/-- Settles O6, operation by operation. -/
theorem vectorElementResults : Obligations.VectorElementResults := by
  unfold Obligations.VectorElementResults
  refine ⟨⟨?add, ?sub, ?mul, ?mulh, ?mulhu, ?and, ?or, ?xor, ?andn, ?shl, ?shr, ?sra⟩,
    ⟨?min, ?max, ?minu, ?maxu, ?adds, ?addsu, ?subs, ?subsu, ?absd, fun h o => ?mad⟩⟩
  case add => exact elementwise2_of (fun _ _ _ => rfl) fun w a b _ _ => opAdd_eq w a b
  case sub => exact elementwise2_of (fun _ _ _ => rfl) fun _ _ _ _ hb => opSub_eq (Nat.le_of_lt hb)
  case mul => exact elementwise2_of (fun _ _ _ => rfl) fun w a b _ _ => opMul_eq w a b
  case mulh => exact elementwise2_of (fun _ _ _ => rfl) fun w a b _ _ => by rw [opMulh, two_pow_cast]
  case mulhu => exact elementwise2_of_eq fun _ _ _ => rfl
  case and => exact elementwise2_of_eq fun _ _ _ => rfl
  case or => exact elementwise2_of_eq fun _ _ _ => rfl
  case xor => exact elementwise2_of_eq fun _ _ _ => rfl
  case andn => exact elementwise2_of_eq fun _ _ _ => rfl
  case shl => exact elementwise2_of (fun _ _ _ => rfl) fun w a b _ _ => opShl_eq w a b
  case shr => exact elementwise2_of_eq fun _ _ _ => rfl
  case sra => exact elementwise2_of (fun _ _ _ => rfl) fun w a b _ _ => by rw [opSra, two_pow_cast]
  case min => exact elementwise2_of (fun _ _ _ => rfl) fun _ _ _ => opMin_eq
  case max => exact elementwise2_of (fun _ _ _ => rfl) fun _ _ _ => opMax_eq
  case minu => exact elementwise2_of_eq fun _ _ _ => rfl
  case maxu => exact elementwise2_of_eq fun _ _ _ => rfl
  case adds => exact elementwise2_of (fun _ _ _ => rfl) fun w a b _ _ => by rw [opAdds, two_pow_cast]
  case addsu => exact elementwise2_of_eq fun _ _ _ => rfl
  case subs => exact elementwise2_of (fun _ _ _ => rfl) fun w a b _ _ => by rw [opSubs, two_pow_cast]
  case subsu => exact elementwise2_of_eq fun _ _ _ => rfl
  case absd => exact elementwise2_of_eq fun _ _ _ => rfl
  case mad => exact stagesV_of_setVs (fun _ => rfl) fun _ _ => map3_eq _ _ _ _ _

/-- Settles O8, operation by operation. -/
theorem vectorBitAndPackResults : Obligations.VectorBitAndPackResults := by
  unfold Obligations.VectorBitAndPackResults
  refine fun h o => ⟨?mov, ?popc, ?clz, ?bfx, ?bfi, ?dot4, ?pack, ?unpk⟩
  case mov => exact stagesV_of_setVs (fun _ => rfl) fun _ _ => map1_id _ _
  case popc => exact stagesV_of_setVs (fun _ => rfl) fun _ _ => map1_eq _ _ _
  case clz => exact stagesV_of_setVs (fun _ => rfl) fun _ _ => map1_eq _ _ _
  case bfx => exact stagesV_of_setVs (fun _ => rfl) fun _ _ => map2_word _ _ _
  case bfi => exact stagesV_of_setVs (fun _ => rfl) fun _ _ => map3_word _ _ _ _
  case dot4 => exact stagesV_of_setVs (fun _ => rfl) fun _ _ => opDot4_eq _ _ _ _
  case pack => exact stagesV_of (fun _ => rfl) fun _ _ => rfl
  case unpk => exact stagesV_of (fun _ => rfl) fun _ _ => rfl

end Sys2Proof.Safety
end

section
/-! PROOFS. The floating-point, conversion and special-function syllables and the lane exchanges: what each stages in the lanes of IS
(R202 to R224). -/

namespace Sys2Proof.Safety

open Sys2Proof.Machine

/-! ## Forms of the floating-point and exchange syllables -/

/-- A vector syllable whose action always succeeds stages that action's effects. -/
theorem stagesV_of_act {i : Instr} {h : Hdr} {f : Env → Lanes → Act} {g : Env → Lanes → List Eff} (hx : ∀ s, exec i s = vSyl h s f)
    (hfg : ∀ e m, f e m = .eff (g e m)) : StagesV i h g := by
  intro s e he
  rw [hx, vSyl_eq he, hfg]
  rfl

section
variable {i : Instr} {h : Hdr} {o : FmtA}

/-- A floating-point operation of one source, element by element (R209, R218). -/
theorem stagesV_of_floatOp1 {f : Nat → Nat} (hx : ∀ s, exec i s = vOp1 true (formWidth o.ew) h o s f) :
    StagesV i h fun e m => e.setVs o.d m fun l => pack (formWidth o.ew) ((List.range (32 / formWidth o.ew)).map fun k =>
      f (elem (formWidth o.ew) (e.fsrc o o.m1 o.s1 l) k)) :=
  stagesV_of_setVs hx fun _ _ => map1_eq _ _ _

/-- A floating-point operation of two sources, element by element (R207). -/
theorem stagesV_of_floatOp2 {f : Nat → Nat → Nat} (hx : ∀ s, exec i s = vOp2 true (formWidth o.ew) h o s f) :
    StagesV i h fun e m => e.setVs o.d m fun l => pack (formWidth o.ew) ((List.range (32 / formWidth o.ew)).map fun k =>
      f (elem (formWidth o.ew) (e.fsrc o o.m1 o.s1 l) k) (elem (formWidth o.ew) (e.fsrc o o.m2 o.s2 l) k)) :=
  stagesV_of_setVs hx fun _ _ => map2_eq _ _ _ _

end

/-- A syllable of two sources with a mode field rounds each element in the mode of its draw, and takes the draws after (R203 to R205). -/
theorem floatMode2_of {c : Hdr → FmtA → Instr} {f : Mode → FVal → FVal → FVal} (hx : ∀ h o s, exec (c h o) s = fModeOp2 h o s f) :
    FloatMode2 c f := fun h o => stagesV_of_act (fun s => (hx h o s).trans (by rw [fModeOp2, fModeOp])) fun _ _ => rfl

/-! ## The obligations -/

/-- Settles O9, operation by operation: the element-wise ones act place by place, the others stand in the words of their rule. -/
theorem floatArithmeticResults : Obligations.FloatArithmeticResults := by
  unfold Obligations.FloatArithmeticResults
  refine ⟨⟨?add, ?sub, ?mul⟩, fun h o => ⟨?fma, ?min, ?max, ?cmp, ?classify, ?dot⟩⟩
  case add => exact floatMode2_of fun _ _ _ => rfl
  case sub => exact floatMode2_of fun _ _ _ => rfl
  case mul => exact floatMode2_of fun _ _ _ => rfl
  case fma => exact stagesV_of_setVs (fun _ => rfl) fun _ _ => map3_eq _ _ _ _ _
  case min => exact stagesV_of_floatOp2 fun _ => rfl
  case max => exact stagesV_of_floatOp2 fun _ => rfl
  case cmp =>
    refine stagesV_of_act (fun s => show execFcmp h o s = _ from rfl) fun e m => ?_
    simp only [allPairs_eq, Env.fval]
  case classify => exact stagesV_of_floatOp1 fun _ => rfl
  case dot => exact stagesV_of_act (fun _ => rfl) fun _ _ => rfl

/-- Settles O10: each conversion stands in the words of its rule, the draws after the values. -/
theorem floatConversionResults : Obligations.FloatConversionResults := by
  unfold Obligations.FloatConversionResults
  refine fun h o => ⟨?fcvt, ?fcvti, ?icvtf, ?fmaxk, ?fmxq, ?fmxd⟩
  case fcvt => exact stagesV_of_act (fun _ => rfl) fun _ _ => rfl
  case fcvti => exact stagesV_of_act (fun _ => rfl) fun _ _ => rfl
  case icvtf => exact stagesV_of_act (fun _ => rfl) fun _ _ => rfl
  case fmaxk => exact stagesV_of_act (fun _ => rfl) fun _ _ => rfl
  case fmxq => exact stagesV_of_act (fun _ => rfl) fun _ _ => rfl
  case fmxd => exact stagesV_of_act (fun _ => rfl) fun _ _ => rfl

/-- Settles O11: each function acts place by place, and SFTWID on whole registers. -/
theorem specialFunctionResults : Obligations.SpecialFunctionResults := by
  unfold Obligations.SpecialFunctionResults
  refine fun h o => ⟨?sin, ?cos, ?exp2, ?log2, ?rcp, ?rsq, ?sqrt, ?twid⟩
  case sin => exact stagesV_of_floatOp1 fun _ => rfl
  case cos => exact stagesV_of_floatOp1 fun _ => rfl
  case exp2 => exact stagesV_of_floatOp1 fun _ => rfl
  case log2 => exact stagesV_of_floatOp1 fun _ => rfl
  case rcp => exact stagesV_of_floatOp1 fun _ => rfl
  case rsq => exact stagesV_of_floatOp1 fun _ => rfl
  case sqrt => exact stagesV_of_floatOp1 fun _ => rfl
  case twid => exact stagesV_of_act (fun _ => rfl) fun _ _ => rfl

/-- Settles O13: each exchange stands in the words of its rule, in the segment of the lane. -/
theorem laneExchangeResults : Obligations.LaneExchangeResults := by
  unfold Obligations.LaneExchangeResults
  refine fun h o => ⟨?shf, ?bfly, ?up, ?dn, ?bcast, ?red, ?scan, ?ballot, ?vote⟩
  case shf => exact stagesV_of_act (fun _ => rfl) fun _ _ => rfl
  case bfly => exact stagesV_of_act (fun _ => rfl) fun _ _ => rfl
  case up => exact stagesV_of_act (fun _ => rfl) fun _ _ => rfl
  case dn => exact stagesV_of_act (fun _ => rfl) fun _ _ => rfl
  case bcast => exact stagesV_of_act (fun _ => rfl) fun _ _ => rfl
  case red => exact stagesV_of_act (fun _ => rfl) fun _ _ => rfl
  case scan => exact stagesV_of_act (fun _ => rfl) fun _ _ => rfl
  case ballot => exact stagesV_of_act (fun _ => rfl) fun _ _ => rfl
  case vote => exact stagesV_of_act (fun _ => rfl) fun _ _ => rfl

end Sys2Proof.Safety
end

section
/-! PROOFS. Translations, loads and stores, and the table engine: what the walks of an access leave (R226, R236, R240), what a load or a
store that passes its checks stages (R252 to R255), and what a table update, its acknowledgement and a refill answer (R237 to R243). -/

namespace Sys2Proof.Machine

/-! ## The walks of an access -/

/-- The lanes of an access translate one after another, and each translation binds pages and does nothing else. -/
theorem State.binds_placesOf (s : State) (x : Block) (sp n : Nat) (k : XKind) (more : Place → Option XFault) (addr : Nat → Int × Nat)
    (uniform : Bool) (lanes : List Nat) : Binds s (s.placesOf x sp n k more addr uniform lanes).1 := by
  induction lanes generalizing s with
  | nil => exact Binds.refl s
  | cons l ls ih =>
    have first := s.binds_address x sp (addr l).1 (addr l).2 n n k
    unfold State.placesOf
    dsimp only
    split
    · next h => rwa [h] at first
    · next h =>
      rw [h] at first
      split
      · exact first
      · exact first.trans (ih _)

/-! ## Accesses that pass their checks -/

/-- No byte that an access reaches holds it, and no lane fails: it stages what its places give, and visits their pages. -/
theorem Env.access_of_reaches {e : Env} {sp : BitVec 2} {n : Nat} {k : XKind} {more : Place → Option XFault} {addr : Nat → Int × Nat}
    {uniform : Bool} {lanes : List Nat} {t : State} {ps : List Place} (h : Safety.Reaches e sp n k more addr uniform lanes t ps)
    (f : State → List Place → List Eff) :
    e.access sp.toNat n k more addr uniform lanes f = (if sp = 0 then ps.map fun p => p.addr.toNat else [], .eff (f t ps)) := by
  obtain ⟨places, raw, clear⟩ := h
  have free : ((lanes.any fun l => e.rawInSpan sp.toNat n (addr l)) ||
      ps.any fun p => e.s.inSpan e.x.core e.x.ctx n p || (k = .load && e.atomicAhead n p)) = false := by
    simpa using ⟨raw, clear⟩
  have global : sp.toNat ≠ 0 ↔ ¬sp = 0 := not_congr (BitVec.toNat_inj (x := sp) (y := 0))
  simp [Env.access, places, free, touched, global, ite_not]

/-- A memory syllable whose lanes pass their checks stages the effects of its access. -/
theorem mSyl_of_reaches {s t : State} {e : Env} {h : Hdr} {sp : BitVec 2} {n : Nat} {k : XKind} {more : Place → Option XFault}
    {addr : Env → Nat → Int × Nat} {uniform : Bool} {lanes : Lanes → List Nat} {f : Env → State → List Place → List Eff} {ps : List Place}
    (he : s.env = some e) (hm : e.issueSet h ≠ 0)
    (hr : Safety.Reaches e sp n k more (addr e) uniform (lanes (e.issueSet h)) t ps) :
    mSyl h s (fun e m => e.access sp.toNat n k more (addr e) uniform (lanes m) (f e)) =
      .next (s.stageSyl h.e (Safety.Visits e sp ps) 3 (.eff (f e t ps))) := by
  rw [mSyl_eq he, if_neg hm, Env.access_of_reaches hr]
  rfl

section
variable {s t : State} {e : Env} {h : Hdr} {o : FmtM} {n : Nat} {ps : List Place} (he : s.env = some e) (hm : e.issueSet h ≠ 0)
include he hm

theorem loadSyl_of_reaches {signed : Bool}
    (hr : Safety.Reaches e o.sp n .load (fun _ => none) (e.formAddr o.sp o.b (offOf o)) false (lanesOf (e.issueSet h)) t ps) :
    loadSyl h o n signed s = .next (s.stageSyl h.e (Safety.Visits e o.sp ps) 3
      (.eff (e.loadEffs o n signed (fun lane k w => .v (e.phys (o.d.toNat + k)) (lane.getD 0) w) t ps))) :=
  mSyl_of_reaches (addr := fun e => e.formAddr o.sp o.b (offOf o)) (lanes := lanesOf)
    (f := fun e => e.loadEffs o n signed fun lane k w => .v (e.phys (o.d.toNat + k)) (lane.getD 0) w) he hm hr

theorem uniLoadSyl_of_reaches
    (hr : Safety.Reaches e o.sp n .load (fun _ => none) (e.formAddr o.sp o.b (offOf o)) true [0] t ps) :
    uniLoadSyl h o n s = .next (s.stageSyl h.e (Safety.Visits e o.sp ps) 3
      (.eff (e.loadEffs o n false (fun _ k w => .s (o.d.toNat + k - 128) w) t ps))) :=
  mSyl_of_reaches (addr := fun e => e.formAddr o.sp o.b (offOf o)) (lanes := fun _ => [0])
    (f := fun e => e.loadEffs o n false fun _ k w => .s (o.d.toNat + k - 128) w) he hm hr

theorem storeSyl_of_reaches
    (hr : Safety.Reaches e o.sp n .store (fun _ => none) (e.formAddr o.sp o.b (offOf o)) false (lanesOf (e.issueSet h)) t ps) :
    storeSyl h o n s = .next (s.stageSyl h.e (Safety.Visits e o.sp ps) 3 (.eff (e.storeEffs o n t ps))) :=
  mSyl_of_reaches (addr := fun e => e.formAddr o.sp o.b (offOf o)) (lanes := lanesOf) (f := fun e => e.storeEffs o n) he hm hr

theorem uniStoreSyl_of_reaches
    (hr : Safety.Reaches e o.sp n .store (fun _ => none) (e.formAddr o.sp o.b (offOf o)) true [0] t ps) :
    uniStoreSyl h o n s = .next (s.stageSyl h.e (Safety.Visits e o.sp ps) 3 (.eff (e.storeEffs o n t ps))) :=
  mSyl_of_reaches (addr := fun e => e.formAddr o.sp o.b (offOf o)) (lanes := fun _ => [0]) (f := fun e => e.storeEffs o n) he hm hr

end

/-! ## Requests to the table engine -/

section
variable {s : State} {r : TableReq} {a : Nat}

/-- A context that exists, with a table on every level above the entry, and a group replaced by a group only: the engine accepts what its
compare and its checks allow (R237, R238). -/
theorem State.accepts_eq (hc : s.ctxExists r.ctx = true) (ha : s.entryAddr r.va.toNat r.level 5 0 (rootOf (s.ctx r.ctx).ptbase) = some a)
    (hg : pteG r.expect = true → r.group = true) :
    s.accepts r = if s.updateOk r = true ∧ ∀ m ∈ groupEntries a r.group, s.num m 8 = r.expect.toNat
      then some (groupEntries a r.group) else none := by
  have whole : (pteG r.expect && !r.group) = false := by simpa using hg
  have refuses : ((groupEntries a r.group).any (fun m => decide (s.num m 8 ≠ r.expect.toNat)) || !s.updateOk r) = true ↔
      ¬(s.updateOk r = true ∧ ∀ m ∈ groupEntries a r.group, s.num m 8 = r.expect.toNat) := by
    simp [imp_iff_not_or, or_comm]
  rw [State.accepts, State.entriesOf, ha]
  simp only [hc, whole, refuses, Option.map_some, Bool.not_true, Bool.false_eq_true, if_false, Bool.or_false, ite_not]

theorem State.beginUpdate_refused (h : s.accepts r = none) : s.beginUpdate r = (s, none) := by simp [State.beginUpdate, h]

theorem State.beginUpdate_accepted {es : List Nat} (h : s.accepts r = some es) :
    s.beginUpdate r =
      let t := (es.foldl (fun t m => t.writeEntry m r.new) s).pinNew r
      if needsShootdown r.expect r.new then
        (t.shootdown r.ctx (coverOf r r.expect).1 (coverOf r r.expect).2, some ⟨r, true, s.inFlight⟩)
      else (t.unpinOld r, none) := by simp [State.beginUpdate, h]

/-- With no request standing, a request begins in its own step. -/
theorem execTableUpdate_alone (h : s.updates = []) :
    execTableUpdate r s = .next { (s.beginUpdate r).1 with updates := (s.beginUpdate r).2.toList } := by
  have none_standing : { s with updates := [] } = s := by rw [← h]
  simp [execTableUpdate, State.runUpdates, State.ackUpdates, State.beginUpdates, h, none_standing]

theorem State.unpinOld_updates : (s.unpinOld r).updates = s.updates := by
  unfold State.unpinOld
  split <;> rfl

/-- The one request that stands is acknowledged when no access from before its shootdown is left (R239). -/
theorem State.runUpdates_acknowledges {l : List (Nat × Nat × Nat)} (h : s.updates = [⟨r, true, l⟩]) (done : ∀ a ∈ l, a ∉ s.inFlight) :
    s.runUpdates = { ({ s with updates := [] } : State).unpinOld r with updates := [] } := by
  have left : l.filter s.inFlight.contains = [] := by simpa using done
  simp [State.runUpdates, State.ackUpdates, State.beginUpdates, h, left, State.unpinOld_updates]

end

end Sys2Proof.Machine

namespace Sys2Proof.Safety

open Sys2Proof.Machine

/-- Settles O56: the walks of an access bind pages, and with every pool as it was they leave memory. -/
theorem translationKeepsRegisters : Obligations.TranslationKeepsRegisters := by
  unfold Obligations.TranslationKeepsRegisters
  intro s x sp n k more addr uniform lanes
  have binds := s.binds_placesOf x sp n k more addr uniform lanes
  exact ⟨binds.regs, binds.mtx, binds.cur, binds.time, binds.agenda, binds.blocks, fun pools => (binds.same pools).1⟩

/-- Settles O18, width by width: each is one access, for the lanes of the issue set or once. -/
theorem loadAndStoreResults : Obligations.LoadAndStoreResults := by
  unfold Obligations.LoadAndStoreResults
  refine ⟨fun h o s t e ps he hm => ⟨?ldb, ?ldbz, ?ldh, ?ldhz, ?ldw, ?ldd, ?ldq, ?sldw, ?sldd⟩,
    fun h o s t e ps he hm => ⟨?stb, ?sth, ?stw, ?std, ?stq, ?sstw, ?sstd⟩⟩
  case ldb => exact loadSyl_of_reaches he hm
  case ldbz => exact loadSyl_of_reaches he hm
  case ldh => exact loadSyl_of_reaches he hm
  case ldhz => exact loadSyl_of_reaches he hm
  case ldw => exact loadSyl_of_reaches he hm
  case ldd => exact loadSyl_of_reaches he hm
  case ldq => exact loadSyl_of_reaches he hm
  case sldw => exact uniLoadSyl_of_reaches he hm
  case sldd => exact uniLoadSyl_of_reaches he hm
  case stb => exact storeSyl_of_reaches he hm
  case sth => exact storeSyl_of_reaches he hm
  case stw => exact storeSyl_of_reaches he hm
  case std => exact storeSyl_of_reaches he hm
  case stq => exact storeSyl_of_reaches he hm
  case sstw => exact uniStoreSyl_of_reaches he hm
  case sstd => exact uniStoreSyl_of_reaches he hm

/-- Settles O28: a request alone begins in its own step, the engine accepts it or not, and what stands is acknowledged later. -/
theorem tableEvents : Obligations.TableEvents := by
  unfold Obligations.TableEvents
  refine fun s r => ⟨fun alone a hc ha hg => ⟨fun ok same => ⟨fun kept => ?at_once, fun shot => ?shot_down⟩, fun refused => ?refused⟩,
    fun l standing done => State.runUpdates_acknowledges standing done, fun die size frames hd hs => ?refill⟩
  case at_once =>
    have accepted := (State.accepts_eq hc ha hg).trans (if_pos ⟨ok, same⟩)
    refine (execTableUpdate_alone alone).trans ?_
    simp [State.beginUpdate_accepted accepted, kept]
  case shot_down =>
    have accepted := (State.accepts_eq hc ha hg).trans (if_pos ⟨ok, same⟩)
    refine (execTableUpdate_alone alone).trans ?_
    simp [State.beginUpdate_accepted accepted, shot]
  case refused =>
    have rejected : s.accepts r = none := (State.accepts_eq hc ha hg).trans (if_neg fun ⟨ok, same⟩ =>
      refused.elim (by simp [ok]) fun ⟨m, hm, differs⟩ => differs (same m hm))
    refine (execTableUpdate_alone alone).trans ?_
    simp [State.beginUpdate_refused rejected, ← alone]
  case refill => exact if_neg (by omega)

end Sys2Proof.Safety
end

section
/-! PROOFS. What an access writes as it is performed: the bytes of a store or of an atomic and no other byte, and no byte where data returns
to a wave (R253, R260, R307, R329, R332). -/

namespace Sys2Proof.Machine

/-! ## One write of bytes -/

/-- From s to t the bytes at an address have been written, but for those of device registers; no other byte, no register and no matrix
state has changed. -/
structure Writes (s t : State) (pa : Nat) (bs : List Byte) : Prop where
  inside : ∀ i, i < bs.length → isMmio (pa + i) = false → t.byte (pa + i) = bs.getD i 0
  outside : ∀ a, a < pa ∨ pa + bs.length ≤ a → t.byte a = s.byte a
  regs : ∀ b w, t.regs? b w = s.regs? b w
  mtx : ∀ b, t.mtx? b = s.mtx? b

/-- A step that leaves every byte has written none. -/
theorem Still.writes_nil {s t : State} (h : Still s t) (pa : Nat) : Writes s t pa [] :=
  ⟨fun _ hi => absurd hi (Nat.not_lt_zero _), fun a _ => h.sameMemory a, h.regs, h.mtx⟩

/-- One write between steps that leave every byte. -/
theorem Still.writes {s t u : State} {ctx pa : Nat} {bs : List Byte} (before : Still s t) (after : Still (t.write ctx pa bs) u) :
    Writes s u pa bs where
  inside i hi hm := by
    rw [after.sameMemory, State.byte_write_in _ _ _ _ _ hi hm, List.getD_eq_getElem?_getD, List.getElem?_eq_getElem hi, Option.getD_some]
  outside a ha := by rw [after.sameMemory, State.byte_write_out _ _ _ _ _ ha, before.sameMemory]
  regs b w := (after.regs b w).trans (before.regs b w)
  mtx b := (after.mtx b).trans (before.mtx b)

/-! ## What surrounds the write -/

section
variable (s : State)

/-- A change of a wave that leaves its registers. -/
theorem Still.modWave {s t : State} (h : Still s t) {b w : Nat} {f : Wave → Wave} (hf : ∀ y, (f y).regs = y.regs) :
    Still s (t.modWave b w f) :=
  h.trans (t.quiet_modWave b w f hf).still

/-- Accesses of a scope are performed there, those of another later. -/
theorem Still.performIf {s t : State} (h : Still s t) {c : Prop} [Decidable c] {b w sid : Nat} :
    Still s (if c then t.modWave b w fun y => y.perform sid else t) :=
  .ite (h.modWave fun _ => rfl) h

theorem Still.settleCore {s t : State} (h : Still s t) {n : Nat} : Still s (t.settleCore n) := h.trans (t.quiet_settleCore n).still

theorem State.still_noteBad (b w sid : Nat) (l : List BadData) : Still s (s.noteBad b w sid l) :=
  .ite (.refl s) ((Still.refl s).modWave fun _ => rfl)

theorem State.still_answerAtomic (f : FabricEntry) (n lane old : Nat) (dst : Option Nat) (bad : List BadData) :
    Still s (s.answerAtomic f n lane old dst bad) := by
  cases dst with
  | some p => exact (Still.refl s).modWave fun _ => rfl
  | none => exact (s.still_noteBad _ _ _ _).modWave fun _ => rfl

theorem State.still_errorsFound (pa n : Nat) : Still s (s.errorsFound pa n) :=
  .foldl (fun t g => .ite (.elsewhere (by rfl)) (.refl t)) _ s

/-- The head of a store queue leaves it. -/
theorem State.still_popStore {b w : Nat} {y : Wave} (hy : s.wave? b w = some y) (r : List StoreEntry) :
    Still s (s.setWave b w { y with storeq := r }) :=
  (s.quiet_setWave b w y { y with storeq := r } hy rfl).still

end

/-! ## Stores and atomics -/

/-- A store that leaves its queue writes its bytes where they are of the core's own scratchpad, and none elsewhere. -/
theorem writes_storePerform_leave {s : State} {b w : Nat} {x : Block} {y : Wave} {q : StoreEntry} {r : List StoreEntry} {sp home pa : Nat}
    {bs : List Byte} (hx : s.block? b = some x) (hy : s.wave? b w = some y) (hr : y.storeq = q :: r) (hk : q.kind = .bytes sp home pa bs)
    (released : q.rel = true → s.released x.core y q.sid q.scope = true) (alone : s.primaryAhead q = false) :
    ∃ t, exec (.storePerform (.leave b w)) s = .next t ∧ Writes s t pa (if s.writesHere x.core pa then bs else []) := by
  have popped := s.still_popStore hy r
  cases here : s.writesHere x.core pa with
  | true =>
    have done (t : State) : Still t (t.modWave b w fun z => z.perform q.sid) := (Still.refl t).modWave fun _ => rfl
    exact ⟨_, exec_storePerform_leave_here hx hy hr hk released alone here, popped.writes (done _).settleCore⟩
  | false =>
    have sent : Still s (((s.setWave b w { y with storeq := r }).updateLine x.core q.ctx pa bs q.clears).sendFabric b w x q pa) :=
      popped.modCore.modCore
    exact ⟨_, exec_storePerform_leave_fabric hx hy hr hk released alone here, sent.performIf.settleCore.writes_nil pa⟩

section
variable {s : State} {core k : Nat} {f : FabricEntry} (hf : s.laneHead core k = some f)
include hf

/-- A store at its executing point writes its bytes. -/
theorem writes_storePerform_arrive {sp home pa : Nat} {bs : List Byte} (hk : f.e.kind = .bytes sp home pa bs) (hpa : region pa ≠ .none)
    (alive : s.dieGone pa = none) : ∃ t, exec (.storePerform (.arrive core k)) s = .next t ∧ Writes s t pa bs := by
  have gone : Still s (s.dropFabric core k) := (Still.refl s).modCore
  have cleared (t : State) : Still t (t.clearPoison f.e.clears) := .elsewhere (by rfl)
  exact ⟨_, exec_storePerform_arrive_written hf hk hpa alive, gone.writes (cleared _).performIf.settleCore⟩

/-- An atomic at its executing point writes the new value of its location. -/
theorem writes_atomicPerform {sp home pa n : Nat} {op : AOp} {a b : BitVec 128} {lane : Nat} {dst : Option Nat}
    (hk : f.e.kind = .atomic sp home pa n op a b lane dst) (hpa : region pa ≠ .none) (hh : region pa ≠ .host) (alive : s.dieGone pa = none) :
    ∃ t, exec (.atomicPerform core k) s = .next t ∧
      Writes s t pa (leBytes n (atomicNew op n ((s.atomicArrived core k pa).atomicOld core f pa n) a.toNat b.toNat)) := by
  refine ⟨s.runAtomic core k f pa n op a b lane dst, ?runs, ?writes⟩
  case runs =>
    change execAtomicPerform core k s = _
    cases hr : region pa with
    | none => exact absurd hr hpa
    | host => exact absurd hr hh
    | hbm | scratch | mmio => simp only [execAtomicPerform, hf, hk, hr]
  case writes =>
    have arrived : Still s (s.atomicArrived core k pa) := .elsewhere (by simp [State.atomicArrived, State.dropFabric, State.dropLines])
    have alive' : (s.atomicArrived core k pa).dieGone pa = none := alive
    rw [State.atomicArrived] at alive'
    simp only [State.runAtomic, alive']
    exact (arrived.trans (State.still_errorsFound _ _ _)).writes (State.still_answerAtomic _ _ _ _ _ _ _).settleCore

end

/-! ## Data that returns -/

theorem State.regs?_setWave_ne (s : State) {b w a v : Nat} (z : Wave) (h : ¬(a = b ∧ v = w)) (hb : (s.block? b).isSome) :
    (s.setWave b w z).regs? a v = s.regs? a v := by
  rw [State.regs?, State.wave?_setWave _ _ _ _ _ _ hb, if_neg h, State.regs?]

theorem State.mtx?_setWave (s : State) (b w a : Nat) (z : Wave) : (s.setWave b w z).mtx? a = s.mtx? a := by
  unfold State.setWave State.mtx?
  rw [State.block?_modBlock]
  split
  · next h => subst h; cases s.block? a <;> rfl
  · rfl

/-- Data that returns changes no byte and no register but those of its wave. -/
theorem exec_loadReturn_frame (s : State) (b w k : Nat) : ∃ t, exec (.loadReturn b w k) s = .next t ∧ Safety.SameMemory s t ∧
    (∀ a v, ¬(a = b ∧ v = w) → t.regs? a v = s.regs? a v) ∧ ∀ a, t.mtx? a = s.mtx? a := by
  change ∃ t, execLoadReturn b w k s = .next t ∧ _
  have nothing : ∃ t, (.next s : Out) = .next t ∧ Safety.SameMemory s t ∧
      (∀ a v, ¬(a = b ∧ v = w) → t.regs? a v = s.regs? a v) ∧ ∀ a, t.mtx? a = s.mtx? a :=
    ⟨s, rfl, fun _ => rfl, fun _ _ _ => rfl, fun _ => rfl⟩
  unfold execLoadReturn
  split
  · exact nothing
  · next y hy =>
    split
    · exact nothing
    · next o _ =>
      obtain ⟨x, hx⟩ := State.wave?_isSome hy
      refine ⟨_, rfl, ?_⟩
      generalize Wave.perform _ o.sid = z
      have after : Still (s.setWave b w z) (((s.setWave b w z).noteBad b w o.sid o.bad).settle b) :=
        (State.still_noteBad _ _ _ _ _).trans (State.quiet_settle _ b).still
      refine ⟨fun a => ?_, fun a v h => ?_, fun a => ?_⟩
      · rw [after.sameMemory]
        exact State.byte_congr (by simp) (by simp) (by simp) a
      · rw [after.regs, State.regs?_setWave_ne _ _ h (by simp [hx])]
      · rw [after.mtx, State.mtx?_setWave]

/-! ## The obligation -/

/-- Settles O55: every access writes once, between steps that leave every byte. -/
theorem storesAndAtomicsChangeOnlyTheirBytes : Obligations.StoresAndAtomicsChangeOnlyTheirBytes := by
  unfold Obligations.StoresAndAtomicsChangeOnlyTheirBytes
  intro s core k only
  have of_writes {t : State} {pa : Nat} {bs : List Byte} (h : Writes s t pa bs) : only t pa bs := ⟨h.inside, h.outside, h.regs, h.mtx⟩
  refine ⟨fun f sp h pa bs hf hk hpa alive => ?arrives, fun b w x y q r sp h pa bs hx hy hr hk released alone => ?leaves,
    fun f sp h pa n op a b lane dst hf hk hpa hh alive => ?atomic, fun b w => exec_loadReturn_frame s b w k⟩
  case arrives =>
    obtain ⟨t, ht, hw⟩ := writes_storePerform_arrive hf hk hpa alive
    exact ⟨t, ht, of_writes hw⟩
  case leaves =>
    obtain ⟨t, ht, hw⟩ := writes_storePerform_leave hx hy hr hk released alone
    exact ⟨t, ht, of_writes hw⟩
  case atomic =>
    obtain ⟨t, ht, hw⟩ := writes_atomicPerform hf hk hpa hh alive
    exact ⟨t, _, ht, of_writes hw, State.atomicOld_atomicArrived⟩

end Sys2Proof.Machine
end

section
/-! PROOFS. Taking an exception: the stop registers of the waves, the stop of the block, and what a privileged wave's cause becomes (R379 to
R385, R390). -/

namespace Sys2Proof.Machine

/-! ## The stop of a block (R379, R381, R415) -/

theorem Block.switch_withdraw (x : Block) : x.withdraw.switch = none := by
  unfold Block.withdraw
  split
  · assumption
  · rfl

theorem Block.addStop_switch (x : Block) (c : Nat) (l : List FaultRec) : (x.addStop c l).switch = none := by
  unfold Block.addStop
  dsimp only
  split
  · exact x.switch_withdraw
  · split <;> exact x.switch_withdraw

section
variable {x : Block} {st : Stop} (hs : x.stop = some st)
include hs

/-- A block that stops already takes the records into its stop. -/
theorem Block.addStop_stopped (c : Nat) (l : List FaultRec) : ∃ st', (x.addStop c l).stop = some st' ∧ st'.records = st.records ++ l := by
  simp only [Block.addStop, x.withdraw_stop, hs]
  split
  · exact ⟨_, rfl, rfl⟩
  · exact ⟨_, rfl, rfl⟩

theorem Block.addStop_stopped_waves (c : Nat) (l : List FaultRec) : (x.addStop c l).waves = x.waves := by
  simp only [Block.addStop, x.withdraw_stop, hs]
  split <;> exact x.withdraw_waves.1

end

/-! ## The stop registers of a wave (R382 to R384) -/

/-- What a wave shows of the exception that it took. -/
def Wave.shown (y : Wave) : Word × Word × DWord × DWord := (y.cause, y.fmask, y.faddr, y.fdet)

theorem State.stopRegs?_of_block {s : State} {b : Nat} {x : Block} (hx : s.block? b = some x) (w : Nat) :
    s.stopRegs? b w = (x.waves.find? w).map Wave.shown := by
  rw [State.stopRegs?, State.wave?_of_block s hx]
  rfl

section
variable (y : Wave) (c : Nat) (m : Word) (a d : DWord)

/-- The first cause of a stop is shown. -/
theorem Wave.shown_setStop (h : y.cause = 0) : (y.setStop c m a d).shown = (toWord c, m, a, d) := by
  rw [Wave.setStop, if_pos h, Wave.shown]

/-- A later one is not. -/
theorem Wave.setStop_of_cause (h : y.cause ≠ 0) : y.setStop c m a d = y := if_neg h

end

/-! ## Taking an exception -/

/-- The state in which a cause of a wave of block b has become a DOUBLE_FAULT, if the block is privileged, and t otherwise. -/
def State.escalate (t : State) (x : Block) (r : FaultRec) : State := if x.priv then t.doubleFault (dieOf x.core) r else t

section
variable (t : State) (x : Block) (r : FaultRec)

theorem State.block?_escalate (b : Nat) : (t.escalate x r).block? b = t.block? b := by
  unfold State.escalate
  split <;> rfl

theorem State.agenda_escalate :
    (t.escalate x r).agenda = (if x.priv then [.doubleFault (dieOf x.core) (BitVec.ofNat 6 r.cause)] else []) ++ t.agenda := by
  unfold State.escalate
  split <;> rfl

/-- The record of the cause that becomes a DOUBLE_FAULT is kept, unless one is kept already. -/
theorem State.double_escalate (d : Nat) : ((t.escalate x r).die d).double =
    if x.priv = true ∧ d = dieOf x.core then (t.die d).double.or (some r) else (t.die d).double := by
  unfold State.escalate
  by_cases hp : x.priv = true
  · simp only [hp, if_true, true_and, State.doubleFault]
    by_cases hd : d = dieOf x.core
    · rw [if_pos hd, hd]
      exact congrArg Die.double (t.die_modDie (dieOf x.core) fun d => { d with double := d.double.or (some r) })
    · rw [if_neg hd]
      exact congrArg Die.double (t.die_modDie_ne (fun d => { d with double := d.double.or (some r) }) hd)
  · simp [hp]

end

section
variable {s : State} {b w : Nat} {x : Block} {y : Wave} (hx : s.block? b = some x) (hy : x.waves.find? w = some y)
include hx hy

/-- Taking an exception stops the block, writes the stop registers of the wave, and goes on to the monitor if the wave is privileged. -/
theorem State.stopWave_eq (c : Nat) (fl : BitVec 4) (m : Word) (a d : DWord) (n : Nat) :
    s.stopWave b w c fl m a d n =
      let r := s.recordB (x.seenBy y) c fl (m.extractLsb' 0 5) a d w n
      ((s.stopBlock b c [r]).modWave b w fun z => z.setStop c m a d).escalate x r := by
  simp only [State.stopWave, hx, hy, Option.elim_some]
  rfl

/-- The block after a wave of it has taken an exception: z is its wave as the stop of the block left it. -/
theorem State.block?_stopWave_of {c : Nat} {fl : BitVec 4} {m : Word} {a d : DWord} {n : Nat} {z : Wave}
    (hz : (x.addStop c [s.recordB (x.seenBy y) c fl (m.extractLsb' 0 5) a d w n]).waves.find? w = some z) :
    (s.stopWave b w c fl m a d n).block? b =
      some ((x.addStop c [s.recordB (x.seenBy y) c fl (m.extractLsb' 0 5) a d w n]).setWave w (z.setStop c m a d)) := by
  rw [State.stopWave_eq hx hy, State.block?_escalate]
  exact State.block?_modWave (by simp [State.stopBlock, State.block?_modBlock, hx]) hz _

theorem State.agenda_stopWave (c : Nat) (fl : BitVec 4) (m : Word) (a d : DWord) (n : Nat) : (s.stopWave b w c fl m a d n).agenda =
    (if x.priv then [.doubleFault (dieOf x.core) (BitVec.ofNat 6 c)] else []) ++ s.agenda := by
  rw [State.stopWave_eq hx hy, State.agenda_escalate]
  simp [State.stopBlock, State.recordB]

theorem State.double_stopWave (c : Nat) (fl : BitVec 4) (m : Word) (a d : DWord) (n k : Nat) :
    ((s.stopWave b w c fl m a d n).die k).double =
      if x.priv = true ∧ k = dieOf x.core
        then (s.die k).double.or (some (s.recordB (x.seenBy y) c fl (m.extractLsb' 0 5) a d w n)) else (s.die k).double := by
  rw [State.stopWave_eq hx hy, State.double_escalate]
  simp [State.stopBlock, State.die]

end

/-! ## The obligation -/

/-- Settles O51: the block either begins its stop, which clears its waves' causes, or joins it, which leaves them. -/
theorem exceptionsSaveTheirCause : Obligations.ExceptionsSaveTheirCause := by
  unfold Obligations.ExceptionsSaveTheirCause
  intro s b w c n fl m a d x y hx hy t r
  have rest : t.agenda = (if x.priv then [.doubleFault (dieOf x.core) (BitVec.ofNat 6 c)] else []) ++ s.agenda ∧
      (∀ k, (t.die k).double = if x.priv = true ∧ k = dieOf x.core then (s.die k).double.or (some r) else (s.die k).double) ∧ Quiet s t :=
    ⟨State.agenda_stopWave hx hy .., State.double_stopWave hx hy c fl m a d n, s.quiet_stopWave b w c fl m a d n⟩
  cases hs : x.stop with
  | none =>
    have block : t.block? b = some ((x.addStop c [r]).setWave w (y.clearStop.setStop c m a d)) := State.block?_stopWave hx hy hs ..
    refine ⟨fun _ => ?shows, fun _ v z hv hz => ?cleared, by simp, ⟨_, block, Block.addStop_switch x c [r], fun _ => ?begins, by simp⟩, rest⟩
    case shows => rw [State.stopRegs?_of_block block, Block.find?_setWave, Option.map_some, Wave.shown_setStop _ _ _ _ _ rfl]
    case cleared =>
      rw [State.stopRegs?_of_block block, Block.setWave, Table.find?_put_ne _ _ hv, Block.addStop_running hs, Table.find?_map, hz]
      rfl
    case begins => rw [Block.setWave, Block.addStop_running hs]
  | some st =>
    have stands : (x.addStop c [r]).waves.find? w = some y := by rw [Block.addStop_stopped_waves hs, hy]
    have block : t.block? b = some ((x.addStop c [r]).setWave w (y.setStop c m a d)) := State.block?_stopWave_of hx hy stands
    refine ⟨fun h => ?shows, by simp, fun _ _ hc => ?kept, ⟨_, block, Block.addStop_switch x c [r], by simp, fun st' h => ?joins⟩, rest⟩
    case shows =>
      have hc : y.cause = 0 := h.resolve_left (by simp)
      rw [State.stopRegs?_of_block block, Block.find?_setWave, Option.map_some, Wave.shown_setStop _ _ _ _ _ hc]
    case kept =>
      rw [State.stopRegs?_of_block block, Block.find?_setWave, State.stopRegs?_of_block hx, hy, Wave.setStop_of_cause _ _ _ _ _ hc]
    case joins =>
      obtain rfl := Option.some.inj h
      exact Block.addStop_stopped hs c [r]

end Sys2Proof.Machine
end

section
/-! PROOFS. Fences and system syllables, cache operations, reply queues, TSCL and atomics: what each stages where its checks pass (R256 to
R264, R304, R338, R369, R391, R392). -/

namespace Sys2Proof.Machine

/-! ## Memory syllables with lanes -/

/-- A memory syllable whose issue set holds a lane stages its act, and its bundle notes what it has translated. -/
theorem mSyl_acts {s : State} {e : Env} {h : Hdr} {f : Env → Lanes → List Nat × Act} {vas : List Nat} {a : Act} (he : s.env = some e)
    (hm : e.issueSet h ≠ 0) (hf : f e (e.issueSet h) = (vas, a)) : mSyl h s f = .next (s.stageSyl h.e (e.iu.touching vas) 3 a) := by
  rw [mSyl_eq he, if_neg hm, hf]
  rfl

/-- One that translates nothing that its bundle notes. -/
theorem mSyl_acts_untouched {s : State} {e : Env} {h : Hdr} {f : Env → Lanes → List Nat × Act} {a : Act} (he : s.env = some e)
    (hm : e.issueSet h ≠ 0) (hf : f e (e.issueSet h) = ([], a)) : mSyl h s f = .next (s.stageSyl h.e e.iu 3 a) := by
  rw [mSyl_acts he hm hf, Issue.touching_nil]

/-! ## Cache operations (R256 to R258) -/

section
variable {s t : State} {e : Env} {h : Hdr} {o : FmtM} {ps : List Place} (he : s.env = some e) (hm : e.issueSet h ≠ 0)
include he hm

/-- A prefetch brings in the cacheable lines of the places that it reached, unless one of its lanes failed. -/
theorem exec_pref_of_places {f : Option (XFault × Option Nat)} (hp : e.linePlaces o .pref (e.issueSet h) = (t, ps, f)) :
    let ls := linesOf (ps.filter fun p => cacheable 0 p.x.home)
    exec (.pref h o) s =
      .next (s.stageSyl h.e e.iu 3 (.eff (if f.isSome ∨ o.ch = 3 ∨ ls = [] then [] else [.pref ls (o.ch = 1)]))) := by
  change execPref h o s = _
  exact mSyl_acts_untouched he hm (by simp only [hp])

/-- A cache operation whose lanes all reach their lines acts on each of them. -/
theorem lineSyl_of_places {g : List Nat → Eff} (hp : e.linePlaces o .store (e.issueSet h) = (t, ps, none)) :
    lineSyl h o s g = .next (s.stageSyl h.e (Safety.Visits e 0 ps) 3 (.eff [g (linesOf ps)])) :=
  mSyl_acts he hm (by simp [hp, touched])

/-! ## Reply queues (R264) -/

/-- Where every lane of the issue set has an entry, a read of a reply queue returns the oldest of each. -/
theorem queueRead_of_entries {r : Nat → BitVec 128} (pop : Bool)
    (hr : ∀ l ∈ lanesOf (e.issueSet h), (Table.get [] e.y.replies (128 * (o.off.extractLsb' 0 2).toNat + l)).head? = some (r l)) :
    queueRead pop h o s = .next (s.stageSyl h.e e.iu 3 (.eff (
      .load ((lanesOf (e.issueSet h)).flatMap fun l => (List.range 4).map fun k =>
        RegW.v (e.phys (o.d.toNat + k)) l ((r l).extractLsb' (32 * k) 32)) [] [] none ::
      if pop then [.qpop (o.off.extractLsb' 0 2).toNat (e.issueSet h)] else []))) := by
  refine mSyl_acts_untouched he hm ?_
  have none_bare : ((lanesOf (e.issueSet h)).filter fun l =>
      ((Table.get [] e.y.replies (128 * (o.off.extractLsb' 0 2).toNat + l)).head?).isNone) = [] :=
    List.filter_eq_nil_iff.2 fun l hl => by rw [hr l hl]; exact Bool.false_ne_true
  have words : ((lanesOf (e.issueSet h)).flatMap fun l => (List.range 4).map fun k => RegW.v (e.phys (o.d.toNat + k)) l
      (((Table.get [] e.y.replies (128 * (o.off.extractLsb' 0 2).toNat + l)).head?.getD 0).extractLsb' (32 * k) 32)) =
      (lanesOf (e.issueSet h)).flatMap fun l => (List.range 4).map fun k =>
        RegW.v (e.phys (o.d.toNat + k)) l ((r l).extractLsb' (32 * k) 32) :=
    List.flatMap_congr fun l hl => by simp only [hr l hl, Option.getD_some]
  simp only [none_bare, words]

/-! ## TSCL (R304) -/

/-- A TSCL of an owner reads 128 bytes where its address passes and nothing has still to act on them. -/
theorem exec_tscl_of_address {x : Xlat} (owner : e.x.owner = true)
    (hx : (s.address e.x 1 ((e.src o.b 0).toNat + offOf o) 0 128 128 .load).2 = .ok x)
    (free : e.rawInSpan 1 128 ((e.src o.b 0).toNat + offOf o, 0) = false)
    (settled : e.atomicAhead 128 ⟨none, 1, (e.src o.b 0).toNat + offOf o, x⟩ = false) :
    exec (.tscl h o) s = .next (s.stageSyl h.e e.iu 3 (.eff [.tscl (o.d.toNat % 4) (e.readBytes s false x.pa 128)])) := by
  obtain ⟨hs, -⟩ := State.env_some he
  change execTscl h o s = _
  exact mSyl_acts_untouched he hm (by simp [owner, free, hs, hx, settled])

end

/-! ## Atomics (R259 to R263) -/

/-- An atomic whose lanes pass their checks puts one entry a lane into the store queue. -/
theorem atomicSyl_of_reaches {s t : State} {e : Env} {h : Hdr} {o : FmtT} {ps : List Place} {code n : Nat} {op : AOp} (he : s.env = some e)
    (hm : e.issueSet h ≠ 0)
    (hr : Safety.Reaches e o.sp n .atomic (atomicCheck code op) (e.formAddr o.sp o.b (sext 9 o.aoff.toNat)) false
      (lanesOf (e.issueSet h)) t ps) :
    atomicSyl code op n h o s = .next (s.stageSyl h.e (Safety.Visits e o.sp ps) 3 (.eff [.store (ps.map fun p =>
        (.atomic p.space p.x.home p.x.pa n op (e.atomicArgs o op n (p.lane.getD 0)).1 (e.atomicArgs o op n (p.lane.getD 0)).2
          (p.lane.getD 0) (if o.d.toNat < 128 then some (e.phys o.d.toNat) else none), BitVec.ofInt 64 p.addr))
      o.sc.toNat (o.ord.getLsbD 1) (decide (o.d.toNat < 128)) (o.ord.getLsbD 0)])) := by
  refine (mSyl_of_reaches (addr := fun e => e.formAddr o.sp o.b (sext 9 o.aoff.toNat)) (lanes := lanesOf) he hm hr).trans ?_
  simp only [decide_eq_true_eq]

end Sys2Proof.Machine

namespace Sys2Proof.Safety

open Sys2Proof.Machine

/-! ## The obligations -/

/-- Settles O17: fences stage themselves, an XINV its context, and an RFX its request while the queue has room. -/
theorem fenceAndSystemResults : Obligations.FenceAndSystemResults := by
  unfold Obligations.FenceAndSystemResults
  intro h o fits
  have requests {i : Instr} {action : Nat} (hx : ∀ s, exec i s = rfxSyl action h o s) :
      StagesUIf i h fits fun e => [.rfx action (o.f.getLsbD 3) (e.src64 o.s1 0).toNat] := by
    refine stagesUIf_of hx fun e ⟨aligned, room⟩ => ?_
    simp [aligned, room]
  refine ⟨stagesU_of (fun _ => rfl) fun _ => rfl, stagesU_of (fun _ => rfl) fun _ => rfl, stagesU_of (fun _ => rfl) fun _ => rfl,
    stagesUIf_of (fun _ => rfl) fun _ small => if_pos small, stagesU_of (fun _ => rfl) fun _ => rfl, ?_⟩
  exact ⟨requests fun _ => rfl, requests fun _ => rfl, requests fun _ => rfl, requests fun _ => rfl⟩

/-- Settles O19, syllable by syllable. -/
theorem cacheAndReplyQueueResults : Obligations.CacheAndReplyQueueResults := by
  unfold Obligations.CacheAndReplyQueueResults
  refine ⟨fun h o s t e ps f he hm => ⟨fun hp => exec_pref_of_places he hm hp, fun hp => ⟨?cwb, ?cinv⟩, rfl, rfl⟩,
    fun h o s e r x he hm => ⟨fun hr => ⟨?qpop, ?qpeek⟩, fun owner hx free settled => exec_tscl_of_address he hm owner hx free settled⟩⟩
  case cwb => exact lineSyl_of_places (g := fun l => .cwb l o.sc.toNat) he hm hp
  case cinv => exact lineSyl_of_places (g := .cinv) he hm hp
  case qpop => exact queueRead_of_entries he hm true hr
  case qpeek => exact queueRead_of_entries he hm false hr

/-- Settles O20, operation by operation: each is one access under its own check. -/
theorem atomicResults : Obligations.AtomicResults := by
  unfold Obligations.AtomicResults
  intro h o s t e ps he hm
  refine ⟨?aadd, ?aand, ?aor, ?axor, ?amin, ?amax, ?aminu, ?amaxu, ?axchg, ?axchg64, ?acas, ?afadd, ?aadd64, ?acas64, ?acas128⟩
  all_goals exact fun hr => atomicSyl_of_reaches he hm hr

end Sys2Proof.Safety
end

section
/-! PROOFS. Commands of class X at issue: matrix commands (R300, R306 to R324), barriers, cohort barriers and timelines (R353 to R367), and
render commands (R285 to R289). -/

namespace Sys2Proof.Safety

open Sys2Proof.Machine

/-! ## Matrix commands of a converged owner (R300, R302) -/

section
variable {i : Instr} {op : Nat} {h : Hdr} {s : State} {e : Env} {m : Matrix} {a : Act} (he : s.env = some e) (hh : e.holds h = true)
  (hq : e.queueFull = false) (hl : e.iu.lanes = e.y.living) (hm : e.x.mtx = some m)
include he hh hq hl hm

/-- A matrix command of a converged owner stages its act, and its bundle notes what it has translated. -/
theorem exec_of_mtxSyl {f : Env → Matrix → List Nat × Act} {vas : List Nat} (hx : exec i s = mtxSyl op h s f) (hf : f e m = (vas, a)) :
    exec i s = .next (s.stageSyl h.e (e.iu.touching vas) 4 a) :=
  exec_of_xSyl hx he hh hq (by simp [Env.converged, hl, hm, hf])

/-- One that translates nothing. -/
theorem exec_of_mtxAct {f : Env → Matrix → Act} (hx : exec i s = mtxAct op h s f) (hf : f e m = a) :
    exec i s = .next (s.stageSyl h.e e.iu 4 a) := by
  rw [exec_of_mtxSyl he hh hq hl hm hx (congrArg (Prod.mk []) hf), Issue.touching_nil]

/-- A TLD or a TST whose rows are all reached enters the engine queue with them. -/
theorem exec_of_tileMem {o : FmtE} {k : XKind} {seen : List Nat} {rows : List (List (Nat × Nat))} (hx : exec i s = tileMem i op k h o s)
    (hr : let sp := (o.f.extractLsb' 0 2).toNat
      let at' : Int × Nat := if sp = 0 then ((e.lead64 o.s1).toNat, 0) else if sp = 1 then ((e.lead o.s1).toNat, 0)
        else ((e.lead o.s1).toNat % 2 ^ 24, (e.lead o.s1).toNat / 2 ^ 24)
      e.bound.tileRows e.x sp at'.2 at'.1 (sext 32 (e.lead o.s2).toNat) (tshRb (m.shape o.t1.toNat)) k (tshRows (m.shape o.t1.toNat)) 0 =
        (seen, .ok rows)) :
    exec i s = .next (s.stageSyl h.e (e.iu.touching seen) 4 (.eff [.engine { e.mtxCmd i o m 0 with
      rows := rows, q1 := if (o.f.extractLsb' 0 2).toNat = 0 then [loWord (e.lead64 o.s1), hiWord (e.lead64 o.s1)] else [e.lead o.s1],
      q2 := [e.lead o.s2] } (some .tl)])) := by
  dsimp only at hr
  exact exec_of_mtxSyl he hh hq hl hm hx (by simp only [hr]; rfl)

end

/-! ## Barriers (R350, R354) -/

/-- The scope of a command is its field, or where that is 0 its natural scope. -/
theorem syncScope_eq (o : FmtE) (natural : Nat) :
    syncScope o natural = if o.f.extractLsb' 0 3 = 0 then natural else (o.f.extractLsb' 0 3).toNat := by
  have zero : (o.f.extractLsb' 0 3).toNat = 0 ↔ o.f.extractLsb' 0 3 = 0 := BitVec.toNat_inj (y := 0)
  simp only [syncScope, zero]

/-- A converged wave that takes part in a barrier and has not arrived may arrive. -/
theorem arrivalCheck_eq_none {e : Env} {n : Nat} (hl : e.iu.lanes = e.y.living) (part : (e.x.barrier n).part.getLsbD e.iu.wave = true)
    (fresh : (e.x.barrier n).arrv.getLsbD e.iu.wave = false) : e.arrivalCheck n = none := by
  simp only [Env.arrivalCheck, Env.converged, hl, part, fresh]
  simp

/-! ## Render commands (R289) -/

section
variable {i : Instr} {h : Hdr} {addr : Env → DWord} {c : Env → EngCmd}

/-- On a render core a render command enters the engine queue. -/
theorem stagesX_of_renderSyl (hx : ∀ s, exec i s = renderSyl h s addr c) :
    StagesX i h (fun e => isTile e.x.core = false) fun e => [.engine (c e) none] :=
  stagesX_of_xAct hx fun e here => by simp [here]

/-- On a network tile it raises RENDER_INPUT_INVALID. -/
theorem exec_renderSyl_tile {s : State} {e : Env} (hx : exec i s = renderSyl h s addr c) (he : s.env = some e) (hh : e.holds h = true)
    (hq : e.queueFull = false) (tile : isTile e.x.core = true) :
    exec i s = .next (s.stageSyl h.e e.iu 4 (failWith 0 0x1F (addr e) 0 none 0)) :=
  exec_of_xAct hx he hh hq (if_pos tile)

end

/-! ## The obligations -/

/-- Settles O25, command by command. -/
theorem renderCommandResults : Obligations.RenderCommandResults := by
  unfold Obligations.RenderCommandResults
  refine fun h o => ⟨stagesX_of_renderSyl fun _ => rfl, stagesX_of_renderSyl fun _ => rfl, stagesX_of_renderSyl fun _ => rfl,
    fun s e he hh hq tile => ⟨?rast, ?rayq, ?rtile⟩⟩
  case rast => exact exec_renderSyl_tile (show exec (.rast h o) s = execRast h o s from rfl) he hh hq tile
  case rayq => exact exec_renderSyl_tile (show exec (.rayq h o) s = execRayq h o s from rfl) he hh hq tile
  case rtile => exact exec_renderSyl_tile (show exec (.rtile h o) s = execRtile h o s from rfl) he hh hq tile

/-- Settles O24, command by command. -/
theorem synchronisationResults : Obligations.SynchronisationResults := by
  unfold Obligations.SynchronisationResults
  intro h o c
  simp only [← syncScope_eq]
  refine ⟨stagesX_of_xAct (fun _ => rfl) ?barv, stagesX_of_xAct (fun _ => rfl) ?barwArrives, stagesX_of_xAct (fun _ => rfl) ?barw,
    stagesX_of_xAct (fun _ => rfl) ?bart, stagesX_of_xAct (fun _ => rfl) ?barx, stagesX_of_xAct (fun _ => rfl) ?cbar,
    stagesX_of_xAct (fun _ => rfl) ?cbarArrives, stagesX_of_xAct (fun _ => rfl) ?tlwait, stagesX_of_xAct (fun _ => rfl) ?tlsig,
    stagesX_of_xAct (fun _ => rfl) ?tlrd, fun s e he hh hq readable lost => ?tlrdLost⟩
  case barv =>
    rintro e ⟨⟨hl, part, fresh⟩, fits⟩
    simp only [arrivalCheck_eq_none hl part fresh]
    exact if_neg (Nat.not_le.2 fits)
  case barwArrives =>
    rintro e ⟨arr, hl, part, fresh⟩
    change arrBit o = true at arr
    simp only [arr, arrivalCheck_eq_none hl part fresh, Option.getD_none, if_true]
    rfl
  case barw =>
    intro e arr
    change arrBit o = false at arr
    simp only [arr, Bool.false_eq_true, if_false]
    rfl
  case bart =>
    intro e _
    cases passed : ((e.x.barrier o.t1.toNat).phase - e.lead o.s1).getLsbD 31 <;> simp only [phaseReached, passed] <;> rfl
  case barx =>
    rintro e ⟨some_part, few, arrv, cred, expb⟩
    have few' : ¬2 ^ e.x.var.waves ≤ (e.lead o.s1).toNat := Nat.not_le.2 few
    simp [some_part.ne', few', arrv, cred, expb]
  case cbar =>
    rintro e ⟨cohort, arr⟩
    change e.cohort? (cohField o) = some c at cohort
    change arrBit o = false at arr
    simp only [cohort, arr, Bool.not_false, if_true]
    rfl
  case cbarArrives =>
    rintro e ⟨cohort, arr, hl, fresh⟩
    change e.cohort? (cohField o) = some c at cohort
    change arrBit o = true at arr
    have converged : e.converged = true := decide_eq_true hl
    have fresh' : c.warr.contains (e.x.blin, e.iu.wave) = false := by simpa using fresh
    simp only [cohort, arr, converged, fresh', Bool.not_true, Bool.false_eq_true, if_false]
    rfl
  case tlwait => exact fun e readable => if_pos readable
  case tlsig => exact fun e ok => if_pos ok
  case tlrd =>
    rintro e ⟨readable, up⟩
    simp [readable, up]
  case tlrdLost =>
    obtain ⟨hs, -⟩ := State.env_some he
    exact ⟨_, exec_of_xAct (show exec (.tlrd h o) s = execTlrd h o s from rfl) he hh hq (by simp [readable, lost]; rfl)⟩

/-- Settles O21: the checks of each command at issue let it pass to the engine queue. -/
theorem matrixCommandsAreQueued : Obligations.MatrixCommandsAreQueued := by
  unfold Obligations.MatrixCommandsAreQueued
  intro h o s e m seen rows he hh hq hl hm
  obtain ⟨hs, -⟩ := State.env_some he
  have act {i : Instr} {op : Nat} {f : Env → Matrix → Act} {l : List Eff} (hx : exec i s = mtxAct op h s f) (hf : f e m = .eff l) :
      exec i s = .next (s.stageSyl h.e e.iu 4 (.eff l)) := exec_of_mtxAct he hh hq hl hm hx hf
  dsimp only
  refine ⟨?tld, ?tst, ?tmma, ?trnd, ?trndStochastic, ?tzeroPlane, ?tzeroTile, ?twin, ?ttrn, ?tmerge, ?tv, ?vt, ?tvRx, ?vtRx, ?ttwg, ?tbfly,
    ?tbrev⟩
  case tld => exact fun hr => exec_of_tileMem he hh hq hl hm rfl hr
  case tst => exact fun hr => exec_of_tileMem he hh hq hl hm rfl hr
  case tmma =>
    rintro ⟨slot, first, second, cols, plane⟩
    refine act rfl ?_
    rw [if_neg (by simp [slot]), if_neg (by simpa [first, second, cols] using plane)]
    rfl
  case trnd =>
    rintro ⟨slot, code, cols, plane, plain⟩
    refine act rfl ?_
    rw [if_neg (by simp [slot]), if_neg (by simpa [code, cols] using plane), if_neg (by simpa [hs] using plain)]
    rfl
  case trndStochastic =>
    rintro ⟨slot, code, cols, plane, draws, full⟩
    refine act rfl ?_
    rw [if_neg (by simp [slot]), if_neg (by simpa [code, cols] using plane), if_pos (by simp [hs, draws, full])]
    rfl
  case tzeroPlane => exact fun _ => act rfl rfl
  case tzeroTile => exact fun _ => act rfl rfl
  case twin =>
    rintro ⟨slot, format, window, code, cols, fits⟩
    refine act rfl ?_
    rw [if_neg (by simpa [slot, imp_iff_not_or] using format)]
    refine (if_neg (not_or.2 ⟨?_, not_or.2 ⟨not_not.2 code, not_not.2 cols⟩⟩)).trans (if_neg (Nat.not_lt.2 fits))
    rw [Bool.not_eq_true', Bool.not_eq_false]
    exact window
  case ttrn =>
    rintro ⟨dense, code, rows, cols⟩
    refine act rfl ?_
    rw [if_neg (by simp [dense, code, rows, cols])]
    rfl
  case tmerge =>
    rintro ⟨shape, dense, code, rows, cols⟩
    refine act rfl ?_
    rw [if_neg (by simp [shape, dense, code, rows, cols])]
    rfl
  case tv => exact fun free => act rfl (if_neg free)
  case vt => exact fun free => act rfl (if_neg free)
  case tvRx => exact fun zero => act rfl (if_neg (not_not.2 zero))
  case vtRx => exact fun zero => act rfl (if_neg (not_not.2 zero))
  case ttwg => exact fun ok => act rfl (if_pos ok)
  case tbfly =>
    rintro ⟨d, committed, stage, code, cols, shape⟩
    refine act rfl ?_
    simp only [committed]
    rw [if_neg (by simp [stage, code, cols, shape])]
    rfl
  case tbrev =>
    rintro ⟨d, committed, cols, dense, wide, shape⟩
    refine act rfl ?_
    simp only [committed]
    rw [if_neg (by simp [cols, dense, wide, shape])]
    rfl

end Sys2Proof.Safety
end

section
/-! PROOFS. Stops, saves and fault records, requests about images and RESTORE_BLOCK, and DOUBLE_FAULT: what each event answers where its
guard holds (R380, R385, R386, R390, R391, R393 to R395, R399 to R402, R409, R415, R445). -/

namespace Sys2Proof.Machine

variable {s : State}

/-! ## Stops and saves (R380, R393, R395, R445) -/

section
variable {b : Nat} {x : Block} (hx : s.block? b = some x)
include hx

section
variable {st : Stop} (hs : x.stop = some st)
include hs

theorem exec_blockStop_stopping : exec (.blockStop b) s =
    .next (if x.exited then s.withdrawCopies x.core b st else (s.withdrawCopies x.core b st).recallRays x.core b) := by
  change execBlockStop b s = _
  simp only [execBlockStop, hx, hs]

theorem exec_saveImage_atBoundary (boundary : s.atBoundary b x = true) : exec (.saveImage b) s =
    .next (s.saveBlock b x st false (((s.core x.core).copies.filter fun e => e.cmd.ofBlock b) ++ x.withdrawn)
      ((s.core x.core).engineq.filter fun q => q.ofBlock b)) := by
  change execSaveImage b s = _
  simp [execSaveImage, hx, hs, boundary]

theorem exec_exitedBlockImage_quiet (exited : x.exited = true) (quiet : s.exitedQuiet b x = true) : exec (.exitedBlockImage b) s =
    .next (s.saveBlock b x st true (((s.core x.core).copies.filter fun e => e.cmd.ofBlock b) ++ x.withdrawn ++
      ((s.core x.core).engineq.filter fun q => q.ofBlock b).map fun q => CopyEntry.new q none .running) []) := by
  change execExitedBlockImage b s = _
  simp [execExitedBlockImage, hx, hs, exited, quiet]

end

/-! ## Shedding (R409) -/

section
variable (shed : s.shedBlock x = true)
include shed

theorem exec_shedPark_atBarrier (barrier : s.atBarrier x = true) : exec (.shedPark b) s = .next (s.askStop b 0x31) := by
  change execShedPark b s = _
  simp [execShedPark, State.shedPark, hx, shed, barrier]

theorem exec_shedForced_due (due : s.forceAt x ≤ s.now) (barrier : s.atBarrier x = false) (live : x.exited = false) (runs : x.stop = none) :
    exec (.shedForced b) s = .next { s.askStop b 0x32 with power := { (s.askStop b 0x32).power with forcing := true } } := by
  change execShedForced b s = _
  simp [execShedForced, State.shedForced, hx, shed, due, barrier, live, runs]

end

end

/-! ## Requests for pre-emption (R402) -/

theorem State.askPreempt_of_room (room : s.disp.requests.length < 64) (t : PreemptTarget) : s.askPreempt t =
    { s with disp := { s.disp with requests := s.disp.requests ++ [⟨0, 4, false, none, some t⟩] } } :=
  if_neg (Nat.not_le.2 room)

/-! ## Fault records (R385, R390) -/

section
variable {die base k : Nat} {r : FaultRec} (hb : (s.die die).ringBase = some base) (hr : firstRecord (s.die die).waiting = some (k, r))
  (room : (s.die die).ringCount < 4096) (first : s.recordAhead die r = false)
include hb hr room first

/-- A fault ring whose memory faults takes no record: it becomes a DOUBLE_FAULT. -/
theorem exec_faultRecordWrite_faults (faults : s.ringFaults die (base + 64 * (s.die die).ringCount) = true)
    (runs : (s.die die).dayStopped = false) :
    exec (.faultRecordWrite die) s = .next ((s.modDie die fun d => { d with waiting := dropAt d.waiting k }).doubleFault die r) := by
  change execFaultRecordWrite die s = _
  simp [execFaultRecordWrite, hb, hr, room, first, faults, runs]

theorem exec_faultRecordWrite_written (sound : s.ringFaults die (base + 64 * (s.die die).ringCount) = false) :
    exec (.faultRecordWrite die) s =
      let t := (s.write 0 (base + 64 * (s.die die).ringCount) r.bytes).modDie die fun d =>
        { d with waiting := dropAt d.waiting k, ringCount := d.ringCount + 1 }
      .next (if 1 ≤ r.cause ∧ r.cause ≤ 0x2F then t.postEvent 5 r.cause (tagHandle r.tag) r.replay [] else t) := by
  change execFaultRecordWrite die s = _
  simp [execFaultRecordWrite, hb, hr, room, first, sound]

end

/-! ## Requests about images (R391, R399, R415) -/

section
variable {r : Request}

theorem State.acceptRequest_accepted (ok : s.refusal r = 0) :
    s.acceptRequest r = { s with disp := { s.disp with requests := s.disp.requests ++ [r] } } := by
  simp [State.acceptRequest, ok]

theorem State.acceptRequest_refused (bad : s.refusal r ≠ 0) : s.acceptRequest r = s.firmwareAbort (s.refusal r) (s.imageAt r.image) :=
  if_pos bad

/-! ## RESTORE_BLOCK (R394, R400 to R402) -/

section
variable {k : Nat} (hk : s.disp.requests[k]? = some r)
include hk

theorem exec_restoreBlock_preempts {t : PreemptTarget} (ht : r.target = some t) :
    exec (.restoreBlock k) s = .next ((s.dropRequest k).preempt (s.targets t)) := by
  change execRestoreBlock k s = _
  simp only [execRestoreBlock, hk, ht]

section
variable (ht : r.target = none)
include ht

theorem exec_restoreBlock_gone (hi : s.imageAt r.image = none) :
    exec (.restoreBlock k) s = .next ((s.dropRequest k).firmwareAbort 1 none) := by
  change execRestoreBlock k s = _
  simp only [execRestoreBlock, hk, ht, hi]

section
variable {i : Image} (hi : s.imageAt r.image = some i)
include hi

theorem exec_restoreBlock_killb (ha : r.action = 2) : exec (.restoreBlock k) s = .next ((s.dropRequest k).killImage i) := by
  change execRestoreBlock k s = _
  simp only [execRestoreBlock, hk, ht, hi, ha]

theorem exec_restoreBlock_killl (ha : r.action = 3) :
    exec (.restoreBlock k) s = .next ((s.dropRequest k).endLaunch i.launch 3 i.icause) := by
  change execRestoreBlock k s = _
  simp only [execRestoreBlock, hk, ht, hi, ha]

theorem exec_restoreBlock_restores (ha : r.action < 2) : exec (.restoreBlock k) s = .next (s.restore k i) := by
  change execRestoreBlock k s = _
  simp only [execRestoreBlock, hk, ht, hi]
  split
  · omega
  · omega
  · rfl

end

end

end

end

section
variable {i : Image} {k : Nat}

theorem State.restore_unasked (hg : s.gangRequests i = none) : s.restore k i = s := by simp only [State.restore, hg]

theorem State.restore_stopped (hp : s.placing = false) : s.restore k i = s := by
  unfold State.restore
  split
  · rfl
  · simp [hp]

section
variable {l : List (Request × Image)} (hg : s.gangRequests i = some l)
include hg

/-- A restore without a fixed core waits for an earlier request or a launch of higher priority. -/
theorem State.restore_behind (free : l.any (fun p => p.1.core.isSome) = false) (ahead : s.requestBefore k = true ∨ s.launchAhead i = true) :
    s.restore k i = s := by
  simp only [State.restore, hg, free]
  exact if_pos (.inr ⟨rfl, ahead⟩)

theorem State.restore_noPlace (hr : s.restorePlaces l s.holders = none) : s.restore k i = s := by
  simp only [State.restore, hg, hr, ite_self]

/-- A restore whose turn has come, and for which there are places, wakes the pairs that it needs; once they are awake its images return. -/
theorem State.restore_places {hs : List Holder} {t : State} {wakes : Bool} (hp : s.placing = true)
    (turn : l.any (fun p => p.1.core.isSome) = true ∨ (s.requestBefore k = false ∧ s.launchAhead i = false))
    (hr : s.restorePlaces l s.holders = some hs) (hw : s.wakeFor hs = (t, wakes)) :
    s.restore k i = if wakes then t else (l.zip hs).foldl (fun s p => s.restoreOne p.1.1 p.1.2 p.2) t := by
  have go : ¬((!s.placing) = true ∨ (!l.any fun p => p.1.core.isSome) = true ∧ (s.requestBefore k = true ∨ s.launchAhead i = true)) := by
    rcases turn with fixed | ⟨no_request, no_launch⟩
    · simp [hp, fixed]
    · simp [hp, no_request, no_launch]
  simp only [State.restore, hg, if_neg go, hr, hw]
  cases wakes <;> rfl

end

end

/-! ## The obligations -/

/-- Settles O36, event by event. -/
theorem stopAndSaveEvents : Obligations.StopAndSaveEvents := by
  unfold Obligations.StopAndSaveEvents
  refine ⟨fun s b x hx => ⟨fun st hs => ⟨?stop, ?save, ?exited⟩, fun t room => ?preempt, fun shed => ⟨?park, ?forced⟩⟩,
    fun s die base k r hb hr room first => ⟨?faults, ?written⟩⟩
  case stop => exact exec_blockStop_stopping hx hs
  case save => exact exec_saveImage_atBoundary hx hs
  case exited => exact exec_exitedBlockImage_quiet hx hs
  case preempt => exact congrArg Host.Outcome.next (State.askPreempt_of_room room t)
  case park => exact exec_shedPark_atBarrier hx shed
  case forced => exact exec_shedForced_due hx shed
  case faults => exact exec_faultRecordWrite_faults hb hr room first
  case written => exact exec_faultRecordWrite_written hb hr room first

/-- Settles O37: what a request asks for decides first, then whether its image still stands, then its action. -/
theorem restoreEvents : Obligations.RestoreEvents := by
  unfold Obligations.RestoreEvents
  refine fun s k r => ⟨State.acceptRequest_accepted, State.acceptRequest_refused, fun hk => ⟨fun t ht => ?preempts, fun ht hi => ?gone,
    fun i ht hi => ⟨?killb, ?killl, fun ha => ⟨fun l hs t hg hp turn hr => ⟨fun hw => ?restores, fun hw => ?wakes⟩, fun waits => ?waits⟩⟩⟩⟩
  case preempts => exact exec_restoreBlock_preempts hk ht
  case gone => exact exec_restoreBlock_gone hk ht hi
  case killb => exact exec_restoreBlock_killb hk ht hi
  case killl => exact exec_restoreBlock_killl hk ht hi
  case restores => rw [exec_restoreBlock_restores hk ht hi ha, State.restore_places hg hp turn hr hw]; rfl
  case wakes => rw [exec_restoreBlock_restores hk ht hi ha, State.restore_places hg hp turn hr hw]; rfl
  case waits =>
    rw [exec_restoreBlock_restores hk ht hi ha]
    rcases waits with hg | hp | ⟨l, hg, hr | ⟨free, ahead⟩⟩
    · rw [State.restore_unasked hg]
    · rw [State.restore_stopped hp]
    · rw [State.restore_noPlace hg hr]
    · rw [State.restore_behind hg free ahead]

/-- Settles O38: the record of the DOUBLE_FAULT is that of the underlying fault under its own cause (FaultRec.doubled). -/
theorem doubleFaultsTakeTheirDieOutOfService : Obligations.DoubleFaultsTakeTheirDieOutOfService := by
  unfold Obligations.DoubleFaultsTakeTheirDieOutOfService
  intro s die cause ls r t
  change execDoubleFault die cause s = _
  rfl

end Sys2Proof.Machine
end

section
/-! PROOFS. The matrix engine: what its events answer where their guards hold (R300, R302, R304, R305, R310). -/

namespace Sys2Proof.Machine

variable {s : State} {core b w : Nat} {x : Block} {m : Matrix} (hx : s.block? b = some x) (hm : x.mtx = some m)

/-! ## The command that goes on (R300, R310) -/

section
variable (n : Nat)

/-- A command of a block that owns the engine goes on once the engine works on it. -/
theorem exec_matrixExecute_takes {t : State} {j : MatJob} (taken : s.takeJob core = (t, some j)) (ho : j.cmd.owner = .block b w)
    (hx : t.block? b = some x) (hm : x.mtx = some m) : exec (.matrixExecute core n) s = .next (t.advanceJob core b w x m j n) := by
  change execMatrixExecute core n s = _
  simp only [execMatrixExecute, taken, ho, hx, hm]

include hx hm

/-- The engine takes the command at the head of the queue where it works on none. -/
theorem exec_matrixExecute_starts {c : EngCmd} (idle : (s.core core).mat = none) (hc : s.nextMatrix core = some c)
    (ho : c.owner = .block b w) : exec (.matrixExecute core n) s =
      .next (((s.popEngine core).modCore core fun q => { q with mat := some (s.newJob core c) }).advanceJob core b w x m (s.newJob core c) n) :=
  exec_matrixExecute_takes n (by simp only [State.takeJob, idle, hc]) ho hx hm

/-- A command with K-blocks left lets more of them in. -/
theorem exec_matrixExecute_goesOn {j : MatJob} (hj : (s.core core).mat = some j) (ho : j.cmd.owner = .block b w)
    (left : j.entered < j.total) : exec (.matrixExecute core n) s = .next (s.advanceJob core b w x m j n) :=
  exec_matrixExecute_takes n (by simp only [State.takeJob, hj, if_pos left]) ho hx hm

end

/-! ## The command that is done (R300, R302) -/

theorem exec_matrixComplete_done {j : MatJob} (hj : (s.core core).mat = some j) (ho : j.cmd.owner = .block b w)
    (done : s.jobDone core j = true) : exec (.matrixComplete core) s =
      let t := ((s.modCore core fun q => { q with mat := none }).spoilRows b j.cmd).modWave b w fun y => y.perform j.cmd.sid
      .next ((match j.found with
        | some f => t.matrixFault b w f
        | none => t).settle b) := by
  change execMatrixComplete core s = _
  simp only [execMatrixComplete, hj, done, Bool.not_true, Bool.false_eq_true, if_false, ho]
    <;> cases j.found <;> rfl

/-! ## Latch writes (R304, R305) -/

include hx hm in
theorem exec_tsclLatchWrite_due {p : LatchWrite} {ps : List LatchWrite} (hp : m.pend = p :: ps) (due : p.due ≤ s.cycOf x.core)
    (entered : s.entersBefore b x.core p.due = false) : exec (.tsclLatchWrite b) s =
      let l := p.bytes.zipIdx.foldl (fun t q => Table.set 0x7F t (128 * p.latch + q.2) q.1) m.latch
      .next (((s.setMtx b { m with pend := ps, latch := l }).modWave b p.wave fun y => y.perform p.sid).settle b) := by
  have go : ¬(s.cycOf x.core < p.due ∨ s.entersBefore b x.core p.due = true) := by simpa [entered] using due
  change execTsclLatchWrite b s = _
  simp only [execTsclLatchWrite, hx, hm, hp, if_neg go]

end Sys2Proof.Machine

namespace Sys2Proof.Safety

open Sys2Proof.Machine

/-! ## The obligation -/

/-- Settles O30, event by event. -/
theorem matrixEngineEvents : Obligations.MatrixEngineEvents := by
  unfold Obligations.MatrixEngineEvents
  refine fun s core b w n x m hx hm => ⟨fun c idle hc ho => ⟨rfl, rfl, rfl, rfl, ?starts⟩, fun j hj ho => ⟨?goesOn, ?done⟩,
    fun p ps hp due entered => ?latch⟩
  case starts => exact exec_matrixExecute_starts hx hm n idle hc ho
  case goesOn => exact exec_matrixExecute_goesOn hx hm n hj ho
  case done => exact exec_matrixComplete_done hj ho
  case latch => exact exec_tsclLatchWrite_due hx hm hp due entered

end Sys2Proof.Safety
end

section
/-! PROOFS. The mailbox, RESET, training and links that fail: what each event answers where its guard holds (R386, R388, R400, R402, R422 to
R427). -/

namespace Sys2Proof.Machine

variable {s : State}

/-! ## The mailbox (R422) -/

/-- A message of command c with a payload of n bytes is pending. -/
def State.Pending (s : State) (c n : Nat) : Prop :=
  s.host.mboxBusy = true ∧ msgField s.host.mboxMsg 0 2 = c ∧ msgField s.host.mboxMsg 2 2 = n

section
variable {c n : Nat} {lens : List Nat} (hp : s.Pending c n) (f : Table Byte → State)
include hp

/-- A pending message of a length that its command takes is carried out. -/
theorem mboxRow_carriesOut (hn : n ∈ lens) : mboxRow c lens s f = .next (f s.host.mboxMsg) := by
  obtain ⟨busy, hc, hl⟩ := hp
  simp [mboxRow, busy, hc, hl, hn]

/-- One of another length is answered with status 3. -/
theorem exec_badLength {i : Instr} (hx : exec i s = mboxRow c lens s f) (hn : n ∉ lens) : exec i s = .next (s.mboxDone 3 []) := by
  obtain ⟨busy, hc, hl⟩ := hp
  simp [hx, mboxRow, busy, hc, hl, hn]

theorem exec_mboxUnknownCommand_pending (hc : c = 0 ∨ 6 < c) : exec .mboxUnknownCommand s = .next (s.mboxDone 2 []) := by
  obtain ⟨busy, hc', -⟩ := hp
  change execMboxUnknownCommand s = _
  simp [execMboxUnknownCommand, busy, hc', hc]

end

/-! ## UPDATE (R424) -/

section
variable (hp : s.Pending 2 12)
include hp

section
variable (idle : s.fw.writing = none)
include idle

theorem exec_update_beyondAperture (far : 2 ^ 47 < msgField s.host.mboxMsg 8 8 + msgField s.host.mboxMsg 16 4) :
    exec (.update .begins) s = .next (s.mboxDone 3 []) := by
  change execUpdate .begins s = _
  rw [execUpdate, mboxRow_carriesOut hp _ (List.mem_singleton.2 rfl)]
  simp only [idle, if_pos far]

section
variable (near : msgField s.host.mboxMsg 8 8 + msgField s.host.mboxMsg 16 4 ≤ 2 ^ 47)
include near

theorem exec_update_unverified
    (bad : Config.imageVerifies (s.bytes (hostPa (msgField s.host.mboxMsg 8 8)) (msgField s.host.mboxMsg 16 4)) = false) :
    exec (.update .begins) s = .next (s.mboxDone 4 []) := by
  change execUpdate .begins s = _
  rw [execUpdate, mboxRow_carriesOut hp _ (List.mem_singleton.2 rfl)]
  simp only [idle, if_neg (Nat.not_lt.2 near), bad, Bool.not_false, if_true]

theorem exec_update_begins
    (good : Config.imageVerifies (s.bytes (hostPa (msgField s.host.mboxMsg 8 8)) (msgField s.host.mboxMsg 16 4)) = true) :
    exec (.update .begins) s = .next { s with fw := { s.fw with
      flashValid := false, writing := some (s.bytes (hostPa (msgField s.host.mboxMsg 8 8)) (msgField s.host.mboxMsg 16 4)) } } := by
  change execUpdate .begins s = _
  rw [execUpdate, mboxRow_carriesOut hp _ (List.mem_singleton.2 rfl)]
  simp only [idle, if_neg (Nat.not_lt.2 near), good, Bool.not_true, Bool.false_eq_true, if_false]

end

end

theorem exec_update_ends {image : List Byte} (writing : s.fw.writing = some image) : exec (.update .ends) s =
    .next ({ s with fw := { s.fw with flash := some image, flashValid := true, writing := none } }.mboxDone 0 []) := by
  change execUpdate .ends s = _
  rw [execUpdate, mboxRow_carriesOut hp _ (List.mem_singleton.2 rfl)]
  simp only [writing]

end

/-! ## REMAP (R400) -/

/-- A map is refused for a busy die where it moves a virtual die from or to it. -/
theorem State.any_dieBusy_moved (s : State) (a b v1 v2 : Nat) :
    (((if a = v1 then [] else [a, v1]) ++ if b = v2 then [] else [b, v2]).any s.dieBusy) = true ↔
      (a ≠ v1 ∧ (s.dieBusy a = true ∨ s.dieBusy v1 = true)) ∨ (b ≠ v2 ∧ (s.dieBusy b = true ∨ s.dieBusy v2 = true)) := by
  by_cases ha : a = v1 <;> by_cases hb : b = v2 <;> simp [ha, hb, or_assoc]

section
variable (hp : s.Pending 3 2)
include hp

/-- A map of the virtual dies to die 1 or 2 each is taken where no die that it changes is busy. -/
theorem exec_remap_taken (ha : msgField s.host.mboxMsg 8 1 = 1 ∨ msgField s.host.mboxMsg 8 1 = 2)
    (hb : msgField s.host.mboxMsg 9 1 = 1 ∨ msgField s.host.mboxMsg 9 1 = 2)
    (free1 : msgField s.host.mboxMsg 8 1 ≠ s.disp.vd1 → s.dieBusy (msgField s.host.mboxMsg 8 1) = false ∧ s.dieBusy s.disp.vd1 = false)
    (free2 : msgField s.host.mboxMsg 9 1 ≠ s.disp.vd2 → s.dieBusy (msgField s.host.mboxMsg 9 1) = false ∧ s.dieBusy s.disp.vd2 = false) :
    exec .remap s =
      .next ({ s with disp := { s.disp with vd1 := msgField s.host.mboxMsg 8 1, vd2 := msgField s.host.mboxMsg 9 1 } }.mboxDone 0
        (leBytes 1 (msgField s.host.mboxMsg 8 1) ++ leBytes 1 (msgField s.host.mboxMsg 9 1))) := by
  change execRemap s = _
  rw [execRemap, mboxRow_carriesOut hp _ (List.mem_singleton.2 rfl)]
  refine congrArg Host.Outcome.next (if_neg ?_)
  rintro (⟨h1, h2⟩ | ⟨h1, h2⟩ | busy)
  · exact ha.elim h1 h2
  · exact hb.elim h1 h2
  · rcases (s.any_dieBusy_moved ..).1 busy with ⟨moves, busy⟩ | ⟨moves, busy⟩
    · simp [free1 moves] at busy
    · simp [free2 moves] at busy

theorem exec_remap_refused (bad : ¬(msgField s.host.mboxMsg 8 1 = 1 ∨ msgField s.host.mboxMsg 8 1 = 2) ∨
      ¬(msgField s.host.mboxMsg 9 1 = 1 ∨ msgField s.host.mboxMsg 9 1 = 2) ∨
      (msgField s.host.mboxMsg 8 1 ≠ s.disp.vd1 ∧ (s.dieBusy (msgField s.host.mboxMsg 8 1) = true ∨ s.dieBusy s.disp.vd1 = true)) ∨
      (msgField s.host.mboxMsg 9 1 ≠ s.disp.vd2 ∧ (s.dieBusy (msgField s.host.mboxMsg 9 1) = true ∨ s.dieBusy s.disp.vd2 = true))) :
    exec .remap s = .next (s.mboxDone 3 (leBytes 1 s.disp.vd1 ++ leBytes 1 s.disp.vd2)) := by
  change execRemap s = _
  rw [execRemap, mboxRow_carriesOut hp _ (List.mem_singleton.2 rfl)]
  refine congrArg Host.Outcome.next (if_pos ?_)
  rcases bad with ha | hb | busy
  · exact .inl (not_or.1 ha)
  · exact .inr (.inl (not_or.1 hb))
  · exact .inr (.inr ((s.any_dieBusy_moved ..).2 busy))

end

/-! ## WDOG, PREEMPT (R402, R422) -/

section
variable (hp : s.Pending 4 5)
include hp

theorem exec_wdog_set (low : 1 ≤ msgField s.host.mboxMsg 9 4) (high : msgField s.host.mboxMsg 9 4 ≤ 60000)
    (hc : (s.ctxs.find? (msgField s.host.mboxMsg 8 1)).isSome = true) : exec .wdog s = .next ((s.setCtx (msgField s.host.mboxMsg 8 1)
      { s.ctx (msgField s.host.mboxMsg 8 1) with wdogMs := msgField s.host.mboxMsg 9 4 }).mboxDone 0 []) := by
  change execWdog s = _
  rw [execWdog, mboxRow_carriesOut hp _ (List.mem_singleton.2 rfl)]
  exact congrArg Host.Outcome.next (if_pos ⟨low, high, hc⟩)

theorem exec_wdog_refused (bad : msgField s.host.mboxMsg 9 4 = 0 ∨ 60000 < msgField s.host.mboxMsg 9 4 ∨
    (s.ctxs.find? (msgField s.host.mboxMsg 8 1)).isNone = true) : exec .wdog s = .next (s.mboxDone 3 []) := by
  change execWdog s = _
  rw [execWdog, mboxRow_carriesOut hp _ (List.mem_singleton.2 rfl)]
  refine congrArg Host.Outcome.next (if_neg ?_)
  rintro ⟨low, high, hc⟩
  rcases bad with zero | large | absent
  · omega
  · omega
  · simp [Option.isNone_iff_eq_none.1 absent] at hc

end

/-- The request for a pre-emption of t has entered the dispatcher's queue, and its message is answered. -/
def State.preemptAsked (s : State) (t : PreemptTarget) : State :=
  ({ s with disp := { s.disp with requests := s.disp.requests ++ [⟨0, 4, false, none, some t⟩] } } : State).mboxDone 0 []

section
variable (hp : s.Pending 5 1)
include hp

theorem exec_preempt_context (room : s.disp.requests.length < 64) (hc : (s.ctxs.find? (msgField s.host.mboxMsg 8 1)).isSome = true) :
    exec .preempt s = .next (s.preemptAsked (.context (msgField s.host.mboxMsg 8 1))) := by
  change execPreempt s = _
  rw [execPreempt, mboxRow_carriesOut hp _ (by simp)]
  simp [hp.2.2, Option.isSome_iff_ne_none.1 hc, Nat.not_le.2 room, State.askPreempt_of_room room, State.preemptAsked]

theorem exec_preempt_noContext (hc : (s.ctxs.find? (msgField s.host.mboxMsg 8 1)).isNone = true) :
    exec .preempt s = .next (s.mboxDone 3 []) := by
  change execPreempt s = _
  rw [execPreempt, mboxRow_carriesOut hp _ (by simp)]
  exact congrArg Host.Outcome.next (if_pos (.inl ⟨hp.2.2, hc⟩))

end

section
variable (hp : s.Pending 5 6)
include hp

theorem exec_preempt_replay (room : s.disp.requests.length < 64) (low : 1 ≤ msgField s.host.mboxMsg 8 2)
    (high : msgField s.host.mboxMsg 8 2 ≤ 4095) :
    exec .preempt s = .next (s.preemptAsked (.replay (msgField s.host.mboxMsg 8 2) (msgField s.host.mboxMsg 10 4))) := by
  have handle : ¬(msgField s.host.mboxMsg 8 2 = 0 ∨ 4096 ≤ msgField s.host.mboxMsg 8 2) := by omega
  change execPreempt s = _
  rw [execPreempt, mboxRow_carriesOut hp _ (by simp)]
  simp [hp.2.2, handle, Nat.not_le.2 room, State.askPreempt_of_room room, State.preemptAsked]

theorem exec_preempt_badHandle (bad : msgField s.host.mboxMsg 8 2 = 0 ∨ 4096 ≤ msgField s.host.mboxMsg 8 2) :
    exec .preempt s = .next (s.mboxDone 3 []) := by
  change execPreempt s = _
  rw [execPreempt, mboxRow_carriesOut hp _ (by simp)]
  exact congrArg Host.Outcome.next (if_pos (.inr ⟨hp.2.2, bad⟩))

end

/-! ## The obligations -/

/-- Settles O41, command by command. -/
theorem mailboxCommands : Obligations.MailboxCommands := by
  unfold Obligations.MailboxCommands
  intro s
  dsimp only
  refine ⟨?attest, ?update, fun hp ha hb free1 free2 => ?remap, fun hp bad => ?noRemap, fun hp low high hc => ?wdog,
    fun hp bad => ?noWdog, fun room => ⟨fun hp hc => ?context, fun hp low high => ?replay⟩, fun hp hc => ?noContext,
    fun hp bad => ?noReplay, fun hp => ?dawnstate, fun c n hp hc => ?unknown, fun n => ⟨?attestLength, ?wdogLength, ?dawnLength, ?remapLength,
    ?updateLength, ?preemptLength⟩⟩
  case attest => exact fun hp => mboxRow_carriesOut hp (fun m => s.mboxDone 0 (s.report423 (msgBytes m 8 32))) (List.mem_singleton.2 rfl)
  case update =>
    refine fun hp => ⟨fun idle => ⟨exec_update_beyondAperture hp idle, fun near => ⟨exec_update_unverified hp idle near,
      exec_update_begins hp idle near⟩⟩, fun w => exec_update_ends hp⟩
  case remap => exact exec_remap_taken hp ha hb free1 free2
  case noRemap => exact exec_remap_refused hp bad
  case wdog => exact exec_wdog_set hp low high hc
  case noWdog => exact exec_wdog_refused hp bad
  case context => exact exec_preempt_context hp room hc
  case replay => exact exec_preempt_replay hp room low high
  case noContext => exact exec_preempt_noContext hp hc
  case noReplay => exact exec_preempt_badHandle hp bad
  case dawnstate =>
    exact mboxRow_carriesOut hp (fun _ => s.mboxDone 0 (leBytes 1 s.host.phase ++ leBytes 1 s.fw.failed.toNat)) (List.mem_singleton.2 rfl)
  case unknown => exact exec_mboxUnknownCommand_pending hp hc
  case attestLength => exact fun hp hn => exec_badLength hp _ (show exec .attest s = execAttest s from rfl) (mt List.mem_singleton.1 hn)
  case wdogLength => exact fun hp hn => exec_badLength hp _ (show exec .wdog s = execWdog s from rfl) (mt List.mem_singleton.1 hn)
  case dawnLength => exact fun hp hn => exec_badLength hp _ (show exec .dawnstate s = execDawnstate s from rfl) (mt List.mem_singleton.1 hn)
  case remapLength => exact fun hp hn => exec_badLength hp _ (show exec .remap s = execRemap s from rfl) (mt List.mem_singleton.1 hn)
  case updateLength => exact fun hp hn w => exec_badLength hp _ (show exec (.update w) s = execUpdate w s from rfl) (mt List.mem_singleton.1 hn)
  case preemptLength => exact fun hp h1 h6 => exec_badLength hp _ (show exec .preempt s = execPreempt s from rfl) (by simp [h1, h6])

end Sys2Proof.Machine
end

section
/-! PROOFS. RESET, training and the failures of links: what each event answers where its guard holds (R386, R388, R425 to R427). -/

namespace Sys2Proof.Machine

variable {s : State}

/-! ## Full service (R426, R427) -/

theorem State.clocks_host (s : State) (f : Nat → Nat) : (s.clocks f).host = s.host :=
  State.foldl_keeps State.host (fun t k => t.setCluster k ((t.cluster k).setClock (f (t.cluster k).mhz) t.now)) (fun _ _ => rfl) _ s

theorem State.clocks_dies (s : State) (f : Nat → Nat) : (s.clocks f).dies = s.dies :=
  State.foldl_keeps State.dies (fun t k => t.setCluster k ((t.cluster k).setClock (f (t.cluster k).mhz) t.now)) (fun _ _ => rfl) _ s

theorem State.host_clocks_unless (s : State) (p : Prop) [Decidable p] (f : Nat → Nat) : (if p then s else s.clocks f).host = s.host := by
  split
  · rfl
  · exact s.clocks_host f

theorem State.dies_clocks_unless (s : State) (p : Prop) [Decidable p] (f : Nat → Nat) : (if p then s else s.clocks f).dies = s.dies := by
  split
  · rfl
  · exact s.clocks_dies f

/-- Full service is PHASE 2, or PHASE 3 where die 0 or die 1 failed. -/
theorem State.phase_enterService (s : State) (failed : BitVec 3) :
    (s.enterService failed).host.phase = if failed.getLsbD 0 || failed.getLsbD 1 then 3 else 2 := by
  unfold State.enterService
  dsimp only
  rw [State.host_clocks_unless]
  cases failed.getLsbD 2 <;> rfl

/-- Die 2 is out of service where it failed. -/
theorem State.die_enterService (s : State) {failed : BitVec 3} (hf : failed.getLsbD 2 = true) :
    ((s.enterService failed).die 2).inService = false := by
  unfold State.enterService
  dsimp only
  rw [State.die, State.dies_clocks_unless, hf]
  exact congrArg Die.inService (State.die_modDie _ 2 fun d => { d with inService := false })

theorem exec_trainingComplete_drained (hp : s.host.phase = 1) (drained : s.workDrained = true) (failed : BitVec 3) :
    exec (.trainingComplete failed) s = .next (s.enterService failed) := by
  change execTrainingComplete failed s = _
  simp [execTrainingComplete, hp, drained]

theorem exec_peerLinkUp_trained {link : Nat} (hp : s.host.phase = 2) (hl : link < 12) : exec (.peerLinkUp link) s =
    .next { s with fw := { s.fw with peersUp := s.fw.peersUp ||| ((1 : BitVec 12) <<< link) } } := by
  change execPeerLinkUp link s = _
  exact congrArg Host.Outcome.next (if_pos ⟨hp, hl⟩)

/-! ## A copy that loses a packet (R381, R388) -/

section
variable {core k : Nat} {e : CopyEntry}

section
variable {p : Plan} (hp : e.plan = some p) (hr : e.phase ≠ .suspended)
include hp hr

theorem State.linkFails_reports {cause : Nat} {det : DWord} (fresh : s.reported core cause e.cmd = false) :
    s.linkFails core k cause e det = s.copyFails core k e cause 0 0 det := by
  simp [State.linkFails, hp, hr, fresh]

theorem State.linkFails_again {cause : Nat} {det : DWord} (again : s.reported core cause e.cmd = true) :
    s.linkFails core k cause e det = s.modCopy core k fun e => { e with phase := .suspended, cause := cause } := by
  simp [State.linkFails, hp, hr, again]

end

variable (he : (s.core core).copies[k]? = some e)
include he

theorem exec_bridgeLinkFault_copy {p : Plan} (hp : e.plan = some p) (hm : p.remote = none) :
    exec (.bridgeLinkFault core (.copy k)) s = .next (s.linkFails core k 0x2C e e.linkDet) := by
  change execBridgeLinkFault core (.copy k) s = _
  simp [execBridgeLinkFault, he, hp, hm]

theorem exec_peerLinkFault_remote {p : Plan} {m : Nat} (hp : e.plan = some p) (hm : p.remote = some m) :
    exec (.peerLinkFault core k) s =
      let down := (linksTo m).foldl (fun v l => v ||| (1 : BitVec 12) <<< l) 0
      .next (State.linkFails { s with fw := { s.fw with peersUp := s.fw.peersUp &&& ~~~down } } core k 0x2D e e.linkDet) := by
  change execPeerLinkFault core k s = _
  simp only [execPeerLinkFault, he, hp, Option.bind_some, hm]

end

/-! ## Other accesses that a bridge loses (R388) -/

/-- An access crosses the bridge to a unit of another die. -/
theorem bridgeTo_of_execDie {core pa d : Nat} (hd : execDie pa = some d) (ne : d ≠ dieOf core) : bridgeTo core pa = some d := by
  simp [bridgeTo, hd, ne]

section
variable {core k : Nat}

theorem exec_bridgeLinkFault_access {f : FabricEntry} {pa d : Nat} (hf : (s.core core).fabric[k]? = some f)
    (hk : f.e.kind.pa? = some pa) (hb : bridgeTo core pa = some d) :
    exec (.bridgeLinkFault core (.access k)) s = .next (s.loseAccess core k f) := by
  change execBridgeLinkFault core (.access k) s = _
  simp [execBridgeLinkFault, hf, hk, hb]

theorem exec_bridgeLinkFault_load {b w pa d : Nat} {va : DWord} {lane : Option Nat} {x : Block} (hx : s.block? b = some x)
    (hb : bridgeTo x.core pa = some d) : exec (.bridgeLinkFault x.core (.load b w k pa va lane)) s = .next (s.modWave b w fun y =>
      { y with outs := y.outs.mapIdx fun i o => if i = k then { o with bad := o.bad ++ [⟨0x23, pa, va, lane, 0, d⟩] } else o }) := by
  change execBridgeLinkFault x.core (.load b w k pa va lane) s = _
  simp [execBridgeLinkFault, hx, hb]

theorem exec_bridgeLinkFault_tile {row : Nat} {j : MatJob} (hj : (s.core core).mat = some j) :
    exec (.bridgeLinkFault core (.tile row)) s = .next (s.loseRow core row j) := by
  change execBridgeLinkFault core (.tile row) s = _
  simp only [execBridgeLinkFault, hj, Option.map_some, Option.getD_some]

theorem exec_bridgeLinkFault_ray {pa d : Nat} {va : DWord} {c : EngCmd} {h : Hdr} {o : FmtE} (hc : (s.core core).rays[k]? = some c)
    (hi : c.instr = .rayq h o) (hb : bridgeTo core pa = some d) :
    exec (.bridgeLinkFault core (.ray k pa va)) s = ((s.dropRay core k).reserve c (-1)).renderStop c 0 (.die va d) := by
  change execBridgeLinkFault core (.ray k pa va) s = _
  simp only [execBridgeLinkFault, hc, hb, hi]

end

/-! ## The host link (R386) -/

/-- Where nothing uses the host link, its failure only marks it down. -/
theorem exec_hostLinkFault_unused (waves : ∀ e ∈ s.blocks, ∀ f ∈ e.2.waves, s.hostOpen e.1 f.1 e.2.core f.2 = false)
    (copies : ∀ c ∈ s.cores, ∀ e ∈ c.2.copies, e.onHost = false) :
    exec .hostLinkFault s = .next { s with host := { s.host with linkUp := false } } := by
  have no_wave : (s.blocks.flatMap fun e => (e.2.waves.filter fun f => s.hostOpen e.1 f.1 e.2.core f.2).map fun f => (e.1, f.1)) = [] :=
    List.flatMap_eq_nil_iff.2 fun e he => by
      rw [List.filter_eq_nil_iff.2 fun f hf => by simp [waves e he f hf], List.map_nil]
  have no_copy : (s.cores.flatMap fun c => (c.2.copies.filter CopyEntry.onHost).map fun e => (c.1, e.cmd)) = [] :=
    List.flatMap_eq_nil_iff.2 fun c hc => by
      rw [List.filter_eq_nil_iff.2 fun e he => by simp [copies c hc e he], List.map_nil]
  change execHostLinkFault s = _
  simp [execHostLinkFault, no_wave, no_copy]

/-! ## The obligation -/

/-- Settles O42, event by event. -/
theorem resetAndLinkEvents : Obligations.ResetAndLinkEvents := by
  unfold Obligations.ResetAndLinkEvents
  refine fun s => ⟨rfl, fun failed hp drained => ⟨exec_trainingComplete_drained hp drained failed, s.phase_enterService failed,
      s.die_enterService⟩, fun link hp hl => exec_peerLinkUp_trained hp hl, fun core k e p he hp hr => ⟨fun hm => ⟨fun fresh => ?suspended,
      fun again => ?again⟩, fun m hm => ?remote⟩, fun core k f pa d hf hk hd ne => ?access, fun b w k pa va lane x d hx hd ne => ?load,
    fun core row j hj => exec_bridgeLinkFault_tile hj, fun core k pa va c h o d hc hi hb => exec_bridgeLinkFault_ray hc hi hb,
    ⟨_, rfl, rfl⟩, exec_hostLinkFault_unused⟩
  case suspended => rw [exec_bridgeLinkFault_copy he hp hm, State.linkFails_reports hp hr fresh]; rfl
  case again => rw [exec_bridgeLinkFault_copy he hp hm, State.linkFails_again hp hr again]
  case remote =>
    intro down t fresh
    rw [exec_peerLinkFault_remote he hp hm]
    exact congrArg Host.Outcome.next (State.linkFails_reports hp hr fresh)
  case access => exact exec_bridgeLinkFault_access hf hk (bridgeTo_of_execDie hd ne)
  case load => exact exec_bridgeLinkFault_load hx (bridgeTo_of_execDie hd ne)

end Sys2Proof.Machine
end

section
/-! PROOFS. The events of the copy engine: the last source fragment of a compressing copy (R270, R272). -/

namespace Sys2Proof.Machine

/-! ## A compressing copy about to read its only source fragment -/

/-- A dense array of four words at the start of a block's scratchpad. -/
def fourWords : Layout := ⟨0, 1, 2, false, 4, 1, 16, 0, 0, 4, 1⟩

/-- A copy of that array into a compressed one at 64. -/
def compressing : Plan :=
  { src := fourWords, dst := { fourWords with base := 64, compressed := true }, x := 0, y := 0, dx := 0, dy := 0, remote := none,
    members := [], total := 16 }

/-- The CPYS of that copy, of wave 0 of block 1. -/
def compressCmd : EngCmd :=
  { instr := .cpys ⟨true, false, 0⟩ ⟨0, 0, 0, 0, 0, 0, 0⟩, owner := .block 1 0, ctx := 1, launch := 0, sid := 0, leader := 0, lanes := 1,
    q1 := [], q2 := [], num := 0, o0 := 0, o1 := 0, inst := 0, fmt := 0, tsh := [], win := [], planes := [], cyc := 0, seeds := [],
    packet := [], target := 0, tc := 0, rows := [], stale := [] }

/-- The machine with block 1 on core 256 and the copy in entry 0 of its copy table. -/
def compressState : State :=
  { State.reset with blocks := [(1, Block.placed)],
                     cores := [(256, { CoreSt.reset 256 with copies := [CopyEntry.new compressCmd (some compressing) .running] })] }

/-! ## What reading that fragment leaves -/

/-- The destination ranges of entry 0 of core 256. -/
def State.firstDest (s : State) : Option (List (Nat × Nat)) := (s.core 256).copies[0]?.map CopyEntry.dest

/-- The machine u once entry 0 of core 256 has taken into its buffer fragment n, of bytes and places r, and nothing else. -/
def State.fragRead (u : State) (n : Nat) (r : List Byte × List (Nat × Nat)) : State :=
  u.modCopy 256 0 fun g => { g with frag := n + 1, buf := g.buf ++ r.1, read := g.read ++ rangesOfPlaces r.2 }

/-- Entry 0 of core 256 may begin, once it is open, and p holds of it. -/
def State.firstBegins (s : State) (p : State → CopyEntry → Runner → CopyKind → Plan → Bool) : Bool :=
  let s' := s.openEntry 256 0
  match (s'.core 256).copies[0]? with
  | some e => match e.plan, s'.runner e.cmd, e.cmd.copy? with
    | some l, some q, some (kd, _) => s'.mayBegin 256 0 e q kd && p s' e q kd l
    | _, _, _ => false
  | none => false

/-- The entry runs a command that buffers what it reads, its next fragment is read, and a state v has another destination for the entry
than the read leaves. -/
def readsOtherDest (v s : State) (e : CopyEntry) (q : Runner) (kd : CopyKind) (p : Plan) : Bool :=
  match s.takeMask 256 0 e q p with
  | (t, .ok mask) => match (p.frags kd e.cmd mask)[e.frag]? with
    | some f => match t.readFrag q p e.cmd e.dest [] f with
      | (u, .ok r) => !kd.baseDie && decide (e.phase = .running) && p.buffered kd && decide (kd ≠ .cpyt) &&
          decide ((u.fragRead e.frag r).firstDest ≠ v.firstDest)
      | _ => false
    | none => false
  | _ => false

theorem State.exists_of_firstBegins {s : State} {g : State → CopyEntry → Runner → CopyKind → Plan → Bool} (h : s.firstBegins g = true) :
    let s' := s.openEntry 256 0
    ∃ e p q kd o, (s'.core 256).copies[0]? = some e ∧ e.plan = some p ∧ s'.runner e.cmd = some q ∧ e.cmd.copy? = some (kd, o) ∧
      s'.mayBegin 256 0 e q kd = true ∧ g s' e q kd p = true := by
  simp only [State.firstBegins] at h
  split at h
  case h_2 => cases h
  case h_1 e he =>
    split at h
    case h_2 => cases h
    case h_1 p q kd o hp hq hk =>
      obtain ⟨hb, hg⟩ := Bool.and_eq_true_iff.mp h
      exact ⟨e, p, q, kd, o, he, hp, hq, hk, hb, hg⟩

theorem exists_of_readsOtherDest {v s : State} {e : CopyEntry} {q : Runner} {kd : CopyKind} {p : Plan}
    (h : readsOtherDest v s e q kd p = true) :
    ∃ t u mask f r, s.takeMask 256 0 e q p = (t, .ok mask) ∧ (p.frags kd e.cmd mask)[e.frag]? = some f ∧
      t.readFrag q p e.cmd e.dest [] f = (u, .ok r) ∧ kd.baseDie = false ∧ e.phase = .running ∧ p.buffered kd = true ∧ kd ≠ .cpyt ∧
      (u.fragRead e.frag r).firstDest ≠ v.firstDest := by
  unfold readsOtherDest at h
  split at h
  case h_2 => cases h
  case h_1 t mask hm =>
    split at h
    case h_2 => cases h
    case h_1 f hf =>
      split at h
      case h_2 => cases h
      case h_1 u r hr =>
        simp only [Bool.and_eq_true, Bool.not_eq_true', decide_eq_true_eq] at h
        obtain ⟨⟨⟨⟨hd, hph⟩, hb⟩, hk⟩, hdest⟩ := h
        exact ⟨t, u, mask, f, r, hm, hf, hr, hd, hph, hb, hk, hdest⟩

/-! ## The obligation -/

/-- In the state of the copy that compresses, COPY_FRAGMENT goes on to a state v whose entry has another destination. -/
theorem compressState_readsOtherDest :
    (match exec (.copyFragment 256 0) compressState with
      | .next v => compressState.firstBegins (readsOtherDest v)
      | _ => false) = true := by decide +kernel

/-- Refutes O29: when a CPYS into a compressed array has read its last source fragment, its entry's destination shrinks to the bytes of
the record that it will write (State.trimDest; R270, R272, log entry 79), which the clause of the buffered commands leaves out. -/
theorem not_copyAndRingEvents : ¬ Obligations.CopyAndRingEvents := by
  intro h
  have reads := compressState_readsOtherDest
  split at reads
  case h_2 => cases reads
  case h_1 v hv =>
    obtain ⟨e, p, q, kd, o, he, hp, hq, hk, hb, hdest⟩ := State.exists_of_firstBegins reads
    obtain ⟨t, u, mask, f, r, hm, hf, hr, hd, hph, hbuf, hcpyt, hne⟩ := exists_of_readsOtherDest hdest
    obtain ⟨-, hbegins, -⟩ := h.1 compressState 256 0
    obtain ⟨hmoves, -⟩ := (hbegins e p q kd o he hp hq hk hb).1 hd
    have claimed : exec (.copyFragment 256 0) compressState = .next (u.fragRead e.frag r) :=
      (hmoves hph t u mask f r hm hf).2 hbuf hcpyt hr
    obtain rfl : v = u.fragRead e.frag r := Host.Outcome.next.inj (hv.symm.trans claimed)
    exact hne rfl

end Sys2Proof.Machine
end

section
/-! PROOFS. The round trip of a syllable: the opcode map answers for the word of an instruction that instruction, and an instruction
that it answers has the class, the opcode, the header and the body that were read (R123 to R129, R136 to R139). -/

namespace Sys2Proof

/-! ## Forms that share an opcode -/

section
variable (h : Hdr)

theorem formU28_view (o : FmtC) : (formU28 h o).view = some ⟨0, 0x28, h, .c o⟩ := by
  unfold formU28
  split
  · rfl
  · split <;> rfl

theorem formV22_view (o : FmtC) : (formV22 h o).view = some ⟨1, 0x22, h, .c o⟩ := by
  unfold formV22
  split
  · rfl
  · split <;> rfl

theorem formU61_view (o : FmtY) : (formU61 h o).view = some ⟨0, 0x61, h, .y o⟩ := by
  unfold formU61 mtsForm
  dsimp only
  repeat' split
  all_goals rfl

theorem formU64_view (o : FmtY) : (formU64 h o).view = some ⟨0, 0x64, h, .y o⟩ := by
  unfold formU64
  split
  · rfl
  · split <;> rfl

theorem formU65_view (o : FmtY) : (formU65 h o).view = some ⟨0, 0x65, h, .y o⟩ := by
  unfold formU65
  repeat' split
  all_goals rfl

theorem formU66_view (o : FmtY) : (formU66 h o).view = some ⟨0, 0x66, h, .y o⟩ := by unfold formU66; split <;> rfl

theorem formM28_view (o : FmtT) : (formM28 h o).view = some ⟨2, 0x28, h, .t o⟩ := by unfold formM28; split <;> rfl

theorem formM2C_view (o : FmtT) : (formM2C h o).view = some ⟨2, 0x2C, h, .t o⟩ := by unfold formM2C; split <;> rfl

theorem formX04_view (o : FmtE) : (formX04 h o).view = some ⟨3, 0x04, h, .e o⟩ := by unfold formX04; split <;> rfl

theorem formX0A_view (o : FmtE) : (formX0A h o).view = some ⟨3, 0x0A, h, .e o⟩ := by
  unfold formX0A
  split <;> split <;> rfl

theorem formX33_view (o : FmtE) : (formX33 h o).view = some ⟨3, 0x33, h, .e o⟩ := by unfold formX33; split <;> rfl

end

/-! ## From a body to its instruction and back (O44) -/

section
variable {i : Instr} {h : Hdr} {op : BitVec 8} {x : BitVec 47}

/-- The forms in the order of R136: each is read from x by its format. -/
theorem view_of_parseU (hp : parseU h op x = some i) : ∃ g, i.view = some ⟨0, op, h, g⟩ ∧ g.body = x := by
  have hop : BitVec.ofNat 8 op.toNat = op := BitVec.ofNat_toNat ..
  unfold parseU at hp
  generalize op.toNat = n at hp hop
  subst hop
  split at hp <;> cases hp
  iterate 26 exact ⟨_, rfl, FmtA.toBody_ofBody x⟩
  iterate 8 exact ⟨_, rfl, FmtB.toBody_ofBody x⟩
  · exact ⟨_, formU28_view h _, FmtC.toBody_ofBody x⟩
  · exact ⟨_, rfl, FmtA.toBody_ofBody x⟩
  iterate 7 exact ⟨_, rfl, FmtJ.toBody_ofBody x⟩
  iterate 2 exact ⟨_, rfl, FmtC.toBody_ofBody x⟩
  iterate 2 exact ⟨_, rfl, FmtY.toBody_ofBody x⟩
  iterate 2 exact ⟨_, rfl, FmtC.toBody_ofBody x⟩
  · exact ⟨_, rfl, FmtY.toBody_ofBody x⟩
  · exact ⟨_, formU61_view h _, FmtY.toBody_ofBody x⟩
  iterate 2 exact ⟨_, rfl, FmtY.toBody_ofBody x⟩
  · exact ⟨_, formU64_view h _, FmtY.toBody_ofBody x⟩
  · exact ⟨_, formU65_view h _, FmtY.toBody_ofBody x⟩
  · exact ⟨_, formU66_view h _, FmtY.toBody_ofBody x⟩

/-- The forms in the order of R137. -/
theorem view_of_parseV (hp : parseV h op x = some i) : ∃ g, i.view = some ⟨1, op, h, g⟩ ∧ g.body = x := by
  have hop : BitVec.ofNat 8 op.toNat = op := BitVec.ofNat_toNat ..
  unfold parseV at hp
  generalize op.toNat = n at hp hop
  subst hop
  split at hp <;> cases hp
  iterate 29 exact ⟨_, rfl, FmtA.toBody_ofBody x⟩
  iterate 5 exact ⟨_, rfl, FmtB.toBody_ofBody x⟩
  · exact ⟨_, formV22_view h _, FmtC.toBody_ofBody x⟩
  iterate 3 exact ⟨_, rfl, FmtA.toBody_ofBody x⟩
  · exact ⟨_, rfl, FmtB.toBody_ofBody x⟩
  iterate 34 exact ⟨_, rfl, FmtA.toBody_ofBody x⟩

/-- The forms in the order of R138. -/
theorem view_of_parseM (hp : parseM h op x = some i) : ∃ g, i.view = some ⟨2, op, h, g⟩ ∧ g.body = x := by
  have hop : BitVec.ofNat 8 op.toNat = op := BitVec.ofNat_toNat ..
  unfold parseM at hp
  generalize op.toNat = n at hp hop
  subst hop
  split at hp <;> cases hp
  iterate 19 exact ⟨_, rfl, FmtM.toBody_ofBody x⟩
  iterate 8 exact ⟨_, rfl, FmtT.toBody_ofBody x⟩
  · exact ⟨_, formM28_view h _, FmtT.toBody_ofBody x⟩
  iterate 3 exact ⟨_, rfl, FmtT.toBody_ofBody x⟩
  · exact ⟨_, formM2C_view h _, FmtT.toBody_ofBody x⟩
  iterate 3 exact ⟨_, rfl, FmtM.toBody_ofBody x⟩

/-- The forms in the order of R139. -/
theorem view_of_parseX (hp : parseX h op x = some i) : ∃ g, i.view = some ⟨3, op, h, g⟩ ∧ g.body = x := by
  have hop : BitVec.ofNat 8 op.toNat = op := BitVec.ofNat_toNat ..
  unfold parseX at hp
  generalize op.toNat = n at hp hop
  subst hop
  split at hp <;> cases hp
  iterate 4 exact ⟨_, rfl, FmtE.toBody_ofBody x⟩
  · exact ⟨_, formX04_view h _, FmtE.toBody_ofBody x⟩
  iterate 5 exact ⟨_, rfl, FmtE.toBody_ofBody x⟩
  · exact ⟨_, formX0A_view h _, FmtE.toBody_ofBody x⟩
  iterate 14 exact ⟨_, rfl, FmtE.toBody_ofBody x⟩
  · exact ⟨_, formX33_view h _, FmtE.toBody_ofBody x⟩
  iterate 11 exact ⟨_, rfl, FmtE.toBody_ofBody x⟩

/-- An instruction of the opcode map has the class, the opcode, the header and the body it was read from. -/
theorem view_of_parse {c : BitVec 3} (hp : parse c h op x = some i) : ∃ g, i.view = some ⟨c, op, h, g⟩ ∧ g.body = x := by
  unfold parse at hp
  split at hp
  case isTrue hc => subst hc; exact view_of_parseU hp
  case isFalse =>
    split at hp
    case isTrue hc => subst hc; exact view_of_parseV hp
    case isFalse =>
      split at hp
      case isTrue hc => subst hc; exact view_of_parseM hp
      case isFalse =>
        split at hp
        case isTrue hc => subst hc; exact view_of_parseX hp
        case isFalse => cases hp

end

/-- A word is that of the view of what it parses as. -/
theorem view_of_parseWord {w : DWord} {i : Instr} (hp : parseWord w = some i) :
    ∃ g, i.view = some ⟨sylCls w, sylOp w, sylHdr w, g⟩ ∧ g.body = w.extractLsb' 0 47 := view_of_parse hp

theorem parseWord_of_decodeWord {w : DWord} {i : Instr} (hd : decodeWord w = .ok i) : parseWord w = some i := by
  unfold decodeWord at hd
  split at hd
  case h_1 => cases hd
  case h_2 j hp =>
    split at hd
    case h_1 => cases hd
    case h_2 v hv =>
      split at hd
      · cases hd
      · split at hd
        · cases hd
        · split at hd <;> cases hd
          exact hp

/-- Settles O44: the word of a view gives back every bit that the opcode map and the formats read. -/
theorem encodingInvertsDecoding : Obligations.EncodingInvertsDecoding := by
  intro w i hd
  obtain ⟨g, hv, hg⟩ := view_of_parseWord (parseWord_of_decodeWord hd)
  rw [encode, hv, Option.map_some, word_eq w g hg]

/-! ## From an instruction to its body and back (O43) -/

/-- A parser that reads a format back as it was answers the instruction of the format. -/
theorem eq_some_of_reread {α β : Type} {k : α → β} {o o' : α} {p : Option β} (ho : o' = o) (hp : p = some (k o')) : p = some (k o) := by
  rw [hp, ho]

/-- The same for a form that shares its opcode: k is the constructor that it selects. -/
theorem eq_some_of_form {α β : Type} {k : α → β} {o o' : α} {p : Option β} {b : β} (hk : k o = b) (ho : o' = o) (hp : p = some (k o')) :
    p = some b := by rw [hp, ho, hk]

section
variable {i : Instr} {c : BitVec 3} {op : BitVec 8} {h : Hdr}

theorem parse_of_view_a {o : FmtA} (hv : i.view = some ⟨c, op, h, .a o⟩) : parse c h op o.toBody = some i := by
  cases i <;> cases hv <;> exact eq_some_of_reread (FmtA.ofBody_toBody o) rfl

theorem parse_of_view_b {o : FmtB} (hv : i.view = some ⟨c, op, h, .b o⟩) : parse c h op o.toBody = some i := by
  cases i <;> cases hv <;> exact eq_some_of_reread (FmtB.ofBody_toBody o) rfl

theorem parse_of_view_m {o : FmtM} (hv : i.view = some ⟨c, op, h, .m o⟩) : parse c h op o.toBody = some i := by
  cases i <;> cases hv <;> exact eq_some_of_reread (FmtM.ofBody_toBody o) rfl

theorem parse_of_view_j {o : FmtJ} (hv : i.view = some ⟨c, op, h, .j o⟩) : parse c h op o.toBody = some i := by
  cases i <;> cases hv <;> exact eq_some_of_reread (FmtJ.ofBody_toBody o) rfl

theorem parse_of_view_c {o : FmtC} (hv : i.view = some ⟨c, op, h, .c o⟩) (hf : i.formOk = true) : parse c h op o.toBody = some i := by
  have reads : FmtC.ofBody o.toBody = o := FmtC.ofBody_toBody o
  cases i <;> cases hv
  case sli | sliHi | sliSx => exact eq_some_of_form (k := formU28 h) (by simp_all [Instr.formOk, formU28]) reads rfl
  case vli | vliHi | vliSx => exact eq_some_of_form (k := formV22 h) (by simp_all [Instr.formOk, formV22]) reads rfl
  all_goals exact eq_some_of_reread reads rfl

theorem parse_of_view_t {o : FmtT} (hv : i.view = some ⟨c, op, h, .t o⟩) (hf : i.formOk = true) : parse c h op o.toBody = some i := by
  have reads : FmtT.ofBody o.toBody = o := FmtT.ofBody_toBody o
  cases i <;> cases hv
  case axchg | axchgX64 => exact eq_some_of_form (k := formM28 h) (by simp_all [Instr.formOk, formM28]) reads rfl
  case acas64 | acas64X128 => exact eq_some_of_form (k := formM2C h) (by simp_all [Instr.formOk, formM2C]) reads rfl
  all_goals exact eq_some_of_reread reads rfl

theorem parse_of_view_e {o : FmtE} (hv : i.view = some ⟨c, op, h, .e o⟩) (hf : i.formOk = true) : parse c h op o.toBody = some i := by
  have reads : FmtE.ofBody o.toBody = o := FmtE.ofBody_toBody o
  cases i <;> cases hv
  case tzeroPlane | tzeroTile => exact eq_some_of_form (k := formX04 h) (by simp_all [Instr.formOk, formX04]) reads rfl
  case tmovvTv | tmovvVt | tmovvTvRx | tmovvVtRx => exact eq_some_of_form (k := formX0A h) (by simp_all [Instr.formOk, formX0A]) reads rfl
  case deq | deqNb => exact eq_some_of_form (k := formX33 h) (by simp_all [Instr.formOk, formX33]) reads rfl
  all_goals exact eq_some_of_reread reads rfl

theorem parse_of_view_y {o : FmtY} (hv : i.view = some ⟨c, op, h, .y o⟩) (hf : i.formOk = true) : parse c h op o.toBody = some i := by
  have reads : FmtY.ofBody o.toBody = o := FmtY.ofBody_toBody o
  cases i <;> cases hv
  case mts | mtsTsh | mtsPlane | mtsSplit | mtsRot | ringReset | mtsDrpth | shelfctlWrite =>
    exact eq_some_of_form (k := formU61 h) (of_decide_eq_true hf) reads rfl
  case shelfctlLoad => cases hf
  case fenceRel | fenceAcq | fenceFull => exact eq_some_of_form (k := formU64 h) (by simp_all [Instr.formOk, formU64]) reads rfl
  case rfxResume | rfxSkip | rfxKillb | rfxKilll => exact eq_some_of_form (k := formU65 h) (by simp_all [Instr.formOk, formU65]) reads rfl
  case xinv | xinvAll => exact eq_some_of_form (k := formU66 h) (by simp_all [Instr.formOk, formU66]) reads rfl
  all_goals exact eq_some_of_reread reads rfl

end

/-- The opcode map answers for the view of an instruction that instruction, when its form is the one its constructor stands for. -/
theorem View.parse_of_formOk {i : Instr} {v : View} (hv : i.view = some v) (hf : i.formOk = true) : v.parse = some i := by
  obtain ⟨c, op, h, g⟩ := v
  cases g with
  | a o => exact parse_of_view_a hv
  | b o => exact parse_of_view_b hv
  | c o => exact parse_of_view_c hv hf
  | m o => exact parse_of_view_m hv
  | t o => exact parse_of_view_t hv hf
  | j o => exact parse_of_view_j hv
  | e o => exact parse_of_view_e hv hf
  | y o => exact parse_of_view_y hv hf

/-- Settles O43, format by format. -/
theorem decodingInvertsEncoding : Obligations.DecodingInvertsEncoding := by
  intro i hw w he
  cases hv : i.view with
  | none => rw [encode, hv] at he; cases he
  | some v => exact decode_of_parse hv (View.parse_of_formOk hv) hw w he

end Sys2Proof
end

section
/-! PROOFS. What decode answers for the syllables of a bundle: which shapes pass, what a bundle that passes holds, and how the others stop
their wave (R119, R120, R122). -/

namespace Sys2Proof

/-! ## The shape of a bundle (R119, R120) -/

/-- The syllables of a bundle of class c. -/
def ofCls (ws : List DWord) (c : Nat) : List DWord := ws.filter fun w => (sylCls w).toNat = c

/-- The V syllables of a bundle with an opcode from lo to hi. -/
def vectorOps (ws : List DWord) (lo hi : Nat) : List DWord :=
  ws.filter fun w => (sylCls w).toNat = 1 ∧ lo ≤ (sylOp w).toNat ∧ (sylOp w).toNat ≤ hi

theorem shapeOk_iff (ws : List DWord) : shapeOk ws = true ↔
    (ws.getLast?.map fun w => w.getLsbD 63) = some true ∧ ws.Pairwise (fun v w => (sylCls v).toNat ≤ (sylCls w).toNat) ∧
    (ofCls ws 0).length ≤ 1 ∧ (ofCls ws 1).length ≤ 2 ∧ (ofCls ws 2).length ≤ 1 ∧ (ofCls ws 3).length ≤ 1 ∧
    (vectorOps ws 0x60 0x67).length ≤ 1 ∧ (vectorOps ws 0x70 0x78).length ≤ 1 := by
  have code (c : BitVec 3) (w : DWord) : sylCls w = c ↔ (sylCls w).toNat = c.toNat := BitVec.toNat_inj.symm
  simp only [shapeOk, ofCls, vectorOps, code 0, code 1, code 2, code 3, Bool.decide_and, List.pairwise_map, Bool.and_eq_true,
    decide_eq_true_eq, and_assoc]
  rfl

/-- A bundle that passes has a last syllable, with its end bit. -/
theorem endBit_of_shapeOk {ws : List DWord} (h : shapeOk ws = true) : ∃ w, ws.getLast? = some w ∧ w.getLsbD 63 = true :=
  Option.map_eq_some_iff.mp ((shapeOk_iff ws).mp h).1

/-! ## Bundles that pass (R122) -/

theorem length_slots (v : Nat) (ws : List DWord) : (slots v ws).length = ws.length := by
  induction ws generalizing v with
  | nil => rfl
  | cons w ws ih => exact congrArg Nat.succ (ih _)

/-- No entry of a list beside its slots shows a fault, so no element of the list does. -/
theorem forall_of_zip_filter_nil {α : Type} {sl : List Nat} {l : List α} {bad : α → Bool} (hlen : l.length ≤ sl.length)
    (h : (sl.zip l).filter (fun e => bad e.2) = []) : ∀ x ∈ l, bad x = false := by
  rw [← List.map_snd_zip hlen, List.forall_mem_map]
  exact fun e he => Bool.eq_false_iff.mpr (List.filter_eq_nil_iff.mp h e he)

/-- With no operand fault of a slot noted, no operand of its syllable is at fault. -/
theorem badOperand_of_find?_none {g : Budget} {vs : List (Nat × View)} {e : Nat × View} (he : e ∈ vs)
    (h : (vs.filterMap fun e => (e.2.badOperand g).map fun n => (e.1, n)).find? (fun x => x.1 = e.1) = none) : e.2.badOperand g = none := by
  cases hb : e.2.badOperand g with
  | none => rfl
  | some n =>
    have noted : (e.1, n) ∈ vs.filterMap fun e => (e.2.badOperand g).map fun n => (e.1, n) :=
      List.mem_filterMap.mpr ⟨e, he, by rw [hb, Option.map_some]⟩
    exact absurd (decide_eq_true rfl) (List.find?_eq_none.mp h _ noted)

/-- What the syllables of a bundle that passes decode are. -/
structure Passes (priv : Bool) (g : Budget) (ws : List DWord) (is : List Instr) : Prop where
  known : ∀ w ∈ ws, (sylCls w).toNat ≤ 3
  shape : shapeOk ws = true
  parsed : ∀ w ∈ ws, (parseWord w).isSome = true
  instrs : is = ws.filterMap parseWord
  legal : ∀ v ∈ is.filterMap Instr.view, v.legal = true ∧ v.spaceOk = true
  allowed : ∀ v ∈ is.filterMap Instr.view, priv = false → v.privileged = false
  operands : ∀ v ∈ is.filterMap Instr.view, v.badOperand g = none

theorem passes_of_decodeBundle {priv : Bool} {g : Budget} {rb : Nat} {ws : List DWord} {is : List Instr}
    (h : decodeBundle priv g rb ws = .ok is) : Passes priv g ws is := by
  have views : ((ws.filterMap parseWord).filterMap Instr.view).length ≤ (slots 0 ws).length :=
    (List.length_filterMap_le ..).trans ((List.length_filterMap_le ..).trans (length_slots 0 ws).ge)
  unfold decodeBundle at h
  dsimp only at h
  split at h
  case h_1 => cases h
  case h_2 hcls =>
    split at h
    case isTrue => cases h
    case isFalse hshape =>
      split at h
      case h_1 => cases h
      case h_2 hparse =>
        split at h
        case h_1 => cases h
        case h_2 hlegal =>
          split at h
          case h_1 => cases h
          case h_2 hpriv =>
            split at h
            case h_1 => cases h
            case h_2 hopd =>
              cases h
              have parsed := forall_of_zip_filter_nil (bad := fun w => (parseWord w).isNone) (length_slots 0 ws).ge hparse
              have legal := forall_of_zip_filter_nil (bad := fun v => !(v.legal && v.spaceOk)) views hlegal
              have allowed := forall_of_zip_filter_nil (bad := fun v => v.privileged && !priv) views hpriv
              exact
                { known := fun w hw => Nat.le_of_lt_succ (by simpa using List.find?_eq_none.mp hcls w hw)
                  shape := by simpa using hshape
                  parsed := fun w hw => by simpa using parsed w hw
                  instrs := rfl
                  legal := fun v hv => by simpa using legal v hv
                  allowed := fun v hv hp => by simpa [hp] using allowed v hv
                  operands := by
                    rw [← List.map_snd_zip views, List.forall_mem_map]
                    intro e he
                    have unnoted := List.filterMap_eq_nil_iff.mp hopd e he
                    refine badOperand_of_find?_none he ?_
                    split at unnoted
                    · cases unnoted
                    · cases unnoted
                    · assumption }

/-- Settles O46, from what each check of R122 has found. -/
theorem decodedBundlesAreLegal : Obligations.DecodedBundlesAreLegal := by
  intro priv g rb ws is _ _ hd
  have passes := passes_of_decodeBundle hd
  obtain ⟨-, sorted, u, v, m, x, sf, xc⟩ := (shapeOk_iff ws).mp passes.shape
  obtain ⟨last, hlast, hend⟩ := endBit_of_shapeOk passes.shape
  refine ⟨?nonempty, ?length, ?endBit, sorted, passes.known, u, v, m, x, sf, xc, ?legal⟩
  case nonempty => exact List.length_pos_of_mem (List.mem_of_getLast? hlast)
  case length => rw [passes.instrs, List.filterMap_length_eq_length.mpr passes.parsed]
  case endBit => rw [hlast]; rintro w ⟨⟩; exact hend
  case legal =>
    intro i hi
    obtain ⟨w, -, hw⟩ := List.mem_filterMap.mp (passes.instrs ▸ hi)
    obtain ⟨f, hv, -⟩ := view_of_parseWord hw
    have mem := List.mem_filterMap.mpr ⟨i, hi, hv⟩
    exact ⟨_, hv, (passes.legal _ mem).1, (passes.legal _ mem).2, passes.operands _ mem, passes.allowed _ mem⟩

/-! ## Bundles that stop (R120) -/

/-- A class code 4 to 7 is found first. -/
theorem decodeBundle_of_unknownClass {priv : Bool} {g : Budget} {rb : Nat} {ws : List DWord} (h : ∃ w ∈ ws, 4 ≤ (sylCls w).toNat) :
    ∃ d, decodeBundle priv g rb ws = .error ⟨.illegalOpcode, 0, d⟩ := by
  obtain ⟨w, hw, hc⟩ := h
  have found : (ws.find? fun w => decide (4 ≤ (sylCls w).toNat)).isSome = true := List.find?_isSome.mpr ⟨w, hw, decide_eq_true hc⟩
  obtain ⟨v, hv⟩ := Option.isSome_iff_exists.mp found
  exact ⟨_, by rw [decodeBundle, hv]⟩

theorem decodeBundle_of_not_shapeOk {priv : Bool} {g : Budget} {rb : Nat} {ws : List DWord} (hk : ∀ w ∈ ws, (sylCls w).toNat ≤ 3)
    (hs : shapeOk ws = false) : decodeBundle priv g rb ws = .error ⟨.illegalBundle, 0, ws.length⟩ := by
  have unfound : (ws.find? fun w => decide (4 ≤ (sylCls w).toNat)) = none :=
    List.find?_eq_none.mpr fun w hw => by simpa using Nat.lt_succ_of_le (hk w hw)
  simp [decodeBundle, unfound, hs]

/-- A fourth syllable without an end bit leaves the bundle without one. -/
theorem not_shapeOk_of_fourth {ws : List DWord} {v : DWord} (hlen : ws.length ≤ 4) (h4 : ws[3]? = some v) (he : v.getLsbD 63 = false) :
    shapeOk ws = false := by
  obtain ⟨h3, -⟩ := List.getElem?_eq_some_iff.mp h4
  have last : ws.getLast? = some v := by rw [List.getLast?_eq_getElem?, show ws.length - 1 = 3 by omega, h4]
  refine Bool.eq_false_iff.mpr fun hs => ?_
  obtain ⟨w, hw, hend⟩ := endBit_of_shapeOk hs
  obtain rfl : w = v := Option.some.inj (hw.symm.trans last)
  exact absurd hend (by rw [he]; decide)

end Sys2Proof

namespace Sys2Proof.Machine

theorem State.length_of_fetchFrom {core ctx n : Nat} {s t : State} {va : Nat} {ws : List DWord}
    (h : s.fetchFrom core ctx va n = (t, .ok ws)) : ws.length ≤ n := by
  induction n generalizing s va t ws with
  | zero => cases h; exact Nat.le_refl 0
  | succ n ih =>
    rw [State.fetchFrom] at h
    split at h
    case h_1 => cases h
    case h_2 =>
      split at h
      case isTrue => cases h; exact Nat.le_add_left 1 n
      case isFalse =>
        split at h
        case h_1 hr => cases h; exact Nat.succ_le_succ (ih hr)
        case h_2 => cases h

section
variable {s t : State} {b w : Nat} {x : Block} {y : Wave} {pc : PC} {ws : List DWord} (hf : s.fetchBundle (x.seenBy y) pc = (t, .ok ws))
include hf

theorem State.issueAt_of_decodeBundle_error {d : DecodeErr} (hd : decodeBundle x.priv x.budget y.rotb.toNat ws = .error d) :
    s.issueAt b w x y pc =
      (let u := t.begin b w (x.ctxOf y) (y.lanesAt pc) pc ws.length
       if d.name = .illegalOpcode then exec (.illegalOpcode d.mask (BitVec.ofNat 32 d.dval)) u
       else .next (u.decodeStop b w d.name.code d.mask 0 0 d.dval), []) := by
  simp only [State.issueAt, hf, hd]

theorem State.issueAt_of_not_shapeOk (hk : ∀ v ∈ ws, (sylCls v).toNat ≤ 3) (hs : shapeOk ws = false) :
    s.issueAt b w x y pc =
      (.next ((t.begin b w (x.ctxOf y) (y.lanesAt pc) pc ws.length).decodeStop b w 0x02 0 0 0 ws.length), []) := by
  rw [State.issueAt_of_decodeBundle_error hf (decodeBundle_of_not_shapeOk hk hs)]
  rfl

end

/-- Settles O47: each of the shapes breaks the check of the shape, and a class code 4 to 7 is looked for before it. -/
theorem illegalBundlesStop : Obligations.IllegalBundlesStop := by
  intro s t b w x y pc ws hf u cls vop
  refine ⟨fun hk hbad => State.issueAt_of_not_shapeOk hf hk ?_, fun hc => ?_⟩
  · rcases hbad with ⟨v, h4, hend⟩ | hbad
    · exact not_shapeOk_of_fourth (State.length_of_fetchFrom hf) h4 hend
    · refine Bool.eq_false_iff.mpr fun hs => ?_
      obtain ⟨-, sorted, hu, hv, hm, hx, hsf, hxc⟩ := (shapeOk_iff ws).mp hs
      rcases hbad with h | h | h | h | h | h | h
      · exact h sorted
      · exact absurd hu (Nat.not_le_of_lt h)
      · exact absurd hv (Nat.not_le_of_lt h)
      · exact absurd hm (Nat.not_le_of_lt h)
      · exact absurd hx (Nat.not_le_of_lt h)
      · exact absurd hsf (Nat.not_le_of_lt h)
      · exact absurd hxc (Nat.not_le_of_lt h)
  · obtain ⟨d, hd⟩ := decodeBundle_of_unknownClass hc
    exact ⟨_, State.issueAt_of_decodeBundle_error hf hd⟩

end Sys2Proof.Machine
end

section
/-! PROOFS. Scalar compares and selects, and the commands of the copy engine and of the rings at issue (R126, R181, R189 to R191, R266 to
R284). -/

namespace Sys2Proof.Safety

open Sys2Proof.Machine

/-- The relation of the numbers of two words is that of the words, code by code (R126). -/
theorem icmpHolds_toNat (a b : Word) : ∀ cc, icmpHolds cc 32 a.toNat b.toNat = relation cc a b
  | 0 => decide_eq_decide.mpr BitVec.toNat_inj
  | 1 => decide_eq_decide.mpr (not_congr BitVec.toNat_inj)
  | 2 | 3 | 4 | 5 => by simp only [icmpHolds, sext_toInt]; rfl
  | 6 | 7 | 8 | _ + 9 => rfl

/-- Settles O3: the compares by icmpHolds_toNat, the others as they stand. -/
theorem scalarCompareAndSelectResults : Obligations.ScalarCompareAndSelectResults := by
  intro h o b
  refine ⟨?scmp, ?scmpi, ?ssel, ?clog⟩
  case scmp => exact stagesU_of (fun _ => rfl) fun e => by rw [Env.sm, Env.sm, icmpHolds_toNat]; rfl
  case scmpi => exact stagesU_of (fun _ => rfl) fun e => by rw [Env.sm, immCmp_toNat, icmpHolds_toNat]; rfl
  case ssel =>
    refine stagesU_of (fun _ => rfl) fun e => ?_
    rw [Env.sm, Env.sm, apply_ite toWord, toWord_toNat, toWord_toNat]
    rfl
  case clog => exact stagesU_of (fun _ => rfl) fun _ => rfl

/-- Settles O22: the copy and base-die commands share one form, and SWAIT and SREL compare K with what their ring holds. -/
theorem copyAndRingCommandResults : Obligations.CopyAndRingCommandResults := by
  refine ⟨fun h o i ol hi => ?copy, fun h o r => ⟨?swait, fun s e he hh hq hr hk => ?swaitHeld, ?srel⟩⟩
  case copy =>
    rcases hi with ⟨rfl | rfl | rfl | rfl | rfl, rfl⟩ | ⟨rfl | rfl | rfl, rfl⟩ <;> exact stagesX_of_xAct (fun _ => rfl) fun _ _ => rfl
  case swait =>
    refine stagesX_of_xAct (fun _ => rfl) fun e ⟨hr, hk⟩ => ?_
    simp only [hr]
    exact if_neg (Nat.not_lt.mpr hk)
  case swaitHeld =>
    refine exec_of_xAct rfl he hh hq ?_
    simp only [hr]
    exact if_pos hk
  case srel =>
    refine stagesX_of_xAct (fun _ => rfl) fun e ⟨hr, hk⟩ => ?_
    simp only [hr]
    exact if_neg (Nat.not_lt.mpr hk)

end Sys2Proof.Safety
end

section
/-! PROOFS. The commit of staged register effects: what it writes, and what it leaves (R121, R165, R171, R240). -/

namespace Sys2Proof.Machine

/-- The state once the issued threads have moved on and the staged register effects have reached their wave (R165). -/
def State.written (s : State) (iu : Issue) : State :=
  iu.effs.foldl (fun s f => s.modWave iu.block iu.wave f.toWave) (({ s with cur := none } : State).modWave iu.block iu.wave iu.moved)

section
variable (s : State) (iu : Issue)

/-- What no change of a wave shows, the register effects of a bundle do not show. -/
theorem State.written_keeps {α : Type} (π : State → α) (hπ : ∀ s b w f, π (State.modWave s b w f) = π s) :
    π (s.written iu) = π { s with cur := none } :=
  (State.foldl_modWave_keeps π iu.block iu.wave (fun t f => hπ t _ _ f) _ _).trans (hπ _ _ _ _)

theorem State.wave?_written (b w : Nat) : (s.written iu).wave? b w =
    if b = iu.block ∧ w = iu.wave then (s.wave? iu.block iu.wave).map fun y => iu.effs.foldl (fun y f => f.toWave y) (iu.moved y)
    else s.wave? b w := by
  rw [State.written, State.wave?_foldl_modWave, State.wave?_modWave, State.wave?_modWave]
  split
  · rw [if_pos ⟨rfl, rfl⟩, Option.map_map]; rfl
  · rfl

section
variable {s iu} (hr : ∀ f ∈ iu.effs, f.onRegs = true) {y : Wave} (hy : s.wave? iu.block iu.wave = some y)
include hr hy

/-- Beside its register effects a commit is quiet. -/
theorem State.quiet_commit_of_onRegs : Quiet (s.written iu) (s.commit iu) := by
  obtain ⟨x, hx⟩ := State.wave?_isSome hy
  have present : ((({ s with cur := none } : State).modWave iu.block iu.wave iu.moved).block? iu.block).isSome := by
    rw [State.block?_modWave_isSome]
    exact Option.isSome_of_eq_some hx
  rw [State.written, ← State.foldl_onRegs iu.effs _ iu hr present]
  exact s.commit_quiet iu

theorem State.regs?_commit_own :
    (s.commit iu).regs? iu.block iu.wave = some (iu.effs.foldl (fun y f => f.toWave y) (iu.moved y)).regs := by
  rw [(State.quiet_commit_of_onRegs hr hy).regs, State.regs?, State.wave?_written, if_pos ⟨rfl, rfl⟩, hy]
  rfl

theorem State.regs?_commit_other {b w : Nat} (h : ¬(b = iu.block ∧ w = iu.wave)) : (s.commit iu).regs? b w = s.regs? b w := by
  rw [(State.quiet_commit_of_onRegs hr hy).regs, State.regs?, State.wave?_written, if_neg h]
  rfl

theorem State.mtx?_commit (b : Nat) : (s.commit iu).mtx? b = s.mtx? b :=
  ((State.quiet_commit_of_onRegs hr hy).mtx b).trans
    (s.written_keeps iu (fun t => t.mtx? b) fun t a w f => State.mtx?_modWave t a w b f)

theorem State.die_commit (d : Nat) : ((s.commit iu).die d).settled = (s.die d).settled :=
  ((State.quiet_commit_of_onRegs hr hy).dies d).trans (s.written_keeps iu (fun t => (t.die d).settled) fun t a w f => by simp [State.die])

end

end

end Sys2Proof.Machine

namespace Sys2Proof.Safety

open Sys2Proof.Machine

/-- The commit of a bundle that has staged register effects alone, after the walks of its addresses. -/
theorem commitsTo_finish {s : State} {e : Env} (he : s.env = some e) (held : e.iu.held = false) (room : countersFull e.y e.iu.effs = false)
    (passed : e.iu.raised = []) (hr : ∀ f ∈ e.iu.effs, f.onRegs = true) : CommitsTo s s.finish e.iu e.y := by
  obtain ⟨-, -, ⟨x, hx, hex⟩, hy⟩ := State.env_some he
  have binds := State.binds_bindTouched s e
  have wave : (s.bindTouched e).wave? e.iu.block e.iu.wave = some e.y := by
    rw [State.wave?, State.block?, binds.blocks]
    rw [hex] at hy
    exact (State.wave?_of_block s hx e.iu.wave).trans hy
  have quiet := State.quiet_commit_of_onRegs hr wave
  have kept {α : Type} (π : State → α) (hπ : ∀ s b w f, π (State.modWave s b w f) = π s) :=
    (s.bindTouched e).written_keeps e.iu π hπ
  have memory : (s.bindTouched e |>.commit e.iu).mem = (s.bindTouched e).mem := quiet.mem.trans (kept State.mem State.modWave_mem)
  have dies := State.die_commit hr wave
  rw [State.finish_commits he held room (by rw [passed]; rfl)]
  refine ⟨State.regs?_commit_own hr wave, fun b w h => (State.regs?_commit_other hr wave h).trans (binds.regs b w),
    fun b => (State.mtx?_commit hr wave b).trans (binds.mtx b), quiet.cur.trans (kept State.cur State.modWave_cur),
    (quiet.host.trans (kept State.host State.modWave_host)).trans binds.host,
    (quiet.ctxs.trans (kept State.ctxs State.modWave_ctxs)).trans binds.ctxs, fun pools => ?mem, fun untouched => ?still⟩
  case mem =>
    refine memory.trans (binds.same fun d => ?_).1
    exact (congrArg Die.pools (dies d)).symm.trans (pools d)
  case still =>
    rw [State.bindTouched_nil s e untouched] at quiet memory dies kept ⊢
    exact ⟨memory, quiet.unspec.trans (kept State.unspec State.modWave_unspec), quiet.poison.trans (kept State.poison State.modWave_poison),
      dies⟩

/-- Settles O52. -/
theorem commitWritesTheStagedRegisters : Obligations.CommitWritesTheStagedRegisters :=
  fun _ _ he held room passed hr => commitsTo_finish he held room passed hr

end Sys2Proof.Safety
end

section
/-! PROOFS. The frames of the instructions that write registers, and of bundles of them that masked slots split (R121, R124, R132, R165,
R169, R170, R181, R184, R185, R204). -/

namespace Sys2Proof.Machine

/-! ## Lanes -/

theorem mem_lanesOf {m : Lanes} {l : Nat} : l ∈ lanesOf m ↔ l < 128 ∧ m.getLsbD l = true := by
  rw [lanesOf, List.mem_filter, List.mem_range]

/-- Lanes that stand in a mask where f holds stand in the mask. -/
theorem getLsbD_lanesWhere {m : Lanes} {f : Nat → Bool} {l : Nat} (h : m.getLsbD l = false) : (lanesWhere m f).getLsbD l = false := by
  have bits (ks : List Nat) (hk : l ∉ ks) (a : Lanes) : (ks.foldl (fun acc k => acc ||| laneBit k) a).getLsbD l = a.getLsbD l := by
    induction ks generalizing a with
    | nil => rfl
    | cons k ks ih =>
      obtain ⟨hne, hks⟩ : l ≠ k ∧ l ∉ ks := ⟨List.ne_of_not_mem_cons hk, List.not_mem_of_not_mem_cons hk⟩
      have other : (laneBit k).getLsbD l = false := by
        simp only [laneBit, BitVec.getLsbD_shiftLeft, BitVec.ofNat_eq_ofNat, BitVec.getLsbD_one, Bool.and_eq_false_iff, decide_eq_false_iff_not,
          Bool.not_eq_false', decide_eq_true_eq]
        omega
      rw [List.foldl_cons, ih hks, BitVec.getLsbD_or, other, Bool.or_false]
  refine (bits _ (fun hl => ?_) 0).trans (BitVec.getLsbD_zero)
  have := (mem_lanesOf.mp (List.mem_filter.mp hl).1).2
  exact absurd this (by rw [h]; decide)

/-! ## What a wave keeps -/

/-- Of the registers of a wave only the scalars ss, the vector registers vs, the lane predicates ps and, with draws, the generators in the
lanes m, and the wave conditions cs may differ. -/
structure Wave.Keeps (draws : Bool) (m : Lanes) (ss vs ps cs : List Nat) (y z : Wave) : Prop where
  scalar : ∀ r, r ∉ ss → z.rdS r = y.rdS r
  vector : ∀ r l, l < 128 → r ∉ vs ∨ m.getLsbD l = false → z.rdV r l = y.rdV r l
  pred : ∀ k l, k ∉ ps ∨ m.getLsbD l = false → (z.rdP k).getLsbD l = (y.rdP k).getLsbD l
  cond : ∀ k, k ∉ cs → z.rdC k = y.rdC k
  loopc : z.loopc = y.loopc
  rotb : z.rotb = y.rotb
  rng : draws = false → z.rng = y.rng
  rngOf : ∀ l, m.getLsbD l = false → z.rngOf l = y.rngOf l
  living : z.living = y.living
  pc : z.pc = y.pc

/-- A register effect that writes only there; a predicate keeps its value outside the lanes m. -/
def Eff.Within (draws : Bool) (m : Lanes) (ss vs ps cs : List Nat) (y : Wave) : Eff → Prop
  | .setS r _ => r ∈ ss
  | .setV r l _ => r ∈ vs ∧ l < 128 ∧ m.getLsbD l = true
  | .setP k p => k ∈ ps ∧ ∀ l, m.getLsbD l = false → p.getLsbD l = (y.rdP k).getLsbD l
  | .setC c _ => c ∈ cs ∧ c < 16
  | .setRng l _ => draws = true ∧ m.getLsbD l = true
  | _ => False

section
variable (y : Wave)

theorem Wave.wrS_eq (r : Nat) (v : Word) : ∃ t, y.wrS r v = { y with s := t } := by
  unfold Wave.wrS
  split
  · exact ⟨y.s, rfl⟩
  · exact ⟨_, rfl⟩

theorem Wave.wrP_eq (k : Nat) (p : Lanes) : ∃ t, y.wrP k p = { y with p := t } := by
  unfold Wave.wrP
  split
  · exact ⟨y.p, rfl⟩
  · exact ⟨_, rfl⟩

theorem Wave.wrC_eq (k : Nat) (v : Bool) : ∃ t, y.wrC k v = { y with c := t } := by
  unfold Wave.wrC
  split
  · exact ⟨y.c, rfl⟩
  · exact ⟨_, rfl⟩

/-- PCs of lanes set to one address. -/
theorem Wave.foldl_setPc (a : PC) (ls : List Nat) : ∃ t, ls.foldl (fun y l => y.setPc l a) y = { y with pc := t } ∧
    ∀ l, Table.get 0 t l = if l ∈ ls then a else y.pcOf l := by
  induction ls generalizing y with
  | nil => exact ⟨y.pc, rfl, fun l => by simp [Wave.pcOf]⟩
  | cons k ls ih =>
    obtain ⟨t, ht, hpc⟩ := ih (y.setPc k a)
    refine ⟨t, ht, fun l => ?_⟩
    rw [hpc, Wave.pcOf_setPc]
    by_cases hl : l ∈ ls <;> by_cases hk : l = k <;> simp [hl, hk]

end

section
variable {draws : Bool} {m : Lanes} {ss vs ps cs : List Nat} {y z : Wave}

theorem Wave.Keeps.refl (y : Wave) : Wave.Keeps draws m ss vs ps cs y y := by constructor <;> intros <;> rfl

theorem Eff.Within.onRegs {f : Eff} (h : f.Within draws m ss vs ps cs y) : f.onRegs = true := by
  cases f with
  | setS | setV | setP | setC | setRng => rfl
  | _ => exact h.elim

/-- A register effect within its bounds. -/
theorem Wave.Keeps.toWave {f : Eff} (hf : f.Within draws m ss vs ps cs y) (h : Wave.Keeps draws m ss vs ps cs y z) :
    Wave.Keeps draws m ss vs ps cs y (f.toWave z) := by
  cases f with
  | setS r v =>
    obtain ⟨t, ht⟩ := z.wrS_eq r v
    have scalar q (hq : q ∉ ss) : (z.wrS r v).rdS q = y.rdS q := by
      rw [Wave.rdS_wrS, if_neg fun (e : q = r ∧ r ≠ 0) => hq (e.1 ▸ hf), h.scalar q hq]
    rw [ht] at scalar
    rw [Eff.toWave, ht]
    exact { h with scalar := scalar }
  | setV r l v =>
    obtain ⟨hr, hl, hm⟩ := hf
    refine { h with vector := fun q k hk hq => ?_ }
    refine (Wave.rdV_wrV z r l q k v hl hk).trans ?_
    rw [if_neg, h.vector q k hk hq]
    rintro ⟨rfl, rfl⟩
    rcases hq with hq | hq
    · exact hq hr
    · exact absurd hm (by rw [hq]; decide)
  | setP k p =>
    obtain ⟨hk, hp⟩ := hf
    obtain ⟨t, ht⟩ := z.wrP_eq k p
    have pred q l (hq : q ∉ ps ∨ m.getLsbD l = false) : ((z.wrP k p).rdP q).getLsbD l = (y.rdP q).getLsbD l := by
      rw [Wave.rdP_wrP]
      split
      · next e =>
        obtain ⟨rfl, -⟩ := e
        exact hp l (hq.resolve_left fun n => n hk)
      · exact h.pred q l hq
    rw [ht] at pred
    rw [Eff.toWave, ht]
    exact { h with pred := pred }
  | setC c v =>
    obtain ⟨hc, h16⟩ := hf
    obtain ⟨t, ht⟩ := z.wrC_eq c v
    have cond q (hq : q ∉ cs) : (z.wrC c v).rdC q = y.rdC q := by
      rw [Wave.rdC_wrC _ _ _ _ h16, if_neg fun (e : q = c ∧ c ≠ 0) => hq (e.1 ▸ hc), h.cond q hq]
    rw [ht] at cond
    rw [Eff.toWave, ht]
    exact { h with cond := cond }
  | setRng l v =>
    obtain ⟨hd, hl⟩ := hf
    refine { h with rng := fun hn => absurd hd (by rw [hn]; decide), rngOf := fun k hk => ?_ }
    refine (Wave.rngOf_setRng z l k v).trans ?_
    rw [if_neg, h.rngOf k hk]
    rintro rfl
    exact absurd hl (by rw [hk]; decide)
  | _ => exact hf.elim

theorem Wave.Keeps.foldl {fs : List Eff} (hf : ∀ f ∈ fs, f.Within draws m ss vs ps cs y) (h : Wave.Keeps draws m ss vs ps cs y z) :
    Wave.Keeps draws m ss vs ps cs y (fs.foldl (fun z f => f.toWave z) z) :=
  List.foldlRecOn (motive := Wave.Keeps draws m ss vs ps cs y) fs _ h fun _ ht f hm => ht.toWave (hf f hm)

/-- What a wave keeps is told by its registers. -/
theorem Wave.Keeps.of_regs {z' : Wave} (hz : z'.regs = z.regs) (h : Wave.Keeps draws m ss vs ps cs y z) :
    Wave.Keeps draws m ss vs ps cs y z' := by
  obtain ⟨hs, hv, hp, hc, hl, hb, hg, hpc, hli⟩ := Regs.mk.inj hz
  constructor
  case scalar => simpa only [Wave.rdS, hs] using h.scalar
  case vector => simpa only [Wave.rdV, hv] using h.vector
  case pred => simpa only [Wave.rdP, hp] using h.pred
  case cond => simpa only [Wave.rdC, hc] using h.cond
  case loopc => exact hl.trans h.loopc
  case rotb => exact hb.trans h.rotb
  case rng => exact fun hn => hg.trans (h.rng hn)
  case rngOf => simpa only [Wave.rngOf, hg] using h.rngOf
  case living => exact hli.trans h.living
  case pc => exact hpc.trans h.pc

end

/-- The issued threads have moved on; all else that a bundle may keep of a wave is as it was. -/
theorem Issue.moved_eq (iu : Issue) (y : Wave) :
    ∃ t, iu.moved y = { y with pc := t, since := none, full := none, ask := none, split := none } ∧
      ∀ l < 128, Table.get 0 t l = if iu.lanes.getLsbD l then iu.next else y.pcOf l := by
  obtain ⟨t, ht, hpc⟩ := y.foldl_setPc iu.next (lanesOf iu.lanes)
  refine ⟨t, by rw [Issue.moved, ht], fun l hl => ?_⟩
  simp only [hpc, mem_lanesOf, hl, true_and]

/-! ## One syllable alone in its bundle -/

/-- The bundle in hand once its only syllable has staged its effects. -/
def Issue.only (iu : Issue) (vslot : Nat) (l : List Eff) : Issue := { iu with vslot := vslot, effs := l }

/-- The state with a bundle in hand. -/
def State.inHand (s : State) (iu : Issue) : State := { s with cur := some iu }

/-- A bundle with no address to bind commits as it stands. -/
theorem State.finish_untouched {s : State} {e : Env} (he : s.env = some e) (held : e.iu.held = false)
    (room : countersFull e.y e.iu.effs = false) (passed : e.iu.raised = []) (touch : e.iu.touch = []) : s.finish = s.commit e.iu := by
  rw [State.finish_commits he held room (by rw [passed]; rfl), State.bindTouched_nil s e touch]

/-- Register effects count in no counter. -/
theorem countersFull_of_onRegs {y : Wave} {l : List Eff} (hl : ∀ f ∈ l, f.onRegs = true) : countersFull y l = countersFull y [] := by
  have uncounted (c : Ctr) : (l.filter fun f => f.counter = some c) = [] := by
    refine List.filter_eq_nil_iff.mpr fun f hf => ?_
    have := hl f hf
    cases f <;> simp_all [Eff.onRegs, Eff.counter]
  simp only [countersFull, uncounted]
  rfl

end Sys2Proof.Machine

namespace Sys2Proof.Safety

open Sys2Proof.Machine

section
variable {s : State} {e : Env} {i : Instr} {h : Hdr} {draws : Bool} {m : Lanes} {ss vs ps cs : List Nat} (he : s.env = some e) (ha : Alone e h)
include he ha

/-- A syllable alone in its bundle ends it, and the bundle commits what the syllable has staged. -/
theorem stageSyl_alone {n slot : Nat} {l : List Eff} (hr : ∀ f ∈ l, f.onRegs = true) :
    s.stageSyl h.e { e.iu with vslot := n } slot (.eff l) = (s.inHand (e.iu.only n l)).commit (e.iu.only n l) := by
  obtain ⟨hend, held, raised, effs, touch, sub, room⟩ := ha
  obtain ⟨-, -, ⟨x, hx, hex⟩, hy⟩ := State.env_some he
  rw [hex] at hy
  have env : (s.inHand (e.iu.only n l)).env = some ⟨s.inHand (e.iu.only n l), e.iu.only n l, { x with ctx := e.iu.ctx }, e.y⟩ :=
    State.env_of rfl hx hy
  rw [← State.finish_untouched env held ((countersFull_of_onRegs hr).trans room) raised touch]
  have staged : Issue.stage { e.iu with vslot := n } slot (.eff l) = e.iu.only n l := by
    simp only [Issue.stage, effs, List.nil_append]
    rfl
  have last : (h.e && !e.iu.sub) = true := by rw [hend, sub]; rfl
  exact (if_pos last).trans (congrArg (fun iu => (s.inHand iu).finish) staged)

/-- A syllable alone in its bundle that stages register effects within some bounds changes what lies in them, and the PCs. -/
theorem frameOf_of_stages {n slot : Nat} {l : List Eff}
    (hx : exec i s = .next (s.stageSyl h.e { e.iu with vslot := n } slot (.eff l))) (hl : ∀ f ∈ l, f.Within draws m ss vs ps cs e.y) :
    FrameOf draws s e i m ss vs ps cs := by
  have hr : ∀ f ∈ l, f.onRegs = true := fun f hf => (hl f hf).onRegs
  obtain ⟨-, -, ⟨x, hx', hex⟩, hy⟩ := State.env_some he
  rw [hex] at hy
  have wave : (s.inHand (e.iu.only n l)).wave? e.iu.block e.iu.wave = some e.y := (State.wave?_of_block (s.inHand _) hx' _).trans hy
  have quiet := State.quiet_commit_of_onRegs (iu := e.iu.only n l) hr wave
  have kept {α : Type} (π : State → α) (hπ : ∀ s b w f, π (State.modWave s b w f) = π s) :=
    (s.inHand (e.iu.only n l)).written_keeps (e.iu.only n l) π hπ
  obtain ⟨z, hz, hregs⟩ := Option.map_eq_some_iff.mp (State.regs?_commit_own (iu := e.iu.only n l) hr wave)
  obtain ⟨t, moved, pcs⟩ := (e.iu.only n l).moved_eq e.y
  have within : ∀ f ∈ l, f.Within draws m ss vs ps cs ((e.iu.only n l).moved e.y) := by rw [moved]; exact hl
  have keeps := ((Wave.Keeps.refl _).foldl within).of_regs hregs
  rw [moved] at keeps
  refine ⟨_, z, hx.trans (congrArg _ (stageSyl_alone he ha hr)), hz, keeps.scalar, keeps.vector, keeps.pred, keeps.cond, keeps.loopc, keeps.rotb,
    keeps.rng, keeps.rngOf, keeps.living, fun k hk => ?pc, fun b w hbw => State.regs?_commit_other (iu := e.iu.only n l) hr wave hbw,
    State.mtx?_commit hr wave, State.byte_congr (quiet.mem.trans (kept State.mem State.modWave_mem))
      (quiet.unspec.trans (kept State.unspec State.modWave_unspec)) (quiet.steps.trans (kept State.steps State.modWave_steps)),
    quiet.time.trans (kept State.time State.modWave_time), quiet.host.trans (kept State.host State.modWave_host),
    quiet.disp.trans (kept State.disp State.modWave_disp), quiet.power.trans (kept State.power State.modWave_power),
    quiet.fw.trans (kept State.fw State.modWave_fw), quiet.clusters.trans (kept State.clusters State.modWave_clusters),
    State.die_commit hr wave, quiet.ctxs.trans (kept State.ctxs State.modWave_ctxs)⟩
  case pc => exact (congrArg (Table.get 0 · k) keeps.pc).trans (pcs k hk)

/-- The frame of a U syllable: its effects, or none where its condition is false. -/
theorem frameOf_of_stagesU {l : Env → List Eff} (hx : StagesU i h l) (hl : ∀ g ∈ l e, g.Within draws m ss vs ps cs e.y) :
    FrameOf draws s e i m ss vs ps cs := by
  refine frameOf_of_stages he ha (n := e.iu.vslot) (hx s e he) ?_
  split
  · exact hl
  · exact fun g hg => absurd hg List.not_mem_nil

/-- The frame of a V syllable. -/
theorem frameOf_of_stagesV {l : Env → Lanes → List Eff} (hx : StagesV i h l)
    (hl : ∀ g ∈ l e (e.issueSet h), g.Within draws m ss vs ps cs e.y) : FrameOf draws s e i m ss vs ps cs :=
  frameOf_of_stages he ha (hx s e he) hl

end

/-! ## What the staged effects write -/

section
variable {draws : Bool} {m : Lanes} {ss vs ps cs : List Nat} {y : Wave}

theorem within_setS {d : Spec} {v : Word} (hd : d.toNat - 128 ∈ ss) : ∀ g ∈ [setS d v], g.Within draws m ss vs ps cs y := by
  rintro g (_ | ⟨_, ⟨⟩⟩)
  exact hd

theorem within_setS64 {d : Spec} {v : DWord} :
    ∀ g ∈ setS64 d v, g.Within draws m [d.toNat - 128, d.toNat + 1 - 128] vs ps cs y := by
  rintro g (_ | ⟨_, _ | ⟨_, ⟨⟩⟩⟩)
  · exact List.mem_cons_self
  · exact List.mem_cons_of_mem _ List.mem_cons_self

theorem within_setC {d : Spec} {v : Bool} :
    ∀ g ∈ [Eff.setC (Spec.idx d).toNat v], g.Within draws m ss vs ps [(Spec.idx d).toNat] y := by
  rintro g (_ | ⟨_, ⟨⟩⟩)
  exact ⟨List.mem_cons_self, (Spec.idx d).isLt⟩

/-- A register of the lanes m. -/
theorem within_setV {e : Env} {n l : Nat} {v : Word} (hn : e.phys n ∈ vs) (hl : l ∈ lanesOf m) :
    (e.setV n l v).Within draws m ss vs ps cs y := ⟨hn, mem_lanesOf.mp hl⟩

theorem within_lanes {e : Env} {n : Nat} {v : Nat → Word} (hn : e.phys n ∈ vs) :
    ∀ g ∈ (lanesOf m).map fun l => e.setV n l (v l), g.Within draws m ss vs ps cs y := by
  intro g hg
  obtain ⟨l, hl, rfl⟩ := List.mem_map.mp hg
  exact within_setV hn hl

theorem within_setVs64 {e : Env} {d : Spec} {v : Nat → DWord} :
    ∀ g ∈ e.setVs64 d m v, g.Within draws m ss [e.phys d.toNat, e.phys (d.toNat + 1)] ps cs y := by
  intro g hg
  obtain ⟨l, hl, _ | ⟨_, _ | ⟨_, ⟨⟩⟩⟩⟩ := List.mem_flatMap.mp hg
  · exact within_setV List.mem_cons_self hl
  · exact within_setV (List.mem_cons_of_mem _ List.mem_cons_self) hl

/-- A lane predicate keeps its lanes outside m. -/
theorem within_setPs {e : Env} {k : Nat} {f : Nat → Bool} :
    ∀ g ∈ [e.setPs k m f], g.Within draws m ss vs [physP e.x.var.rotv e.y.rotb.toNat k] cs e.y := by
  rintro g (_ | ⟨_, ⟨⟩⟩)
  refine ⟨List.mem_cons_self, fun l hl => ?_⟩
  by_cases h128 : l < 128
  · simp only [BitVec.getLsbD_or, BitVec.getLsbD_and, BitVec.getLsbD_not, getLsbD_lanesWhere hl, hl, h128, decide_true, Bool.not_false,
      Bool.and_self, Bool.and_true, Bool.or_false]
  · simp only [BitVec.getLsbD_of_ge _ l (Nat.not_lt.mp h128)]

theorem within_draws {e : Env} {o : FmtA} {n : Nat} :
    ∀ g ∈ e.draws o m n, g.Within (modeCode o = 4 ∧ e.s.dawn = false) m ss vs ps cs y := by
  intro g hg
  unfold Env.draws at hg
  split at hg
  case isTrue stochastic =>
    obtain ⟨l, hl, rfl⟩ := List.mem_map.mp hg
    exact ⟨decide_eq_true (by simpa using stochastic), (mem_lanesOf.mp hl).2⟩
  case isFalse => cases hg

end

/-! ## What the register instructions stage -/

section
variable (h : Hdr)

theorem stagesU_scalarResults (o : FmtA) : ∀ c ∈ scalarResults, ∃ f : Env → Word, StagesU (c h o) h fun e => [setS o.d (f e)] := by
  obtain ⟨arith, logic, extrema⟩ := scalarArithmeticResults
  obtain ⟨sadd, ssub, smul, smulh, smulhu⟩ := arith h o
  obtain ⟨sand, sor, sxor, sandn, sshl, sshr, ssra⟩ := logic h o
  obtain ⟨smin, smax, sminu, smaxu⟩ := extrema h o
  obtain ⟨sdiv, sdivu, -, -⟩ := scalarDivisionResults h o
  obtain ⟨-, -, ssel, -⟩ := scalarCompareAndSelectResults h o ⟨0, 0, 0, 0, 0⟩
  obtain ⟨spopc, sclz, sbfx, sbfi⟩ := scalarBitResults h o
  simp only [scalarResults, List.forall_mem_cons, List.not_mem_nil, false_implies, implies_true, and_true]
  exact ⟨⟨_, sadd⟩, ⟨_, ssub⟩, ⟨_, smul⟩, ⟨_, smulh⟩, ⟨_, smulhu⟩, ⟨_, sdiv⟩, ⟨_, sdivu⟩, ⟨_, sand⟩, ⟨_, sor⟩, ⟨_, sxor⟩, ⟨_, sandn⟩, ⟨_, sshl⟩,
    ⟨_, sshr⟩, ⟨_, ssra⟩, ⟨_, smin⟩, ⟨_, smax⟩, ⟨_, sminu⟩, ⟨_, smaxu⟩, ⟨_, ssel⟩, ⟨_, spopc⟩, ⟨_, sclz⟩, ⟨_, sbfx⟩, ⟨_, sbfi⟩⟩

theorem stagesU_scalarImmediates (o : FmtB) : ∀ c ∈ scalarImmediates, ∃ f : Env → Word, StagesU (c h o) h fun e => [setS o.d (f e)] := by
  obtain ⟨saddi, sandi, sori, sxori, sshli, sshri, ssrai⟩ := immediateAndPairResults.1 h o
  simp only [scalarImmediates, List.forall_mem_cons, List.not_mem_nil, false_implies, implies_true, and_true]
  exact ⟨⟨_, saddi⟩, ⟨_, sandi⟩, ⟨_, sori⟩, ⟨_, sxori⟩, ⟨_, sshli⟩, ⟨_, sshri⟩, ⟨_, ssrai⟩⟩

theorem stagesV_vectorResults (o : FmtA) :
    ∀ c ∈ vectorResults, ∃ f : Env → Lanes → Nat → Word, StagesV (c h o) h fun e m => e.setVs o.d m (f e m) := by
  obtain ⟨arith, extrema⟩ := vectorElementResults
  obtain ⟨vadd, vsub, vmul, vmulh, vmulhu, vand, vor, vxor, vandn, vshl, vshr, vsra⟩ := arith
  obtain ⟨vmin, vmax, vminu, vmaxu, vadds, vaddsu, vsubs, vsubsu, vabsd, vmad⟩ := extrema
  obtain ⟨-, -, vsel, -⟩ := vectorCompareAndSelectResults h o ⟨0, 0, 0, 0, 0⟩
  obtain ⟨vmov, vpopc, vclz, vbfx, vbfi, vdot4, vpack, vunpk⟩ := vectorBitAndPackResults h o
  obtain ⟨ffma, fmin, fmax, -, fclass, fdot2⟩ := floatArithmeticResults.2 h o
  obtain ⟨-, -, -, fmaxk, -, fmxd⟩ := floatConversionResults h o
  obtain ⟨sfsin, sfcos, sfexp2, sflog2, sfrcp, sfrsq, sfsqrt, -⟩ := specialFunctionResults h o
  obtain ⟨xshf, xbfly, xup, xdn, xbcast, xred, xscan, -, -⟩ := laneExchangeResults h o
  simp only [vectorResults, List.forall_mem_cons, List.not_mem_nil, false_implies, implies_true, and_true]
  exact ⟨⟨_, vadd h o⟩, ⟨_, vsub h o⟩, ⟨_, vadds h o⟩, ⟨_, vaddsu h o⟩, ⟨_, vsubs h o⟩, ⟨_, vsubsu h o⟩, ⟨_, vmul h o⟩, ⟨_, vmulh h o⟩,
    ⟨_, vmulhu h o⟩, ⟨_, vmad h o⟩, ⟨_, vand h o⟩, ⟨_, vor h o⟩, ⟨_, vxor h o⟩, ⟨_, vandn h o⟩, ⟨_, vshl h o⟩, ⟨_, vshr h o⟩, ⟨_, vsra h o⟩,
    ⟨_, vmin h o⟩, ⟨_, vmax h o⟩, ⟨_, vminu h o⟩, ⟨_, vmaxu h o⟩, ⟨_, vabsd h o⟩, ⟨_, vsel⟩, ⟨_, vmov⟩, ⟨_, vpopc⟩, ⟨_, vclz⟩, ⟨_, vbfx⟩,
    ⟨_, vbfi⟩, ⟨_, vdot4⟩, ⟨_, vpack⟩, ⟨_, vunpk⟩, ⟨_, ffma⟩, ⟨_, fmin⟩, ⟨_, fmax⟩, ⟨_, fclass⟩, ⟨_, fdot2⟩, ⟨_, fmaxk⟩, ⟨_, fmxd⟩, ⟨_, sfsin⟩,
    ⟨_, sfcos⟩, ⟨_, sfexp2⟩, ⟨_, sflog2⟩, ⟨_, sfrcp⟩, ⟨_, sfrsq⟩, ⟨_, sfsqrt⟩, ⟨_, xshf⟩, ⟨_, xbfly⟩, ⟨_, xup⟩, ⟨_, xdn⟩, ⟨_, xbcast⟩, ⟨_, xred⟩,
    ⟨_, xscan⟩⟩

theorem stagesV_vectorImmediates (o : FmtB) :
    ∀ c ∈ vectorImmediates, ∃ f : Env → Lanes → Nat → Word, StagesV (c h o) h fun e m => e.setVs o.d m (f e m) := by
  obtain ⟨vaddi, vandi, vshli, vshri, vsrai⟩ := immediateAndPairResults.2.1
  simp only [vectorImmediates, List.forall_mem_cons, List.not_mem_nil, false_implies, implies_true, and_true]
  exact ⟨⟨_, vaddi h o⟩, ⟨_, vandi h o⟩, ⟨_, vshli h o⟩, ⟨_, vshri h o⟩, ⟨_, vsrai h o⟩⟩

theorem stagesV_modeResults (o : FmtA) :
    ∀ c ∈ modeResults, ∃ (f : Env → Lanes → Nat → Word) (n : Nat), StagesV (c h o) h fun e m => e.setVs o.d m (f e m) ++ e.draws o m n := by
  obtain ⟨fadd, fsub, fmul⟩ := floatArithmeticResults.1
  obtain ⟨fcvt, fcvti, icvtf, -, fmxq, -⟩ := floatConversionResults h o
  simp only [modeResults, List.forall_mem_cons, List.not_mem_nil, false_implies, implies_true, and_true]
  exact ⟨⟨_, _, fadd h o⟩, ⟨_, _, fsub h o⟩, ⟨_, _, fmul h o⟩, ⟨_, _, fcvt⟩, ⟨_, _, fcvti⟩, ⟨_, _, icvtf⟩, ⟨_, _, fmxq⟩⟩

theorem stagesV_predicateResults (o : FmtA) :
    ∀ c ∈ [Instr.vcmp, .plog, .fcmp, .xvote], ∃ f : Env → Lanes → Nat → Bool,
      StagesV (c h o) h fun e m => [e.setPs (Spec.idx o.d).toNat m (f e m)] := by
  obtain ⟨vcmp, -, -, plog⟩ := vectorCompareAndSelectResults h o ⟨0, 0, 0, 0, 0⟩
  obtain ⟨-, -, -, fcmp, -, -⟩ := floatArithmeticResults.2 h o
  obtain ⟨-, -, -, -, -, -, -, -, xvote⟩ := laneExchangeResults h o
  simp only [List.forall_mem_cons, List.not_mem_nil, false_implies, implies_true, and_true]
  exact ⟨⟨_, vcmp⟩, ⟨_, plog⟩, ⟨_, fcmp⟩, ⟨_, xvote⟩⟩

end

/-! ## The frames of the instructions alone in their bundle -/

section
variable {s : State} {e : Env} {i : Instr} {h : Hdr} {m : Lanes} (he : s.env = some e) (ha : Alone e h)
include he ha

/-- A result in one scalar register. -/
theorem frame_of_setS {d : Spec} {f : Env → Word} (hx : StagesU i h fun e => [setS d (f e)]) : Frame s e i m [d.toNat - 128] [] [] [] :=
  frameOf_of_stagesU he ha hx (within_setS List.mem_cons_self)

/-- A result in a scalar pair. -/
theorem frame_of_setS64 {d : Spec} {f : Env → DWord} (hx : StagesU i h fun e => setS64 d (f e)) :
    Frame s e i m [d.toNat - 128, d.toNat + 1 - 128] [] [] [] :=
  frameOf_of_stagesU he ha hx within_setS64

/-- A result in one vector register. -/
theorem frame_of_setVs {d : Spec} {f : Env → Lanes → Nat → Word} (hx : StagesV i h fun e m => e.setVs d m (f e m)) :
    Frame s e i (e.issueSet h) [] [e.phys d.toNat] [] [] :=
  frameOf_of_stagesV he ha hx (within_lanes List.mem_cons_self)

/-- A result in a vector pair. -/
theorem frame_of_setVs64 {d : Spec} {f : Env → Nat → DWord} (hx : StagesV i h fun e m => e.setVs64 d m (f e)) :
    Frame s e i (e.issueSet h) [] [e.phys d.toNat, e.phys (d.toNat + 1)] [] [] :=
  frameOf_of_stagesV he ha hx within_setVs64

/-- A result in one lane predicate. -/
theorem frame_of_setPs {d : Spec} {f : Env → Lanes → Nat → Bool} (hx : StagesV i h fun e m => [e.setPs (Spec.idx d).toNat m (f e m)]) :
    Frame s e i (e.issueSet h) [] [] [physP e.x.var.rotv e.y.rotb.toNat (Spec.idx d).toNat] [] :=
  frameOf_of_stagesV he ha hx within_setPs

theorem frame_scalarCompares (o : FmtA) :
    Frame s e (.scmp h o) m [] [] [] [(Spec.idx o.d).toNat] ∧ Frame s e (.clog h o) m [] [] [] [(Spec.idx o.d).toNat] := by
  obtain ⟨scmp, -, -, clog⟩ := scalarCompareAndSelectResults h o ⟨0, 0, 0, 0, 0⟩
  exact ⟨frameOf_of_stagesU he ha scmp within_setC, frameOf_of_stagesU he ha clog within_setC⟩

theorem frame_scmpi (b : FmtB) : Frame s e (.scmpi h b) m [] [] [] [(Spec.idx b.d).toNat] := by
  obtain ⟨-, scmpi, -, -⟩ := scalarCompareAndSelectResults h ⟨0, 0, 0, 0, 0, 0, 0, 0⟩ b
  exact frameOf_of_stagesU he ha scmpi within_setC

theorem frame_longScalars (c : FmtC) : Frame s e (.sli h c) m [c.d.toNat - 128] [] [] [] ∧
    Frame s e (.sliHi h c) m [c.d.toNat + 1 - 128] [] [] [] ∧
    Frame s e (.sliSx h c) m [c.d.toNat - 128, c.d.toNat + 1 - 128] [] [] [] := by
  obtain ⟨sli, sliHi, sliSx, -⟩ := immediateAndPairResults.2.2 h c ⟨0, 0, 0, 0, 0, 0, 0, 0⟩
  refine ⟨frame_of_setS he ha sli, frameOf_of_stagesU he ha sliHi ?_, frame_of_setS64 he ha sliSx⟩
  rintro g (_ | ⟨_, ⟨⟩⟩)
  exact List.mem_cons_self

theorem frame_longVectors (c : FmtC) : Frame s e (.vli h c) (e.issueSet h) [] [e.phys c.d.toNat] [] [] ∧
    Frame s e (.vliHi h c) (e.issueSet h) [] [e.phys (c.d.toNat + 1)] [] [] ∧
    Frame s e (.vliSx h c) (e.issueSet h) [] [e.phys c.d.toNat, e.phys (c.d.toNat + 1)] [] [] := by
  obtain ⟨-, -, -, vli, vliHi, vliSx, -⟩ := immediateAndPairResults.2.2 h c ⟨0, 0, 0, 0, 0, 0, 0, 0⟩
  exact ⟨frame_of_setVs he ha vli, frameOf_of_stagesV he ha vliHi (within_lanes List.mem_cons_self), frame_of_setVs64 he ha vliSx⟩

theorem frame_sadd64 (o : FmtA) : Frame s e (.sadd64 h o) m [o.d.toNat - 128, o.d.toNat + 1 - 128] [] [] [] := by
  obtain ⟨-, -, -, -, -, -, sadd64, -⟩ := immediateAndPairResults.2.2 h ⟨0, 0, 0⟩ o
  exact frame_of_setS64 he ha sadd64

theorem frame_vadd64 (o : FmtA) : Frame s e (.vadd64 h o) (e.issueSet h) [] [e.phys o.d.toNat, e.phys (o.d.toNat + 1)] [] [] := by
  obtain ⟨-, -, -, -, -, -, -, vadd64⟩ := immediateAndPairResults.2.2 h ⟨0, 0, 0⟩ o
  exact frame_of_setVs64 he ha vadd64

theorem frame_sftwid (o : FmtA) : Frame s e (.sftwid h o) (e.issueSet h) [] [e.phys o.d.toNat, e.phys (o.d.toNat + 1)] [] [] := by
  obtain ⟨-, -, -, -, -, -, -, sftwid⟩ := specialFunctionResults h o
  exact frame_of_setVs64 he ha sftwid

theorem frame_vcmpi (b : FmtB) :
    Frame s e (.vcmpi h b) (e.issueSet h) [] [] [physP e.x.var.rotv e.y.rotb.toNat (Spec.idx b.d).toNat] [] := by
  obtain ⟨-, vcmpi, -, -⟩ := vectorCompareAndSelectResults h ⟨0, 0, 0, 0, 0, 0, 0, 0⟩ b
  exact frame_of_setPs he ha vcmpi

theorem frame_modeResults (o : FmtA) : ∀ c ∈ modeResults,
    FrameOf (modeCode o = 4 ∧ e.s.dawn = false) s e (c h o) (e.issueSet h) [] [e.phys o.d.toNat] [] [] := by
  intro c hc
  obtain ⟨f, n, hx⟩ := stagesV_modeResults h o c hc
  exact frameOf_of_stagesV he ha hx (List.forall_mem_append.mpr ⟨within_lanes List.mem_cons_self, within_draws⟩)

theorem frame_xballot (o : FmtA) :
    Frame s e (.xballot h o) (e.issueSet h) [] ((List.range 4).map fun k => e.phys (o.d.toNat + k)) [] [] := by
  obtain ⟨-, -, -, -, -, -, -, xballot, -⟩ := laneExchangeResults h o
  refine frameOf_of_stagesV he ha xballot fun g hg => ?_
  obtain ⟨l, hl, hg⟩ := List.mem_flatMap.mp hg
  obtain ⟨k, hk, rfl⟩ := List.mem_map.mp hg
  exact within_setV (List.mem_map_of_mem hk) hl

/-- MFS: LANEID is a vector result, every other special register a scalar one, of one or two words. -/
theorem frame_mfs (o : FmtY) (owned : srIsMatrix o.sr.toNat → e.x.owner) (free : e.srBusy false o.sr.toNat = false) :
    Frame s e (.mfs h o) e.iu.lanes
      (if o.sr = 0 then [] else
        if (srKind o.sr.toNat).map Prod.fst = some 64 then [o.d.toNat - 128, o.d.toNat + 1 - 128] else [o.d.toNat - 128])
      (if o.sr = 0 then [e.phys o.d.toNat] else []) [] [] := by
  cases hh : e.holds h
  case false => exact frameOf_of_stages he ha (n := e.iu.vslot) (skipsU_of (fun _ => rfl) s e he hh) fun g hg => absurd hg List.not_mem_nil
  case true =>
    by_cases laneid : o.sr = 0
    · rw [if_pos laneid, if_pos laneid]
      exact frameOf_of_stages he ha (n := e.iu.vslot) (stages_mfs_laneid h o s e he hh laneid) (within_lanes List.mem_cons_self)
    · rw [if_neg laneid, if_neg laneid]
      have other : o.sr.toNat ≠ 0 := fun z => laneid (BitVec.eq_of_toNat_eq z)
      refine frameOf_of_stages he ha (n := e.iu.vslot) (stages_mfs h o s e he hh ⟨other, owned, by rw [free]; decide⟩) ?_
      split
      · exact within_setS64
      · exact within_setS List.mem_cons_self

end

/-! ## Bundles that masked slots split -/

/-- In a bundle that does not end with it, the instruction adds to the bundle in hand and changes nothing else. -/
def AddsInHand (i : Instr) : Prop := ∀ s e, s.env = some e → e.iu.sub = true →
  ∃ j, exec i s = .next (s.inHand j) ∧ j.block = e.iu.block ∧ j.wave = e.iu.wave ∧ j.sub = true

theorem stageSyl_of_sub {s : State} {iu : Issue} (last : Bool) (slot : Nat) (a : Act) (sub : iu.sub = true) :
    s.stageSyl last iu slot a = s.inHand (iu.stage slot a) := if_neg (by rw [sub, Bool.not_true, Bool.and_false]; decide)

theorem addsInHand_of_stagesU {i : Instr} {h : Hdr} {l : Env → List Eff} (hx : StagesU i h l) : AddsInHand i := fun s e he sub =>
  ⟨_, (hx s e he).trans (congrArg _ (stageSyl_of_sub _ _ _ sub)), rfl, rfl, sub⟩

theorem addsInHand_of_stagesV {i : Instr} {h : Hdr} {l : Env → Lanes → List Eff} (hx : StagesV i h l) : AddsInHand i := fun s e he sub =>
  ⟨_, (hx s e he).trans (congrArg _ (stageSyl_of_sub _ _ _ sub)), rfl, rfl, sub⟩

theorem RegisterForm.addsInHand {i : Instr} (hi : RegisterForm i) : AddsInHand i := by
  obtain ⟨h, ⟨c, hc, o, rfl⟩ | ⟨c, hc, o, rfl⟩⟩ := hi
  · rw [List.mem_append, List.mem_append] at hc
    obtain (hc | hc) | hc := hc
    · exact addsInHand_of_stagesU (stagesU_scalarResults h o c hc).choose_spec
    · exact addsInHand_of_stagesV (stagesV_vectorResults h o c hc).choose_spec
    · exact addsInHand_of_stagesV (stagesV_modeResults h o c hc).choose_spec.choose_spec
  · rw [List.mem_append] at hc
    obtain hc | hc := hc
    · exact addsInHand_of_stagesU (stagesU_scalarImmediates h o c hc).choose_spec
    · exact addsInHand_of_stagesV (stagesV_vectorImmediates h o c hc).choose_spec

/-- The instructions that write registers are of class U or V. -/
theorem RegisterForm.not_late {i : Instr} (hi : RegisterForm i) : (i.view.any fun v => [(2 : BitVec 3), 3].contains v.cls) = false := by
  obtain ⟨h, ⟨c, hc, o, rfl⟩ | ⟨c, hc, o, rfl⟩⟩ := hi
  · have views : ∀ c ∈ scalarResults ++ vectorResults ++ modeResults,
        ((c h o).view.any fun v => [(2 : BitVec 3), 3].contains v.cls) = false := by
      simp only [scalarResults, vectorResults, modeResults, List.cons_append, List.nil_append, List.forall_mem_cons,
        List.not_mem_nil, false_implies, implies_true, and_true]
      and_intros
      all_goals rfl
    exact views c hc
  · have views : ∀ c ∈ scalarImmediates ++ vectorImmediates,
        ((c h o).view.any fun v => [(2 : BitVec 3), 3].contains v.cls) = false := by
      simp only [scalarImmediates, vectorImmediates, List.cons_append, List.nil_append, List.forall_mem_cons,
        List.not_mem_nil, false_implies, implies_true, and_true]
      and_intros
      all_goals rfl
    exact views c hc

/-- Syllables that add to the bundle in hand, one after another. -/
theorem runSyllables_of_addsInHand {s : State} {x : Block} {y : Wave} {is : List Instr} (his : ∀ i ∈ is, AddsInHand i) {iu : Issue}
    (sub : iu.sub = true) (hx : s.block? iu.block = some x) (hy : x.waves.find? iu.wave = some y) :
    ∃ j, runSyllables is (s.inHand iu) = .next (s.inHand j) ∧ j.block = iu.block ∧ j.wave = iu.wave := by
  induction is generalizing iu with
  | nil => exact ⟨iu, rfl, rfl, rfl⟩
  | cons i is ih =>
    obtain ⟨hi, his⟩ := List.forall_mem_cons.mp his
    obtain ⟨j, hj, block, wave, jsub⟩ := hi (s.inHand iu) _ (State.env_of rfl hx hy) sub
    obtain ⟨k, hk, kblock, kwave⟩ := ih his jsub (block ▸ hx) (wave ▸ hy)
    refine ⟨k, ?_, kblock.trans block, kwave.trans wave⟩
    rw [runSyllables, hj]
    exact hk

/-- The first sub-bundle of a bundle of such instructions issues. -/
theorem openSplit_of_registerForms {s : State} {e : Env} {is : List Instr} (p : List Nat) (left : List (List Nat)) (he : s.env = some e)
    (his : ∀ i ∈ is, RegisterForm i) :
    ∃ u x y sp, s.openSplit e is p left = .next u ∧ u.block? e.iu.block = some x ∧ x.waves.find? e.iu.wave = some y ∧
      y.split = some sp ∧ sp.left = left ∧ sp.late = [] ∧ sp.iu.block = e.iu.block ∧ sp.iu.wave = e.iu.wave ∧
      Quiet { s with cur := none } u := by
  obtain ⟨-, -, ⟨x, hx, hex⟩, hy⟩ := State.env_some he
  rw [hex] at hy
  have early : ∀ i ∈ ofClass [0, 1] is, AddsInHand i := fun i hi => (his i (List.mem_filter.mp hi).1).addsInHand
  have late : ofClass [2, 3] is = [] := List.filter_eq_nil_iff.mpr fun i hi => by rw [(his i hi).not_late]; decide
  obtain ⟨j, hj, block, wave⟩ := runSyllables_of_addsInHand early (iu := { e.iu with sub := true }) rfl hx hy
  have staged : s.stageAll e.iu (ofClass [0, 1] is) = .next (s.inHand j) := hj
  rw [State.openSplit, staged]
  exact ⟨_, _, _, _, rfl, State.block?_modWave (s := { s with cur := none }) hx hy _, Table.find?_put_self _ _ _, rfl, rfl, late, block, wave,
    State.quiet_modWave _ _ _ _ fun _ => rfl⟩

/-- A middle sub-bundle changes nothing but the note of what is left. -/
theorem nextPart_of_cons {s : State} {b w : Nat} {x : Block} {y : Wave} {sp : Split} {p : List Nat} {l : List (List Nat)}
    (hx : s.block? b = some x) (hy : x.waves.find? w = some y) (left : sp.left = p :: l) (later : sp.at' ≠ s.cycOf x.core) (hl : l ≠ []) :
    ∃ u, s.nextPart b w x y sp = some (.next u, p) ∧ Quiet s u := by
  have more : ¬ l.isEmpty = true := fun n => hl (List.isEmpty_iff.mp n)
  rw [State.nextPart, left]
  dsimp only
  rw [if_neg later.symm, if_neg more]
  exact ⟨_, rfl, State.quiet_setWave s b w y _ ((State.wave?_of_block s hx w).trans hy) rfl⟩

/-- The last sub-bundle with no syllable of class M or X ends the bundle: it commits what was staged. -/
theorem nextPart_of_last {s : State} {b w : Nat} {x : Block} {y : Wave} {sp : Split} {p : List Nat}
    (hx : s.block? b = some x) (hy : x.waves.find? w = some y) (left : sp.left = [p]) (later : sp.at' ≠ s.cycOf x.core)
    (late : sp.late = []) (block : sp.iu.block = b) (wave : sp.iu.wave = w) (held : sp.iu.held = false) (passed : sp.iu.raised = [])
    (room : countersFull y sp.iu.effs = false) (hr : ∀ f ∈ sp.iu.effs, f.onRegs = true) :
    ∃ u, s.nextPart b w x y sp = some (.next u, p) ∧ CommitsTo s u sp.iu y := by
  subst block wave
  have commits := commitsTo_finish (State.env_of (s := s.inHand { sp.iu with sub := false }) rfl hx hy) held room passed hr
  refine ⟨_, ?_, commits⟩
  unfold State.nextPart State.endSplit
  rw [left, late]
  dsimp only
  rw [if_neg later.symm]
  rfl

/-- Settles O53: each instruction's settled result names the effects that it stages, the commit of effects that lie within some bounds keeps
all else, and split bundles of such instructions only note what they have staged until their last sub-bundle commits it. -/
theorem registerInstructionFrames : Obligations.RegisterInstructionFrames := by
  unfold Obligations.RegisterInstructionFrames
  refine ⟨fun s e h he ha => ?_, fun s e is p left he his => openSplit_of_registerForms p left he his,
    fun s b w x y sp p l hx hy left later => ⟨nextPart_of_cons hx hy left later, ?_⟩⟩
  · refine ⟨?_, ?_, ?_, ?_, ?_, ?_, ?_, ?_, ?_, ?_, ?_, ?_, ?_, ?_, ?_⟩
    · exact fun c hc o => frame_of_setS he ha (stagesU_scalarResults h o c hc).choose_spec
    · exact fun c hc o => frame_of_setS he ha (stagesU_scalarImmediates h o c hc).choose_spec
    · exact fun o => frame_sadd64 he ha o
    · exact fun o => frame_longScalars he ha o
    · exact fun o => frame_scalarCompares he ha o
    · exact fun o => ⟨frame_scmpi he ha o, frame_vcmpi he ha o⟩
    · exact fun c hc o => frame_of_setVs he ha (stagesV_vectorResults h o c hc).choose_spec
    · exact fun c hc o => frame_of_setVs he ha (stagesV_vectorImmediates h o c hc).choose_spec
    · exact fun o => ⟨frame_vadd64 he ha o, frame_sftwid he ha o⟩
    · exact fun o => frame_longVectors he ha o
    · exact fun c hc o => frame_of_setPs he ha (stagesV_predicateResults h o c hc).choose_spec
    · exact fun c hc o => frame_modeResults he ha o c hc
    · exact fun o => frame_xballot he ha o
    · exact fun o => ⟨frame_of_setS64 he ha (stages_time h o), frame_of_setS64 he ha (stages_cyc h o)⟩
    · exact fun o owned free => frame_mfs he ha o owned free
  · rintro rfl late block wave held passed room hr
    exact nextPart_of_last hx hy left later late block wave held passed room hr

end Sys2Proof.Safety
end

section
/-! PROOFS. A step runs the head of the agenda, or the instruction decoded where the first ready wave of the first core that has one stands
(R115, R156, R159 to R161, R166, R168, R237). -/

namespace Sys2Proof.Machine

/-! ## The order in which a core's waves are tried -/

section
variable {α : Type} (key : α → Nat) (l : List α)

/-- The elements of a list with keys below n, key by key. -/
def byKey (n : Nat) : List α := (List.range n).flatMap fun k => l.filter fun a => decide (key a = k)

theorem pairwise_byKey (n : Nat) : (byKey key l n).Pairwise fun a b => key a ≤ key b := by
  have keyed {k : Nat} {a : α} (ha : a ∈ l.filter fun a => decide (key a = k)) : key a = k := of_decide_eq_true (List.mem_filter.mp ha).2
  refine List.pairwise_flatMap.mpr ⟨fun k _ => List.pairwise_of_forall_mem_list fun a ha b hb => ?_, ?_⟩
  · rw [keyed ha, keyed hb]
  · refine List.pairwise_lt_range.imp fun hlt a ha b hb => ?_
    rw [keyed ha, keyed hb]
    exact Nat.le_of_lt hlt

/-- Those of one key stand as they stood in the list. -/
theorem filter_byKey (n k : Nat) :
    (byKey key l n).filter (fun a => decide (key a = k)) = if k < n then l.filter fun a => decide (key a = k) else [] := by
  induction n with
  | zero => rfl
  | succ n ih =>
    have last : (l.filter fun a => decide (key a = n)).filter (fun a => decide (key a = k)) =
        if k = n then l.filter fun a => decide (key a = k) else [] := by
      rw [List.filter_filter]
      split
      · next e => simp only [e, Bool.and_self]
      · next ne =>
        refine List.filter_eq_nil_iff.mpr fun a _ h => ?_
        simp only [Bool.and_eq_true, decide_eq_true_eq] at h
        exact ne (h.1.symm.trans h.2)
    have cut : byKey key l (n + 1) = byKey key l n ++ l.filter fun a => decide (key a = n) := by
      simp only [byKey, List.range_succ, List.flatMap_append, List.flatMap_singleton]
    rw [cut, List.filter_append, ih, last]
    by_cases hk : k < n
    · rw [if_pos hk, if_neg (Nat.ne_of_lt hk), if_pos (Nat.lt_succ_of_lt hk), List.append_nil]
    · by_cases e : k = n
      · rw [if_neg hk, if_pos e, if_pos (by omega), List.nil_append]
      · rw [if_neg hk, if_neg e, if_neg (by omega), List.nil_append]

end

theorem State.tryOrder_eq (s : State) (core : Nat) :
    s.tryOrder core = byKey (fun p => s.prioOf p.2.1) (s.slotOrder core (s.core core).lastPrimary) 4 := rfl

/-! ## The first wave of a core that is ready -/

section
variable {s t : State} {core k b w : Nat} {m : List Nat} (r : List (Nat × Nat × Nat))

/-- A wave that cannot issue at all is passed over. -/
theorem State.issueFirst_of_none (h : s.tryFresh b w false = none) : s.issueFirst core ((k, b, w) :: r) = s.issueFirst core r := by
  rw [State.issueFirst, h]

/-- A wave whose bundle is held notes it. -/
theorem State.issueFirst_of_held (h : s.tryFresh b w false = some (.next t, m)) (held : heldOut (.next t) b w = true) :
    s.issueFirst core ((k, b, w) :: r) = (s.noteHeld t b w).issueFirst core r := by
  rw [State.issueFirst, h]
  exact if_pos held

/-- A wave whose bundle fails at fetch or decode is no primary. -/
theorem State.issueFirst_of_empty (h : s.tryFresh b w false = some (.next t, m)) (ready : heldOut (.next t) b w = false)
    (empty : m.isEmpty = true) : s.issueFirst core ((k, b, w) :: r) = t.issueFirst core r := by
  rw [State.issueFirst, h]
  exact (if_neg (by rw [ready]; decide)).trans (if_pos empty)

/-- The state after a primary: its core notes it and when it issued, and its partner is chosen. -/
def State.afterPrimary (s t : State) (core k b w : Nat) (m : List Nat) : State :=
  { t.modCore core fun c => { c with lastPrimary := k, issuedAt := some (s.cycOf core) } with
    partner := (s.partnerOf core k m).map fun p => ⟨p.1, p.2, t.lastStore b w (s.sidOf b w)⟩ }

/-- A ready wave issues as primary. -/
theorem State.issueFirst_of_ready (h : s.tryFresh b w false = some (.next t, m)) (ready : heldOut (.next t) b w = false)
    (slots : m.isEmpty = false) : s.issueFirst core ((k, b, w) :: r) = (s, some (.next (s.afterPrimary t core k b w m))) := by
  rw [State.issueFirst, h]
  exact (if_neg (by rw [ready]; decide)).trans (if_neg (by rw [slots]; decide))

/-- A wave whose bundle faults or is refused ends the search. -/
theorem State.issueFirst_of_not_next {o : Out} (h : s.tryFresh b w false = some (o, m)) (ho : ∀ t, o ≠ .next t) :
    s.issueFirst core ((k, b, w) :: r) = (s, some o) := by
  rw [State.issueFirst, h]
  cases o with
  | next t => exact absurd rfl (ho t)
  | fault f => rfl
  | refused c => rfl

end

/-! ## Waves and cores before the one that issues -/

/-- Waves that come to nothing are passed over. -/
theorem State.issueFirst_append {s t : State} {core : Nat} {pre : List (Nat × Nat × Nat)} (post : List (Nat × Nat × Nat))
    (h : s.issueFirst core pre = (t, none)) : s.issueFirst core (pre ++ post) = t.issueFirst core post := by
  induction pre generalizing s with
  | nil =>
    cases h
    rfl
  | cons p pre ih =>
    obtain ⟨k, b, w⟩ := p
    have stop {o : Out} {m : List Nat} (hf : s.tryFresh b w false = some (o, m)) (ho : ∀ t, o ≠ .next t) :
        s.issueFirst core ((k, b, w) :: pre ++ post) = t.issueFirst core post := by
      rw [State.issueFirst_of_not_next pre hf ho] at h
      cases h
    cases hf : s.tryFresh b w false with
    | none => exact (State.issueFirst_of_none _ hf).trans (ih ((State.issueFirst_of_none pre hf).symm.trans h))
    | some r =>
      obtain ⟨o, m⟩ := r
      cases o with
      | fault f => exact stop hf (by simp)
      | refused c => exact stop hf (by simp)
      | next v =>
        cases held : heldOut (.next v) b w with
        | true => exact (State.issueFirst_of_held _ hf held).trans (ih ((State.issueFirst_of_held pre hf held).symm.trans h))
        | false =>
          cases empty : m.isEmpty with
          | true => exact (State.issueFirst_of_empty _ hf held empty).trans (ih ((State.issueFirst_of_empty pre hf held empty).symm.trans h))
          | false =>
            rw [State.issueFirst_of_ready pre hf held empty] at h
            cases h

/-- Cores with no ready wave are passed over. -/
theorem State.issueAny_append {s t : State} {cs : List Nat} (cores : List Nat) (h : s.issueAny cs = (t, none)) :
    s.issueAny (cs ++ cores) = t.issueAny cores := by
  induction cs generalizing s with
  | nil =>
    cases h
    rfl
  | cons c cs ih =>
    rw [List.cons_append, State.issueAny]
    rw [State.issueAny] at h
    split at h
    · next shut => rw [if_pos shut]; exact ih h
    · next opened =>
      rw [if_neg opened]
      split at h
      · exact ih h
      · next hne => exact absurd h (hne t)

/-- The first core that may issue and has a ready wave issues it. -/
theorem State.issueAny_of_issueFirst {s t : State} {core : Nat} (cores : List Nat) {o : Out} (opened : s.coreMayIssue core = true)
    (h : s.issueFirst core (s.tryOrder core) = (t, some o)) : s.issueAny (core :: cores) = (t, some o) := by
  rw [State.issueAny, if_neg (by rw [opened]; decide), h]

/-! ## The bundle that runs -/

theorem runSyllables_eq (is : List Instr) (s : State) : runSyllables is s = Safety.resultOf is s := by
  have stopped (is : List Instr) {o : Out} (ho : ∀ t, o ≠ .next t) : is.foldl (fun o i => match o with
      | .next v => exec i v
      | o => o) o = o := by
    induction is with
    | nil => rfl
    | cons i is ih =>
      cases o with
      | next t => exact absurd rfl (ho t)
      | fault f => exact ih
      | refused r => exact ih
  induction is generalizing s with
  | nil => rfl
  | cons i is ih =>
    rw [runSyllables, Safety.resultOf, List.foldl_cons]
    dsimp only
    cases exec i s with
    | next t => exact ih t
    | fault f => exact (stopped is (by simp)).symm
    | refused r => exact (stopped is (by simp)).symm

/-- A decoded bundle that nothing holds before its syllables are looked at, and that no masked slot splits, runs them. -/
theorem State.issueDecoded_of_unsplit {s : State} {e : Env} {is : List Instr} (p : List Nat) (he : s.env = some e)
    (free : e.heldBack is = false) : s.issueDecoded is [p] = Safety.resultOf (is.map e.resolve) s := by
  simp only [State.issueDecoded, he, free, State.resolve, Bool.false_eq_true, if_false, runSyllables_eq]

/-- A bundle that decodes is looked at. -/
theorem State.issueAt_of_decodeBundle_ok {s t : State} {b w : Nat} {x : Block} {y : Wave} {pc : PC} {ws : List DWord} {is : List Instr}
    (hf : s.fetchBundle (x.seenBy y) pc = (t, .ok ws)) (hd : decodeBundle x.priv x.budget y.rotb.toNat ws = .ok is) :
    let u := t.begin b w (x.ctxOf y) (y.lanesAt pc) pc ws.length
    s.issueAt b w x y pc = (u.issueDecoded is (u.parts x.core ws), u.parts x.core ws) := by
  simp only [State.issueAt, hf, hd]

/-- With one subset of threads, a wave issues from it; an escape turn has no other to serve. -/
theorem State.chooseSubset_nil (s : State) (b w : Nat) (x : Block) (y : Wave) (p : PC) :
    s.chooseSubset b w x y p [] = s.issueSubset b w x y p (if y.esc = 256 then 0 else y.esc) := by
  unfold State.chooseSubset
  split <;> rfl

/-- What a wave does whose threads stand at one PC, at a bundle that runs. -/
theorem State.tryWave_of_runs {s u : State} {b w : Nat} {is : List Instr} {p : List Nat} {e : Env} {beside : Bool}
    (hr : Safety.Runs s b w is p u) (he : u.env = some e) (hold : beside = true ∨ s.placing = true ∧ ∀ x, s.block? b = some x → x.stop = none)
    (ho : s.orderly (Safety.resultOf (is.map e.resolve) u) = true) :
    s.tryWave b w beside = some (Safety.resultOf (is.map e.resolve) u, p) := by
  obtain ⟨x, y, pc, t, ws, e', hx, hy, whole, may, one, fetched, decoded, rfl, he', free, parts, -, opened⟩ := hr
  obtain rfl : e' = e := Option.some.inj (he'.symm.trans he)
  have begins : ¬ ((!(beside || (s.placing && x.stop.isNone))) = true ∨ (!x.mayIssue y) = true) := by
    obtain hb | ⟨hp, hs⟩ := hold
    · simp [hb, may]
    · simp [hp, hs x hx, may]
  have issued : s.chooseSubset b w x y pc [] =
      (Safety.resultOf (is.map e'.resolve) (t.begin b w (x.ctxOf y) (y.lanesAt pc) pc ws.length), [p]) := by
    rw [State.chooseSubset_nil]
    refine (State.issueAt_of_decodeBundle_ok fetched decoded).trans ?_
    rw [← State.issueDecoded_of_unsplit p he free]
    exact congrArg (fun l => (State.issueDecoded _ is l, l)) parts
  have turn : s.turnOfWave b w beside = some (Safety.resultOf (is.map e'.resolve) (t.begin b w (x.ctxOf y) (y.lanesAt pc) pc ws.length), p) := by
    simp only [State.turnOfWave, hx, hy, whole, one, issued]
    rw [if_neg begins]
    exact if_pos opened
  rw [State.tryWave, turn]
  exact (Option.filter_some ..).trans (if_pos ho)

/-- A wave's note of a hold that is wiped stops nothing. -/
theorem State.stop_of_modWave {s : State} {b w : Nat} {f : Wave → Wave} {x : Block} (hx : (s.modWave b w f).block? b = some x)
    (hs : ∀ x, s.block? b = some x → x.stop = none) : x.stop = none := by
  unfold State.modWave at hx
  split at hx
  · rw [State.setWave, State.block?_modBlock, if_pos rfl] at hx
    obtain ⟨z, hz, rfl⟩ := Option.map_eq_some_iff.mp hx
    exact hs z hz
  · exact hs x hx

/-- What the first move of a primary comes to. -/
theorem State.tryFresh_of_runs {s u : State} {b w : Nat} {is : List Instr} {p : List Nat} {e : Env}
    (hr : Safety.Runs (s.modWave b w fun y => { y with since := none }) b w is p u) (he : u.env = some e) (placing : s.placing = true)
    (running : ∀ x, s.block? b = some x → x.stop = none)
    (ho : (s.modWave b w fun y => { y with since := none }).orderly (Safety.resultOf (is.map e.resolve) u) = true) :
    s.tryFresh b w false = some (Safety.resultOf (is.map e.resolve) u, p) := by
  refine State.tryWave_of_runs hr he (.inr ⟨?_, fun x hx => State.stop_of_modWave hx running⟩) ho
  simpa only [State.placing, State.modWave_host, State.modWave_fw] using placing

/-! ## The move of a step -/

theorem step_of_agenda {s : State} {i : Instr} {rest : List Instr} (ha : s.agenda = i :: rest) (hp : s.partner = none) :
    step s = ticked (s.orElse (exec i { s with agenda := rest }) s.ownMove) := by
  rw [step, State.move, hp, ha]

theorem step_of_partner {s : State} {p : Partner} (hp : s.partner = some p) :
    step s = ticked (({ s with partner := none } : State).issuePartner p) := by
  rw [step, State.move, hp]

theorem step_of_turn {s t : State} {o : Out} (ha : s.agenda = []) (hp : s.partner = none) (hl : s.readyLaunch = none) (ht : s.turn = true)
    (hi : ({ s with turn := false } : State).issueAny ({ s with turn := false } : State).busyCores = (t, some o)) : step s = ticked o := by
  rw [step, State.move, hp, ha, hl]
  dsimp only
  have own : s.ownMove = ({ s with turn := false } : State).waveMove := by
    rw [State.ownMove, ht]
    rfl
  rw [own, State.waveMove, hi]

theorem State.issuePartner_of_ready {s t : State} {p : Partner} {m : List Nat} (h : s.tryFresh p.b p.w true = some (.next t, m))
    (ready : heldOut (.next t) p.b p.w = false) : s.issuePartner p = .next (t.storesAfter p.b p.w (s.sidOf p.b p.w) p.ahead) := by
  rw [State.issuePartner, h]
  exact congrArg _ (if_neg (by rw [ready]; decide))

theorem State.issuePartner_of_not_next {s : State} {p : Partner} {m : List Nat} {o : Out} (h : s.tryFresh p.b p.w true = some (o, m))
    (ho : ∀ t, o ≠ .next t) : s.issuePartner p = o := by
  rw [State.issuePartner, h]
  cases o with
  | next t => exact absurd rfl (ho t)
  | fault f => rfl
  | refused c => rfl

end Sys2Proof.Machine

namespace Sys2Proof.Safety

open Sys2Proof.Machine

/-- Settles O48: the cores and waves before the one that issues come to nothing, and what that one does is the run of its decoded
syllables. -/
theorem stepRunsTheDecodedInstruction : Obligations.StepRunsTheDecodedInstruction := by
  unfold Obligations.StepRunsTheDecodedInstruction
  intro s timed
  refine ⟨?_, ?_, ?_, ?_⟩
  · intro i rest ha hp o
    rw [step_of_agenda ha hp, State.orElse]
    refine ⟨fun hc => ?_, fun hc => by rw [if_neg (by rw [hc]; decide)]⟩
    rw [if_pos hc]
    exact ⟨fun t h => congrArg ticked h, fun f h => congrArg ticked h, fun r h => congrArg ticked h⟩
  · intro core
    rw [State.tryOrder_eq]
    exact ⟨pairwise_byKey _ _ 4, fun n hn => (filter_byKey _ _ 4 n).trans (if_pos hn)⟩
  · intro cs cores pre post core k b w is p s2 s3 u e ha hp hl ht s1 busy before opened order passed placing running s4 hr he out ho
    have tried : s3.tryFresh b w false = some (out, p) := State.tryFresh_of_runs hr he placing running ho
    have slots : p.isEmpty = false := by
      obtain ⟨_, _, _, _, _, _, -, -, -, -, -, -, -, -, -, -, -, hne, -⟩ := hr
      exact List.isEmpty_eq_false_iff.mpr hne
    have issues {o : Out} (h : s3.issueFirst core ((k, b, w) :: post) = (s3, some o)) : step s = ticked o := by
      refine step_of_turn ha hp hl ht (t := s3) ?_
      have first : s2.issueFirst core (s2.tryOrder core) = (s3, some o) := by
        rw [order, State.issueFirst_append _ passed, h]
      exact (congrArg s1.issueAny busy).trans ((State.issueAny_append _ before).trans (State.issueAny_of_issueFirst _ opened first))
    refine ⟨?_, fun v hv ready => ?_, fun f hf => ?_, fun r hr => ?_⟩
    · rintro i rfl
      rfl
    · rw [hv] at tried
      exact issues (State.issueFirst_of_ready post tried ready slots)
    · rw [hf] at tried
      exact issues (State.issueFirst_of_not_next post tried (by simp))
    · rw [hr] at tried
      exact issues (State.issueFirst_of_not_next post tried (by simp))
  · intro b w ahead is p u e hp s1 hr he out ho
    have tried : ({ s with partner := none } : State).tryFresh b w true = some (out, p) := State.tryWave_of_runs hr he (.inl rfl) ho
    rw [step_of_partner hp]
    refine ⟨fun v hv ready => ?_, fun f hf => ?_, fun r hr => ?_⟩
    · rw [hv] at tried
      exact congrArg ticked (State.issuePartner_of_ready (p := ⟨b, w, ahead⟩) tried ready)
    · rw [hf] at tried
      exact congrArg ticked (State.issuePartner_of_not_next (p := ⟨b, w, ahead⟩) tried (by simp))
    · rw [hr] at tried
      exact congrArg ticked (State.issuePartner_of_not_next (p := ⟨b, w, ahead⟩) tried (by simp))

end Sys2Proof.Safety
end
